-- ==== Sys2Proof/Word.lean ====
section
/-!
DEFINITION. The word types of the LN-940: registers of 64 bits (R79), bytes of memory (R4), Carug words
of 96 bits (R24) and reel words of 32 bits (R36).
-/
namespace Sys2Proof

/-- A 64-bit register or queue entry. -/
abbrev Word := BitVec 64

/-- One byte of memory. -/
abbrev Byte := BitVec 8

/-- A Carug instruction word: W2, W1, W0 from the top (R24). -/
abbrev CWord := BitVec 96

/-- A word of the reel's code (R36). -/
abbrev RWord := BitVec 32

end Sys2Proof
end

