-- ==== Sys2Proof/Machine/Bits.lean ====
section
/-!
DEFINITION. Bit fields, extensions, byte order, and sorted tables: the helpers that the decoder and the
machine share.
-/
namespace Sys2Proof.Machine

/-- x[hi:lo] read as an unsigned number (R3). -/
def bits (x hi lo : Nat) : Nat := (x >>> lo) % 2 ^ (hi + 1 - lo)

/-- Bit n of x (R3). -/
def bit (x n : Nat) : Bool := Nat.testBit x n

/-- x with its w bits from position lo replaced by those of y. -/
def setBits (x lo w y : Nat) : Nat :=
  x ^^^ (((x >>> lo) % 2 ^ w ^^^ y % 2 ^ w) <<< lo)

/-- x with bit n set to b. -/
def setBit (x n : Nat) (b : Bool) : Nat := setBits x n 1 b.toNat

/-- n ones. -/
def ones (n : Nat) : Nat := 2 ^ n - 1

/-- The low n bits of x read as two's complement. -/
def toSigned (n x : Nat) : Int :=
  let y := x % 2 ^ n
  if 2 * y < 2 ^ n then (y : Int) else (y : Int) - 2 ^ n

/-- x modulo 2^n as a natural number. -/
def ofInt (n : Nat) (x : Int) : Nat := (x % (2 ^ n : Int)).toNat

/-- sext(x, n) of Table 0-2. -/
def sext (x n : Nat) : Word := BitVec.ofInt 64 (toSigned n x)

/-- zext(x, n) of Table 0-2. -/
def zext (x n : Nat) : Word := BitVec.ofNat 64 (x % 2 ^ n)

/-- ceil(a / b). -/
def ceilDiv (a b : Nat) : Nat := (a + b - 1) / b

/-- The n bytes of x, least significant first (R4). -/
def toBytes : Nat → Nat → List Byte
  | 0, _ => []
  | n + 1, x => BitVec.ofNat 8 x :: toBytes n (x / 256)

/-- The number whose bytes are given, least significant first (R4). -/
def ofBytes : List Byte → Nat
  | [] => 0
  | b :: bs => b.toNat + 256 * ofBytes bs

/-- A table: entries by rising key. -/
abbrev Tab (α : Type) := List (Nat × α)

/-- The entry of key n, or the default. -/
def Tab.get {α : Type} [Inhabited α] : Tab α → Nat → α
  | [], _ => default
  | (m, x) :: t, n => if n = m then x else Tab.get t n

/-- The entry of key n, if there is one. -/
def Tab.find {α : Type} : Tab α → Nat → Option α
  | [], _ => .none
  | (m, x) :: t, n => if n = m then some x else Tab.find t n

/-- The table with x at key n, in rising order of keys. -/
def Tab.set {α : Type} : Tab α → Nat → α → Tab α
  | [], n, x => [(n, x)]
  | (m, y) :: t, n, x =>
    if n < m then (n, x) :: (m, y) :: t
    else if n = m then (n, x) :: t
    else (m, y) :: Tab.set t n x

/-- The table without key n. -/
def Tab.del {α : Type} : Tab α → Nat → Tab α
  | [], _ => []
  | (m, y) :: t, n => if n = m then Tab.del t n else (m, y) :: Tab.del t n

/-- The table with x at key n, in the canonical form: the default value has no entry. -/
def Tab.put {α : Type} [Inhabited α] [DecidableEq α] (t : Tab α) (n : Nat) (x : α) : Tab α :=
  if x = default then Tab.del t n else Tab.set t n x

/-- The table with the entry of key n changed by f. -/
def Tab.mod {α : Type} [Inhabited α] (t : Tab α) (n : Nat) (f : α → α) : Tab α :=
  Tab.set t n (f (Tab.get t n))

/-- The table with every entry changed by f. -/
def Tab.each {α : Type} (t : Tab α) (f : α → α) : Tab α := t.map fun e => (e.1, f e.2)

/-- Whether some entry satisfies p. -/
def Tab.has {α : Type} (t : Tab α) (p : α → Bool) : Bool := t.any fun e => p e.2

/-- The canonical form: keys strictly rising, no entry equal to the default. -/
def Tab.wf {α : Type} [Inhabited α] [DecidableEq α] : Tab α → Bool
  | [] => true
  | [(_, x)] => decide (x ≠ default)
  | (m, x) :: (n, y) :: t => decide (x ≠ default) && decide (m < n) && Tab.wf ((n, y) :: t)

/-- The elements of a list from position n on, with element i changed by f. -/
def modifyAt {α : Type} (f : α → α) : Nat → List α → List α
  | _, [] => []
  | 0, x :: l => f x :: l
  | n + 1, x :: l => x :: modifyAt f n l

/-- The list without element i. -/
def dropAt {α : Type} : Nat → List α → List α
  | _, [] => []
  | 0, _ :: l => l
  | n + 1, x :: l => x :: dropAt n l

/-- f applied to the state for 0, 1, … , n − 1 in turn. -/
def iter {σ : Type} (n : Nat) (f : Nat → σ → σ) (s : σ) : σ :=
  (List.range n).foldl (fun s i => f i s) s

/-- The number of i < n with p i. -/
def countBelow (n : Nat) (p : Nat → Bool) : Nat :=
  (List.range n).foldl (fun c i => if p i then c + 1 else c) 0

end Sys2Proof.Machine
end

