-- ==== Sys2Proof/Machine/Flags.lean ====
section
/-!
DEFINITION. The floating flags (Table 4-4), the floating formats (Table 7-1), and rounding with every flag it
raises (R139, R140, R144 to R149, R151 to R153).
-/
namespace Sys2Proof.Machine

/-! ## Flags, Table 4-4 -/

def fNX : Nat := 1
def fUF : Nat := 2
def fOF : Nat := 4
def fDZ : Nat := 8
def fNV : Nat := 16

/-- A flag under a condition. -/
def flagIf (b : Bool) (f : Nat) : Nat := if b then f else 0

/-! ## Types -/

/-- bits(ty) of Table 6-1. -/
def widthOf (ty : Nat) : Nat :=
  match ty with
  | 8 => 4
  | 0 | 4 | 9 | 10 => 8
  | 1 | 5 | 11 | 12 => 16
  | 2 | 6 | 13 => 32
  | _ => 64

/-- An S type (R138). -/
def isSType (ty : Nat) : Bool := decide (ty < 4)
/-- An integer type. -/
def isIType (ty : Nat) : Bool := decide (ty < 8)
/-- A floating type, 9 to 14. -/
def isFloat (ty : Nat) : Bool := decide (9 ≤ ty) && decide (ty ≤ 14)
/-- The types that FTZ flushes (R149). -/
def flushes (ty : Nat) : Bool := decide (11 ≤ ty) && decide (ty ≤ 13)

/-- The widths of E and F (Table 7-1). -/
def expBits (ty : Nat) : Nat :=
  match ty with | 14 => 11 | 13 => 8 | 12 => 5 | 11 => 8 | 10 => 5 | 9 => 4 | _ => 2
def fracBits (ty : Nat) : Nat :=
  match ty with | 14 => 52 | 13 => 23 | 12 => 10 | 11 => 7 | 10 => 2 | 9 => 3 | _ => 1
/-- The bias (Table 7-1). -/
def biasOf (ty : Nat) : Nat := 2 ^ (expBits ty - 1) - 1
/-- emin (Table 7-1). -/
def eminOf (ty : Nat) : Int := 1 - (biasOf ty : Int)
/-- emax (Table 7-1): E4M3 uses the code of all ones for finite numbers. -/
def emaxOf (ty : Nat) : Int := if ty = 9 then 8 else (biasOf ty : Int)
/-- The largest significand at emax: E4M3's last code is its NaN. -/
def maxSig (ty : Nat) : Nat := if ty = 9 then 14 else 2 ^ (fracBits ty + 1) - 1

/-- The sign bit of an element. -/
def signOf (ty x : Nat) : Bool := bit x (widthOf ty - 1)
/-- E of an element. -/
def expOf (ty x : Nat) : Nat := x >>> fracBits ty % 2 ^ expBits ty
/-- F of an element. -/
def fracOf (ty x : Nat) : Nat := x % 2 ^ fracBits ty

/-- Whether the bits are a NaN (R140). -/
def isNaN (ty x : Nat) : Bool :=
  if ty = 9 then x % 128 == 127
  else isFloat ty && expOf ty x == ones (expBits ty) && fracOf ty x != 0

/-- Whether the bits are an infinity. -/
def isInf (ty x : Nat) : Bool := ty != 9 && isFloat ty && expOf ty x == ones (expBits ty) && fracOf ty x == 0

/-- A signalling NaN; E4M3's NaNs have no quiet bit. -/
def isSNaN (ty x : Nat) : Bool := ty != 9 && isNaN ty x && !(bit x (fracBits ty - 1))

/-- quiet(x) of R152. -/
def quiet (ty x : Nat) : Nat := if ty = 9 then x else x ||| 2 ^ (fracBits ty - 1)

/-- The canonical NaNs of Table 7-5. -/
def canonNaN (ty : Nat) : Nat :=
  if ty = 9 then 0x7F else (ones (expBits ty) <<< fracBits ty) ||| 2 ^ (fracBits ty - 1)

/-- The bits of an infinity. -/
def infBits (ty : Nat) (neg : Bool) : Nat :=
  (neg.toNat <<< (widthOf ty - 1)) ||| (ones (expBits ty) <<< fracBits ty)

/-- The bits of a zero. -/
def zeroBits (ty : Nat) (neg : Bool) : Nat := neg.toNat <<< (widthOf ty - 1)

/-- The bits of the largest finite number. -/
def maxBits (ty : Nat) (neg : Bool) : Nat :=
  (neg.toNat <<< (widthOf ty - 1)) |||
    (if ty = 9 then 0x7E else (ones (expBits ty) - 1) <<< fracBits ty ||| ones (fracBits ty))

/-- first_nan of R152 over elements of one type: quiet of the first NaN. -/
def firstNaN (ty : Nat) : List Nat → Option Nat
  | [] => none
  | x :: xs => if isNaN ty x then some (quiet ty x) else firstNaN ty xs

/-- NV of signalling operands (R152). -/
def snanFlag (ty : Nat) (xs : List Nat) : Nat := flagIf (xs.any (isSNaN ty)) fNV

/-! ## Exact values -/

/-- A signed real number: m × 2^x, exactly, or with `st` a number strictly between m × 2^x and (m + 1) × 2^x
in magnitude. A zero keeps its sign. -/
structure Dy where
  neg : Bool := false
  m   : Nat := 0
  x   : Int := 0
  st  : Bool := false
  deriving DecidableEq, Repr, Inhabited

/-- Whether the number is zero. -/
def Dy.isZero (d : Dy) : Bool := d.m == 0 && !d.st

/-- The number with its sign inverted where b. -/
def Dy.flip (d : Dy) (b : Bool) : Dy := { d with neg := xor d.neg b }

/-- An integer as an exact value; zero is +0. -/
def Dy.ofInt (i : Int) : Dy := { neg := decide (i < 0), m := i.natAbs }

/-- The signed significand of an exact value at exponent x, not above its own. -/
def Dy.at (d : Dy) (x : Int) : Int :=
  let v : Int := (d.m <<< (d.x - x).toNat : Nat)
  if d.neg then -v else v

/-- The product of two exact values. -/
def Dy.mul (a b : Dy) : Dy := { neg := xor a.neg b.neg, m := a.m * b.m, x := a.x + b.x }

/-- The sum of two exact values. An exact zero takes the sign of IEEE 754-2019: that of both where they agree,
else +0, and −0 under RDN (R163). -/
def Dy.add (rm : Nat) (a b : Dy) : Dy :=
  let x := min a.x b.x
  let v := a.at x + b.at x
  if v = 0 then { neg := if a.isZero && b.isZero && a.neg == b.neg then a.neg else rm == 2 }
  else { neg := decide (v < 0), m := v.natAbs, x := x }

/-- The exact comparison of two values; −0 equals +0. -/
def Dy.lt (a b : Dy) : Bool :=
  let x := min a.x b.x
  decide (a.at x < b.at x)
/-- Equality of two exact values; −0 equals +0. -/
def Dy.eq (a b : Dy) : Bool :=
  let x := min a.x b.x
  a.at x == b.at x

/-- The value of a finite element (R139), its subnormals flushed to zero where `ftz` (R149). -/
def finite (ftz : Bool) (ty x : Nat) : Dy :=
  let e := expOf ty x
  let f := fracOf ty x
  if e = 0 then
    (if ftz && flushes ty then { neg := signOf ty x }
     else { neg := signOf ty x, m := f, x := eminOf ty - fracBits ty })
  else { neg := signOf ty x, m := f + 2 ^ fracBits ty, x := (e : Int) - biasOf ty - fracBits ty }

/-- The element with a subnormal flushed to zero where `ftz` (R149). -/
def flush (ftz : Bool) (ty x : Nat) : Nat :=
  if ftz && flushes ty && expOf ty x == 0 then zeroBits ty (signOf ty x) else x

/-! ## Rounding -/

/-- What rounding takes besides the value: the mode, FTZ and SAT as captured, SAT only where the instruction
converts (R147), and rnd of R146. -/
structure Rounding where
  rm  : Nat := 0
  ftz : Bool := false
  sat : Bool := false
  rnd : Nat := 0

/-- mix of R146. -/
def srsMix (sd i : Nat) : Nat :=
  let z := (sd + (i + 1) * 0x9E3779B97F4A7C15) % 2 ^ 64
  let z := ((z ^^^ (z / 2 ^ 30)) * 0xBF58476D1CE4E5B9) % 2 ^ 64
  let z := ((z ^^^ (z / 2 ^ 27)) * 0x94D049BB133111EB) % 2 ^ 64
  let z := z ^^^ (z / 2 ^ 31)
  z / 2 ^ 32

/-- Whether a mode rounds an overflow of the given sign toward zero (R147). -/
def towardZero (rm : Nat) (neg : Bool) : Bool := rm == 1 || (rm == 2 && !neg) || (rm == 3 && neg)

/-- overflow_result for a finite magnitude above the largest (Table 7-4). -/
def overflowResult (r : Rounding) (ty : Nat) (neg : Bool) : Nat × Nat :=
  if r.sat || towardZero r.rm neg then (maxBits ty neg, fOF ||| fNX)
  else if ty = 9 then (if neg then 0xFF else 0x7F, fNV ||| fOF)
  else (infBits ty neg, fOF ||| fNX)

/-- overflow_result for an infinity rounded into ty (Table 7-4). -/
def infResult (r : Rounding) (ty : Nat) (neg : Bool) : Nat × Nat :=
  if r.sat then (maxBits ty neg, fNX)
  else if ty = 9 then (if neg then 0xFF else 0x7F, fNV)
  else (infBits ty neg, 0)

/-- Whether the last place rises (R145): t the digits kept, rem the sh bits below, st a nonzero rest. -/
def roundsUp (r : Rounding) (neg : Bool) (t rem sh : Nat) (st : Bool) : Bool :=
  let half := 2 ^ (sh - 1)
  let inexact := rem != 0 || st
  let gt := sh != 0 && (decide (half < rem) || (rem == half && st))
  let eq := sh != 0 && rem == half && !st
  match r.rm with
  | 0 => gt || (eq && t % 2 == 1)
  | 1 => false
  | 2 => inexact && neg
  | 3 => inexact && !neg
  | 4 => gt || eq
  | _ => decide (r.rnd < (rem <<< 32) >>> sh)

/-- The bits of t × 2^q, t with at most p + 1 bits, not above the largest finite number. -/
def encodeFinite (ty : Nat) (neg : Bool) (t : Nat) (q : Int) : Nat :=
  let f := fracBits ty
  let s := neg.toNat <<< (widthOf ty - 1)
  let (t, q) := if t = 2 ^ (f + 1) then (2 ^ f, q + 1) else (t, q)
  if t < 2 ^ f then s ||| t
  else s ||| ((q + f + biasOf ty).toNat <<< f) ||| (t - 2 ^ f)

/-- round(x, ty, rm) of R145 into a floating type: the bits and the flags. -/
def roundTo (r : Rounding) (ty : Nat) (d : Dy) : Nat × Nat :=
  if d.isZero then (zeroBits ty d.neg, 0)
  else
    let l : Int := (Nat.log2 d.m : Int) + d.x
    let e := max l (eminOf ty)
    let q := e - fracBits ty
    let sh := (q - d.x).toNat
    let t := (d.m <<< (d.x - q).toNat) >>> sh
    let rem := d.m % 2 ^ sh
    let inexact := rem != 0 || d.st
    let y := if roundsUp r d.neg t rem sh d.st then t + 1 else t
    let nx := flagIf inexact fNX
    if emaxOf ty < e || (e == emaxOf ty && decide (maxSig ty < y)) then
      let (v, fl) := overflowResult r ty d.neg
      (v, fl ||| nx)
    else
      let uf := flagIf (decide (l < eminOf ty) && inexact) fUF
      if decide (y < 2 ^ fracBits ty) && y != 0 && r.ftz && flushes ty then
        (zeroBits ty d.neg, nx ||| uf ||| fUF ||| fNX)
      else (encodeFinite ty d.neg y q, nx ||| uf)

/-- The least and the greatest value of an integer type (R138). -/
def intMin (ty : Nat) : Int := if isSType ty then -(2 ^ (widthOf ty - 1) : Int) else 0
def intMax (ty : Nat) : Int := if isSType ty then 2 ^ (widthOf ty - 1) - 1 else 2 ^ widthOf ty - 1

/-- An integer element as a number, by signedness (R138). -/
def intVal (ty x : Nat) : Int := if isSType ty then toSigned (widthOf ty) x else ((x % 2 ^ widthOf ty : Nat) : Int)

/-- The result of R148 out of range: the nearest end with SAT, else the most negative value or all ones. -/
def intOverflow (sat : Bool) (ty : Nat) (neg : Bool) : Nat :=
  let v := if sat then (if neg then intMin ty else intMax ty) else if isSType ty then intMin ty else intMax ty
  ofInt (widthOf ty) v

/-- round into an integer type (R148) of a finite value. -/
def roundInt (r : Rounding) (ty : Nat) (d : Dy) : Nat × Nat :=
  let sh := (-d.x).toNat
  let t := (d.m <<< d.x.toNat) >>> sh
  let rem := d.m % 2 ^ sh
  let y := if roundsUp r d.neg t rem sh d.st then t + 1 else t
  let v : Int := if d.neg then -(y : Int) else y
  if intMin ty ≤ v ∧ v ≤ intMax ty then (ofInt (widthOf ty) v, flagIf (rem != 0 || d.st) fNX)
  else (intOverflow r.sat ty d.neg, fNV)

/-- A NaN converted to a floating type (R153). -/
def convertNaN (from_ ty x : Nat) : Nat :=
  let neg := signOf from_ x
  if ty = 9 then (if neg then 0xFF else 0x7F)
  else
    let f := fracOf from_ x
    let g := if fracBits from_ ≤ fracBits ty then f <<< (fracBits ty - fracBits from_)
             else f >>> (fracBits from_ - fracBits ty)
    (neg.toNat <<< (widthOf ty - 1)) ||| (ones (expBits ty) <<< fracBits ty) ||| g ||| 2 ^ (fracBits ty - 1)

/-- A value or a special, read from an element. -/
inductive FNum where
  | nan (bits : Nat)
  | inf (neg : Bool)
  | num (d : Dy)
  deriving DecidableEq, Repr

/-- The number that an element holds, flushed under FTZ. -/
def unpack (ftz : Bool) (ty x : Nat) : FNum :=
  if isNaN ty x then .nan x else if isInf ty x then .inf (signOf ty x) else .num (finite ftz ty x)

end Sys2Proof.Machine
end

