-- ==== Sys2Proof/Machine/Float.lean ====
section
/-!
DEFINITION. Arithmetic on single elements: the floating functions of Table 8-2 and of famo, the integer ones,
the special functions of Table 8-4, and conversion (R96, R142, R151 to R153, R163 to R172).
Open points: log 18 (DESIGN CHOICE).
-/
namespace Sys2Proof.Machine

/-! ## Floating arithmetic -/

/-- The result of an invalid operation with no NaN operand (R151). -/
def invalidOp (ty : Nat) : Nat × Nat := (canonNaN ty, fNV)

/-- A NaN result of R152: first_nan of the operands, NV for a signalling one. -/
def nanOr (ty : Nat) (xs : List Nat) (k : Nat × Nat) : Nat × Nat :=
  match firstNaN ty xs with
  | some v => (v, snanFlag ty xs)
  | none => k

/-- round(b + c), or with `sub` round(b − c) (Table 8-2). -/
def fAdd (r : Rounding) (ty : Nat) (sub : Bool) (b c : Nat) : Nat × Nat :=
  nanOr ty [b, c] <|
    match unpack r.ftz ty b, unpack r.ftz ty c with
    | .inf n, .inf m => if n = xor m sub then (infBits ty n, 0) else invalidOp ty
    | .inf n, _ => (infBits ty n, 0)
    | _, .inf m => (infBits ty (xor m sub), 0)
    | .num x, .num y => roundTo r ty (x.add r.rm (y.flip sub))
    | _, _ => invalidOp ty

/-- round(b × c). -/
def fMul (r : Rounding) (ty b c : Nat) : Nat × Nat :=
  nanOr ty [b, c] <|
    match unpack r.ftz ty b, unpack r.ftz ty c with
    | .inf n, .inf m => (infBits ty (xor n m), 0)
    | .inf n, .num y => if y.isZero then invalidOp ty else (infBits ty (xor n y.neg), 0)
    | .num x, .inf m => if x.isZero then invalidOp ty else (infBits ty (xor x.neg m), 0)
    | .num x, .num y => roundTo r ty (x.mul y)
    | _, _ => invalidOp ty

/-- A product of two numbers before it is rounded: a finite value, an infinity, or invalid. -/
inductive Prod where
  | bad
  | inf (neg : Bool)
  | num (d : Dy)
  deriving DecidableEq, Repr

/-- The exact product of two elements that are no NaNs. -/
def product (ftz : Bool) (ty b c : Nat) : Prod :=
  match unpack ftz ty b, unpack ftz ty c with
  | .inf n, .inf m => .inf (xor n m)
  | .inf n, .num y => if y.isZero then .bad else .inf (xor n y.neg)
  | .num x, .inf m => if x.isZero then .bad else .inf (xor x.neg m)
  | .num x, .num y => .num (x.mul y)
  | _, _ => .bad

/-- round(σp (b × c) + σa a) (Table 8-2): np and na say which of the two signs is −1. -/
def fFma (r : Rounding) (ty : Nat) (np na : Bool) (b c a : Nat) : Nat × Nat :=
  match firstNaN ty [b, c, a] with
  | some v =>
    let zeroInf := !(isNaN ty b) && !(isNaN ty c) && product r.ftz ty b c == .bad
    (v, snanFlag ty [b, c, a] ||| flagIf zeroInf fNV)
  | none =>
    match product r.ftz ty b c, unpack r.ftz ty a with
    | .bad, _ => invalidOp ty
    | .inf n, .inf m => if xor n np = xor m na then (infBits ty (xor n np), 0) else invalidOp ty
    | .inf n, _ => (infBits ty (xor n np), 0)
    | .num _, .inf m => (infBits ty (xor m na), 0)
    | .num p, .num y => roundTo r ty ((p.flip np).add r.rm (y.flip na))
    | .num _, .nan _ => invalidOp ty

/-- The quotient of two finite values, the divisor not zero, to 160 bits and a sticky rest. -/
def Dy.quot (a b : Dy) : Dy :=
  let k := 160 + Nat.log2 b.m + 1
  let n := a.m <<< k
  { neg := xor a.neg b.neg, m := n / b.m, x := a.x - b.x - k, st := n % b.m != 0 }

/-- round(b / c). -/
def fDiv (r : Rounding) (ty b c : Nat) : Nat × Nat :=
  nanOr ty [b, c] <|
    match unpack r.ftz ty b, unpack r.ftz ty c with
    | .inf _, .inf _ => invalidOp ty
    | .inf n, .num y => (infBits ty (xor n y.neg), 0)
    | .num x, .inf m => (zeroBits ty (xor x.neg m), 0)
    | .num x, .num y =>
      if y.isZero then (if x.isZero then invalidOp ty else (infBits ty (xor x.neg y.neg), fDZ))
      else if x.isZero then (zeroBits ty (xor x.neg y.neg), 0)
      else roundTo r ty (x.quot y)
    | _, _ => invalidOp ty

/-- The integer square root by bits: the largest root with root² ≤ n, of at most k + 1 bits. -/
def isqrtBits (n : Nat) : Nat → Nat → Nat
  | 0, root => if (root + 1) * (root + 1) ≤ n then root + 1 else root
  | k + 1, root =>
    let try_ := root + 2 ^ (k + 1)
    isqrtBits n k (if try_ * try_ ≤ n then try_ else root)

/-- The integer square root. -/
def isqrt (n : Nat) : Nat := isqrtBits n (Nat.log2 n / 2 + 1) 0

/-- The square root of a positive value, to at least 160 bits and a sticky rest. -/
def Dy.sqrt (a : Dy) : Dy :=
  let k : Nat := 320 + (a.x % 2).toNat
  let n := a.m <<< k
  let s := isqrt n
  { m := s, x := (a.x - k) / 2, st := s * s != n }

/-- round(√b). -/
def fSqrt (r : Rounding) (ty b : Nat) : Nat × Nat :=
  nanOr ty [b] <|
    match unpack r.ftz ty b with
    | .inf n => if n then invalidOp ty else (infBits ty false, 0)
    | .num x =>
      if x.isZero then (zeroBits ty x.neg, 0) else if x.neg then invalidOp ty else roundTo r ty x.sqrt
    | .nan _ => invalidOp ty

/-- b below c as numbers, −0 below +0, infinities at the ends; neither is a NaN. -/
def fBelow (ftz : Bool) (ty b c : Nat) : Bool :=
  match unpack ftz ty b, unpack ftz ty c with
  | .inf n, .inf m => n && !m
  | .inf n, _ => n
  | _, .inf m => !m
  | .num x, .num y => x.lt y || (x.eq y && x.neg && !y.neg)
  | _, _ => false

/-- The smaller, or with `max` the larger; a NaN propagates (Table 8-2). -/
def fMinMax (r : Rounding) (ty : Nat) (max : Bool) (b c : Nat) : Nat × Nat :=
  nanOr ty [b, c] <|
    let b := flush r.ftz ty b
    let c := flush r.ftz ty c
    (if (if max then fBelow r.ftz ty b c else fBelow r.ftz ty c b) then c else b, 0)

/-- Whether two numbers that are no NaNs are equal, −0 equal to +0. -/
def fEq (ftz : Bool) (ty b c : Nat) : Bool :=
  match unpack ftz ty b, unpack ftz ty c with
  | .inf n, .inf m => n == m
  | .num x, .num y => x.eq y
  | _, _ => false

/-- Whether b is below c, −0 equal to +0. -/
def fLt (ftz : Bool) (ty b c : Nat) : Bool := fBelow ftz ty b c && !(fEq ftz ty b c)

/-- vcmp on a floating type (R167, Table 8-3): the bit and the flags. -/
def fCmp (ftz : Bool) (ty fn b c : Nat) : Bool × Nat :=
  let unord := isNaN ty b || isNaN ty c
  let eq := !unord && fEq ftz ty b c
  let lt := !unord && fLt ftz ty b c
  let gt := !unord && fLt ftz ty c b
  let v := match fn with
    | 0 => eq | 1 => !eq | 2 => lt | 3 => lt || eq | 4 => gt | 5 => gt || eq | 6 => unord | _ => !unord
  let quietFn := decide (fn < 2) || decide (6 ≤ fn)
  (v, if quietFn then snanFlag ty [b, c] else flagIf unord fNV)

/-- The class of an element as a bit number of vclass (R169). -/
def fClass (ty x : Nat) : Nat :=
  let neg := signOf ty x
  if isNaN ty x then (if isSNaN ty x then 8 else 9)
  else if isInf ty x then (if neg then 0 else 7)
  else if expOf ty x = 0 then
    (if fracOf ty x = 0 then (if neg then 3 else 4) else (if neg then 2 else 5))
  else if neg then 1 else 6

/-! ## famo -/

/-- The new value of a famo (R96): old first, no flag, RNE, subnormals kept. fn is FN; FN 1 is BF16. -/
def famoNew (fn old v : Nat) : Nat :=
  let ty := if fn = 1 then 11 else 13
  match fn with
  | 0 | 1 => (fAdd {} ty false old v).1
  | 2 => (fMinMax {} ty false old v).1
  | _ => (fMinMax {} ty true old v).1

/-! ## Integer arithmetic -/

/-- vdiv on an integer type (Table 8-2). -/
def iDiv (ty b c : Nat) : Nat :=
  let w := widthOf ty
  if c = 0 then ones w else ofInt w ((intVal ty b).tdiv (intVal ty c))

/-- An integer function of two elements, by signedness, modulo 2^w. -/
def iOp (ty : Nat) (g : Int → Int → Int) (b c : Nat) : Nat := ofInt (widthOf ty) (g (intVal ty b) (intVal ty c))

/-- vcmp on an integer type (Table 8-3). -/
def iCmp (ty fn b c : Nat) : Bool :=
  let x := intVal ty b
  let y := intVal ty c
  match fn with
  | 0 => x == y | 1 => x != y | 2 => decide (x < y) | 3 => decide (x ≤ y) | 4 => decide (y < x) | _ => decide (y ≤ x)

/-- vsat of R166: the element clamped to k bits. -/
def iSat (ty k b : Nat) : Nat :=
  let lo : Int := if isSType ty then -(2 ^ (k - 1) : Int) else 0
  let hi : Int := if isSType ty then 2 ^ (k - 1) - 1 else 2 ^ k - 1
  ofInt (widthOf ty) (max lo (min hi (intVal ty b)))

/-! ## Special functions in fixed point -/

/-- Σ of terms t, t·x/(n·2^w), … : the exponential series of x / 2^w < 1 with w fraction bits. -/
def expSeries (w x : Nat) : Nat → Nat → Nat → Nat → Nat
  | 0, _, _, acc => acc
  | fuel + 1, n, t, acc =>
    let t := t * x / 2 ^ w / n
    if t = 0 then acc else expSeries w x fuel (n + 1) t (acc + t)

/-- e^(x / 2^w) for x / 2^w < 1, with w fraction bits. -/
def fixExp (w x : Nat) : Nat := expSeries w x w 1 (2 ^ w) (2 ^ w)

/-- The odd series y + y³/3 + y⁵/5 + … of y / 2^w, or with alternating signs. `p` is the current power. -/
def oddSeries (w y2 : Nat) (alt : Bool) : Nat → Nat → Nat → Int → Int
  | 0, _, _, acc => acc
  | fuel + 1, n, p, acc =>
    if p = 0 then acc
    else
      let t : Int := ((p / (2 * n + 1) : Nat) : Int)
      oddSeries w y2 alt fuel (n + 1) (p * y2 / 2 ^ w) (if alt && n % 2 == 1 then acc - t else acc + t)

/-- atanh(y / 2^w), y / 2^w ≤ 1/3. -/
def fixAtanh (w y : Nat) : Nat := (oddSeries w (y * y / 2 ^ w) false w 0 y 0).toNat
/-- atan(1 / n). -/
def fixAtanInv (w n : Nat) : Nat :=
  let y := 2 ^ w / n
  (oddSeries w (y * y / 2 ^ w) true w 0 y 0).toNat

/-- ln 2 with w fraction bits. -/
def fixLn2 (w : Nat) : Nat := 2 * fixAtanh w (2 ^ w / 3)
/-- π with w fraction bits. -/
def fixPi (w : Nat) : Nat := 16 * fixAtanInv w 5 - 4 * fixAtanInv w 239

/-- ln(y / 2^w) for y / 2^w in [1, 2]. -/
def fixLn (w y : Nat) : Nat := 2 * fixAtanh w ((y - 2 ^ w) * 2 ^ w / (y + 2 ^ w))

/-- The magnitude of an exact value in fixed point, truncated. -/
def Dy.fix (w : Nat) (d : Dy) : Nat := if 0 ≤ d.x + w then d.m <<< (d.x + w).toNat else d.m >>> (-(d.x + w)).toNat

/-- e^−a for a = x / 2^w, with w fraction bits, by halvings of e^−r. -/
def fixExpNeg (w x : Nat) : Nat :=
  let l := fixLn2 w
  let k := x / l
  2 ^ (2 * w) / fixExp w (x - k * l) / 2 ^ k

/-- The series of sin: terms t, t·x²/((2n)(2n+1)), … with alternating signs. -/
def sinSeries (w x2 : Nat) : Nat → Nat → Nat → Int → Int
  | 0, _, _, acc => acc
  | fuel + 1, n, t, acc =>
    let t := t * x2 / 2 ^ w / (2 * n * (2 * n + 1))
    if t = 0 then acc else sinSeries w x2 fuel (n + 1) t (if n % 2 = 1 then acc - t else acc + t)

/-- sin(x / 2^w) for x / 2^w < 4. -/
def fixSin (w x : Nat) : Int := sinSeries w (x * x / 2 ^ w) w 1 x x

/-- The series of erf: Σ 2^n x^(2n+1) / (1·3·…·(2n+1)). -/
def erfSeries (w x2 : Nat) : Nat → Nat → Nat → Nat → Nat
  | 0, _, _, acc => acc
  | fuel + 1, n, t, acc =>
    let t := 2 * t * x2 / 2 ^ w / (2 * n + 1)
    if t = 0 then acc else erfSeries w x2 fuel (n + 1) t (acc + t)

/-- erf(x / 2^w), of which the last few units are uncertain where x is below 2 and more above: `Dy.erf` asks
for 512 bits more than it uses. -/
def fixErf (w x : Nat) : Nat :=
  let x2 := x * x / 2 ^ w
  let s := erfSeries w x2 (4 * w) 1 x x
  let root := isqrt (fixPi w * 2 ^ w)
  2 * (s * fixExpNeg w x2 / 2 ^ w) * 2 ^ w / root

/-- The rounding of an irrational positive value that f approximates with w fraction bits, within 2^48 units:
its leading 100 bits once they are certain, at growing precision; the best estimate at the last. -/
def settle (f : Nat → Nat) (neg : Bool) : List Nat → Dy
  | [] => { neg := neg, st := true }
  | w :: ws =>
    let a := f w
    let lo := a - 2 ^ 48
    let hi := a + 2 ^ 48
    let sh := Nat.log2 lo - 100
    if (lo >>> sh = hi >>> sh ∧ 48 < sh) ∨ ws = [] then { neg := neg, m := lo >>> sh, x := (sh : Int) - w, st := true }
    else settle f neg ws

/-- The precisions that `settle` tries. -/
def precisions : List Nat := [384, 1024, 2560]

/-- A positive value below every subnormal, and one just below 1: what a function far out is rounded from. -/
def tiny (neg : Bool) : Dy := { neg := neg, m := 1, x := -4000, st := true }
def nearOne (neg : Bool) : Dy := { neg := neg, m := 2 ^ 100 - 1, x := -100, st := true }

/-- 2^b of a finite value. -/
def Dy.exp2 (d : Dy) : Dy :=
  let top : Int := (Nat.log2 d.m : Int) + d.x
  if d.isZero then { m := 1 }
  else if 12 ≤ top then (if d.neg then tiny false else { m := 1, x := 4000 })
  else
    let whole := (d.fix 0)
    let frac := d.m - whole <<< (-d.x).toNat
    if 0 ≤ d.x ∨ frac = 0 then { m := 1, x := if d.neg then -(whole : Int) else whole }
    else
      let f := fun (w : Nat) =>
        let r := d.fix w - whole <<< w
        let r := if d.neg then 2 ^ w - r else r
        fixExp w (r * fixLn2 w / 2 ^ w)
      let y := settle f false precisions
      { y with x := y.x + (if d.neg then -(whole : Int) - 1 else whole) }

/-- log2 b of a positive finite value. -/
def Dy.log2 (d : Dy) : Dy :=
  let l := Nat.log2 d.m
  let e : Int := (l : Int) + d.x
  if d.m = 2 ^ l then Dy.ofInt e
  else
    let f := fun (w : Nat) =>
      let v := fixLn w ((d.m <<< w) >>> l) * 2 ^ w / fixLn2 w
      ((e * 2 ^ w + v : Int)).natAbs
    settle f (decide (e < 0)) precisions

/-- 1 / √b of a positive finite value, to at least 160 bits and a sticky rest. -/
def Dy.rsqrt (d : Dy) : Dy :=
  let odd := d.x % 2 == 1
  let m := if odd then 2 * d.m else d.m
  let x := if odd then d.x - 1 else d.x
  let k := 160 + Nat.log2 m
  let s := isqrt (2 ^ (2 * k) / m)
  { m := s, x := -(x / 2) - k, st := s * s * m != 2 ^ (2 * k) }

/-- tanh b of a nonzero finite value. -/
def Dy.tanh (d : Dy) : Dy :=
  if 6 ≤ (Nat.log2 d.m : Int) + d.x then nearOne d.neg
  else settle (fun w =>
    let e := fixExpNeg w (2 * d.fix w)
    (2 ^ w - e) * 2 ^ w / (2 ^ w + e)) d.neg precisions

/-- 1 / (1 + e^−b) of a nonzero finite value. -/
def Dy.sigmoid (d : Dy) : Dy :=
  if 8 ≤ (Nat.log2 d.m : Int) + d.x then (if d.neg then tiny false else nearOne false)
  else settle (fun w =>
    let e := fixExpNeg w (d.fix w)
    if d.neg then e * 2 ^ w / (2 ^ w + e) else 2 ^ (2 * w) / (2 ^ w + e)) false precisions

/-- erf b of a nonzero finite value. -/
def Dy.erf (d : Dy) : Dy :=
  if 4 ≤ (Nat.log2 d.m : Int) + d.x then nearOne d.neg
  else settle (fun w => fixErf (w + 512) (d.fix (w + 512)) >>> 512) d.neg precisions

/-- sin b of a nonzero finite value: b reduced modulo 2π, and its half-turn taken into the sign. -/
def Dy.sin (d : Dy) : Dy :=
  let extra := ((Nat.log2 d.m : Int) + d.x).toNat + 64
  let red := fun (w : Nat) =>
    let p := fixPi (w + extra)
    let x := d.fix (w + extra)
    let h := x / p
    (h, (x - h * p) >>> extra)
  let (h, _) := red 1024
  settle (fun w => (fixSin w (red w).2).toNat) (xor d.neg (h % 2 == 1)) precisions

/-- vsfn of R170 (Table 8-4): the bits and the flags. -/
def fSpecial (r : Rounding) (ty fn b : Nat) : Nat × Nat :=
  nanOr ty [b] <|
    match unpack r.ftz ty b with
    | .nan _ => invalidOp ty
    | .inf n =>
      match fn with
      | 0 => if n then (zeroBits ty false, 0) else (infBits ty false, 0)
      | 1 => if n then invalidOp ty else (infBits ty false, 0)
      | 2 => (zeroBits ty n, 0)
      | 3 => if n then invalidOp ty else (zeroBits ty false, 0)
      | 4 | 6 => roundTo r ty { neg := n, m := 1 }
      | 5 => if n then (zeroBits ty false, 0) else roundTo r ty { m := 1 }
      | _ => invalidOp ty
    | .num d =>
      match fn with
      | 0 => roundTo r ty d.exp2
      | 1 =>
        if d.isZero then (infBits ty true, fDZ) else if d.neg then invalidOp ty else roundTo r ty d.log2
      | 2 => if d.isZero then (infBits ty d.neg, fDZ) else roundTo r ty (Dy.quot { m := 1 } d)
      | 3 =>
        if d.isZero then (infBits ty d.neg, fDZ) else if d.neg then invalidOp ty else roundTo r ty d.rsqrt
      | 4 => if d.isZero then (zeroBits ty d.neg, 0) else roundTo r ty d.tanh
      | 5 => if d.isZero then roundTo r ty { m := 1, x := -1 } else roundTo r ty d.sigmoid
      | 6 => if d.isZero then (zeroBits ty d.neg, 0) else roundTo r ty d.erf
      | _ => if d.isZero then (zeroBits ty d.neg, 0) else roundTo r ty d.sin

/-! ## E2M1B -/

/-- Twice the unscaled magnitude of a code (Table 7-2). -/
def codeTwice (c : Nat) : Nat :=
  match c % 8 with | 0 => 0 | 1 => 1 | 2 => 2 | 3 => 3 | 4 => 4 | 5 => 6 | 6 => 8 | _ => 12

/-- The unscaled value of an element (R142) in a block with the given spare, and whether the spare is a NaN. -/
def e2m1Unscaled (code spare : Nat) : Dy × Bool :=
  if code = 8 then (if isNaN 9 spare then ({}, true) else (finite false 9 spare, false))
  else ({ neg := decide (8 < code), m := codeTwice code, x := -1 }, false)

/-- The decoded value of an element (R142): unscaled × 2^(scale − 127); +0 in a block of scale 0xFF; and the
NV of a NaN spare. -/
def e2m1Value (code scale spare : Nat) : Dy × Nat :=
  if scale = 255 then ({}, 0)
  else
    let (u, bad) := e2m1Unscaled code spare
    ({ u with x := u.x + scale - 127 }, flagIf bad fNV)

/-! ## Conversion -/

/-- Narrowing or widening between integer types (R148 last paragraph, R171). -/
def iConvert (sat : Bool) (xf ty x : Nat) : Nat :=
  let v := intVal xf x
  if sat && decide (widthOf ty ≤ widthOf xf) then ofInt (widthOf ty) (max (intMin ty) (min (intMax ty) v))
  else ofInt (widthOf ty) v

/-- convert of R171 of an element of a type other than E2M1B: the bits and the flags. -/
def convert (r : Rounding) (xf ty x : Nat) : Nat × Nat :=
  if isIType xf then
    (if isIType ty then (iConvert r.sat xf ty x, 0) else roundTo r ty (Dy.ofInt (intVal xf x)))
  else if isIType ty then
    match unpack r.ftz xf x with
    | .nan _ => (if r.sat then 0 else intOverflow false ty false, fNV)
    | .inf n => (intOverflow r.sat ty n, fNV)
    | .num d => roundInt r ty d
  else
    match unpack r.ftz xf x with
    | .nan b => (convertNaN xf ty b, snanFlag xf [b])
    | .inf n => infResult r ty n
    | .num d => roundTo r ty d

end Sys2Proof.Machine
end

