-- ==== Sys2Proof/Syntax.lean ====
section
/-!
DEFINITION. The instructions of the LN-940: the operands and fields of a Carug word (R24 to R29), the
RISC-V instructions of the reel (R2), the arguments of the events, and `Instr`, one constructor for each
row of the opcode table.
-/
namespace Sys2Proof

/-- An operand field of a Carug word by its class, Table 2-2. Class 15 and an out-of-range index have
no constructor: such a word is no instruction (R27, R30). -/
inductive Operand where
  | none
  | s (i : BitVec 5)
  | v (i : BitVec 5)
  | p (i : BitVec 4)
  | h (i : BitVec 2)
  | k (i : BitVec 2)
  | q (i : BitVec 3)
  | t (i : BitVec 1)
  | a (i : BitVec 2)
  | m (i : BitVec 3)
  | e (i : BitVec 2)
  | csr (n : BitVec 12)
  | simm (x : BitVec 16)
  | uimm (x : BitVec 16)
  | mem (base : BitVec 5) (off : BitVec 11)
  deriving DecidableEq, Repr, Inhabited

/-- The fields of a Carug word but OP, which the constructor of `Instr` is (Table 2-1). -/
structure Fields where
  fn  : BitVec 4 := 0
  ty  : BitVec 4 := 0
  gp  : BitVec 4 := 0
  gn  : Bool := false
  dt  : Bool := false
  dp  : BitVec 2 := 0
  rm  : BitVec 3 := 0
  yld : Bool := false
  rd  : BitVec 2 := 0
  chn : Bool := false
  lst : Bool := false
  a   : Operand := .none
  b   : Operand := .none
  c   : Operand := .none
  xf  : BitVec 4 := 0
  deriving DecidableEq, Repr, Inhabited

/-- Conditions of the RISC-V branches. -/
inductive RvBr where | beq | bne | blt | bge | bltu | bgeu
  deriving DecidableEq, Repr

/-- Widths of the RISC-V loads. -/
inductive RvLd where | b | h | w | d | bu | hu | wu
  deriving DecidableEq, Repr

/-- Widths of the RISC-V stores. -/
inductive RvSt where | b | h | w | d
  deriving DecidableEq, Repr

/-- Register-immediate operations of RV64I. -/
inductive RvImm where | addi | slti | sltiu | xori | ori | andi
  deriving DecidableEq, Repr

/-- Shifts by an immediate. -/
inductive RvSh where | sll | srl | sra
  deriving DecidableEq, Repr

/-- Register-register operations of RV64I and M. -/
inductive RvOp where
  | add | sub | sll | slt | sltu | xor | srl | sra | or | and
  | mul | mulh | mulhsu | mulhu | div | divu | rem | remu
  deriving DecidableEq, Repr

/-- Register-register operations on 32-bit words. -/
inductive RvOpW where | addw | subw | sllw | srlw | sraw | mulw | divw | divuw | remw | remuw
  deriving DecidableEq, Repr

/-- The Zicsr operations; `imm` says that the source is the five-bit immediate. -/
inductive RvCsr where | rw | rs | rc
  deriving DecidableEq, Repr

/-- The AMO functions of RV64A. -/
inductive RvAmo where | swap | add | xor | and | or | min | max | minu | maxu
  deriving DecidableEq, Repr

/-- The RISC-V instructions of the reel: RV64IMA, Zicsr, Zifencei, and the supervisor-mode
instructions of the privileged specification (R2). -/
inductive Rv where
  | lui (rd : BitVec 5) (imm : BitVec 20)
  | auipc (rd : BitVec 5) (imm : BitVec 20)
  | jal (rd : BitVec 5) (imm : BitVec 20)
  | jalr (rd rs1 : BitVec 5) (imm : BitVec 12)
  | branch (k : RvBr) (rs1 rs2 : BitVec 5) (imm : BitVec 12)
  | load (k : RvLd) (rd rs1 : BitVec 5) (imm : BitVec 12)
  | store (k : RvSt) (rs1 rs2 : BitVec 5) (imm : BitVec 12)
  | opImm (k : RvImm) (rd rs1 : BitVec 5) (imm : BitVec 12)
  | shImm (k : RvSh) (rd rs1 : BitVec 5) (sh : BitVec 6)
  | addiw (rd rs1 : BitVec 5) (imm : BitVec 12)
  | shImmW (k : RvSh) (rd rs1 : BitVec 5) (sh : BitVec 5)
  | op (k : RvOp) (rd rs1 rs2 : BitVec 5)
  | opW (k : RvOpW) (rd rs1 rs2 : BitVec 5)
  | fence (fm pred succ : BitVec 4) (rd rs1 : BitVec 5)
  | fenceI (rd rs1 : BitVec 5) (imm : BitVec 12)
  | ecall
  | ebreak
  | sret
  | wfi
  | sfenceVma (rs1 rs2 : BitVec 5)
  | csr (k : RvCsr) (imm : Bool) (rd rs1 : BitVec 5) (n : BitVec 12)
  | lr (dbl aq rl : Bool) (rd rs1 : BitVec 5)
  | sc (dbl aq rl : Bool) (rd rs1 rs2 : BitVec 5)
  | amo (k : RvAmo) (dbl aq rl : Bool) (rd rs1 rs2 : BitVec 5)
  deriving DecidableEq, Repr

/-- Why the decoder refuses: a Carug word that fails R30, a reel word that is illegal (R37 and the RISC-V
specifications), or a number of bits that is no instruction's. -/
inductive Reject where | illegalOp | illegalInstruction | noSuchLength
  deriving DecidableEq, Repr

/-- What an error event says of the error (Table 18-10): the unit of Table 18-10, its place, the data
it lost and, for a lane group, the kite and instruction that met it. -/
structure ErrDesc where
  unit  : Nat := 0
  die   : Nat := 0
  core  : Nat := 255
  lg    : Nat := 255
  lane  : Nat := 255
  reg   : Nat := 255
  elt   : Nat := 4294967295
  chan  : Nat := 65535
  ctx   : Nat := 255
  agent : Nat := 255
  addr  : Nat := 0
  row   : Nat := 0
  col   : Nat := 0
  deriving DecidableEq, Repr, Inhabited

/-- An access of a peer device's agent that arrives over Skein (R308): a read, a write or an atomic
with its scope and order, at a local physical address. -/
structure PeerAcc where
  dev   : Nat := 0
  core  : Nat := 0
  kind  : Nat := 0
  addr  : Nat := 0
  n     : Nat := 0
  value : Nat := 0
  cmp   : Nat := 0
  fn    : Nat := 0
  scope : Nat := 0
  order : Nat := 0
  deriving DecidableEq, Repr, Inhabited

/-- What an event acts on and what the outside world supplies with it. `unit` is the core, context, queue,
slot, flight, ascent, Skein port or register offset; `sub` the kite or agent, engine port, tint, word of a
record, node's record or AtomicOp function; `item` the buffer, command, page, tag, bank or byte count;
`value` and `old` what is written or returned; `ok` whether it is a write, or succeeds; `cores` the cores
of a resumption. -/
structure EvArgs where
  unit  : Nat := 0
  sub   : Nat := 0
  item  : Nat := 0
  value : Nat := 0
  old   : Nat := 0
  ok    : Bool := false
  cores : List Nat := []
  err   : ErrDesc := {}
  peer  : PeerAcc := {}
  deriving DecidableEq, Repr, Inhabited

/-- The instructions and steps of the LN-940: one constructor for each row of the opcode table.
A Carug constructor carries the fields of its word (Table 2-1), an Xcarug one its register numbers,
the RISC-V constructor the instruction; an event none, for its arguments stand in the state (`EvArgs`). -/
inductive Instr where
  /-- add, R81. -/
  | add (f : Fields)
  /-- sub, R81. -/
  | sub (f : Fields)
  /-- and, R81. -/
  | and (f : Fields)
  /-- or, R81. -/
  | or (f : Fields)
  /-- xor, R81. -/
  | xor (f : Fields)
  /-- shl, R81. -/
  | shl (f : Fields)
  /-- shr, R81. -/
  | shr (f : Fields)
  /-- sra, R81. -/
  | sra (f : Fields)
  /-- mul, R81. -/
  | mul (f : Fields)
  /-- mulh.s, R81. -/
  | mulhS (f : Fields)
  /-- mulh.n, R81. -/
  | mulhN (f : Fields)
  /-- mulh.sn, R81. -/
  | mulhSn (f : Fields)
  /-- div.s, R81. -/
  | divS (f : Fields)
  /-- div.n, R81. -/
  | divN (f : Fields)
  /-- rem.s, R81. -/
  | remS (f : Fields)
  /-- rem.n, R81. -/
  | remN (f : Fields)
  /-- min, R81. -/
  | min (f : Fields)
  /-- minn, R81. -/
  | minn (f : Fields)
  /-- max, R81. -/
  | max (f : Fields)
  /-- maxn, R81. -/
  | maxn (f : Fields)
  /-- cmp.eq, R82. -/
  | cmpEq (f : Fields)
  /-- cmp.ne, R82. -/
  | cmpNe (f : Fields)
  /-- cmp.lt, R82. -/
  | cmpLt (f : Fields)
  /-- cmp.ge, R82. -/
  | cmpGe (f : Fields)
  /-- cmp.ltn, R82. -/
  | cmpLtn (f : Fields)
  /-- cmp.gen, R82. -/
  | cmpGen (f : Fields)
  /-- li, R29. -/
  | li (f : Fields) (imm : BitVec 40)
  /-- mov, R83. -/
  | mov (f : Fields)
  /-- sel, R83. -/
  | sel (f : Fields)
  /-- clz, R83. -/
  | clz (f : Fields)
  /-- popc, R83. -/
  | popc (f : Fields)
  /-- br, R71. -/
  | br (f : Fields)
  /-- jmp.near, R71. -/
  | jmpNear (f : Fields)
  /-- jmp.far, R71. -/
  | jmpFar (f : Fields)
  /-- jmp.reg, R71. -/
  | jmpReg (f : Fields)
  /-- call, R71. -/
  | call (f : Fields)
  /-- ret, R71. -/
  | ret (f : Fields)
  /-- qbr, R71. -/
  | qbr (f : Fields)
  /-- fetchb, R72. -/
  | fetchb (f : Fields)
  /-- land, R73. -/
  | land (f : Fields)
  /-- yield, R58. -/
  | yield (f : Fields)
  /-- nop, R74. -/
  | nop (f : Fields)
  /-- trap, R75. -/
  | trap (f : Fields)
  /-- sleepu, R76. -/
  | sleepu (f : Fields)
  /-- csrr, R84. -/
  | csrr (f : Fields)
  /-- csrw, R84. -/
  | csrw (f : Fields)
  /-- ld, R89. -/
  | ld (f : Fields)
  /-- st, R89. -/
  | st (f : Fields)
  /-- ldsp, R89. -/
  | ldsp (f : Fields)
  /-- stsp, R89. -/
  | stsp (f : Fields)
  /-- amo.add, R92. -/
  | amoAdd (f : Fields)
  /-- amo.and, R92. -/
  | amoAnd (f : Fields)
  /-- amo.or, R92. -/
  | amoOr (f : Fields)
  /-- amo.xor, R92. -/
  | amoXor (f : Fields)
  /-- amo.min, R92. -/
  | amoMin (f : Fields)
  /-- amo.max, R92. -/
  | amoMax (f : Fields)
  /-- amo.minn, R92. -/
  | amoMinn (f : Fields)
  /-- amo.maxn, R92. -/
  | amoMaxn (f : Fields)
  /-- amo.swap, R92. -/
  | amoSwap (f : Fields)
  /-- cas, R92. -/
  | cas (f : Fields)
  /-- famo.add.f32, R96. -/
  | famoAddF32 (f : Fields)
  /-- famo.add.bf16, R96. -/
  | famoAddBf16 (f : Fields)
  /-- famo.min.f32, R96. -/
  | famoMinF32 (f : Fields)
  /-- famo.max.f32, R96. -/
  | famoMaxF32 (f : Fields)
  /-- fence.full, R98. -/
  | fenceFull (f : Fields)
  /-- fence.rel, R98. -/
  | fenceRel (f : Fields)
  /-- fence.acq, R98. -/
  | fenceAcq (f : Fields)
  /-- fence.strip, R98. -/
  | fenceStrip (f : Fields)
  /-- bar.arrive, R111. -/
  | barArrive (f : Fields)
  /-- bar.wait, R111. -/
  | barWait (f : Fields)
  /-- regb, R290. -/
  | regb (f : Fields)
  /-- rege, R290. -/
  | rege (f : Fields)
  /-- hview, R290. -/
  | hview (f : Fields)
  /-- qpush, R107. -/
  | qpush (f : Fields)
  /-- qpop, R107. -/
  | qpop (f : Fields)
  /-- qpeek, R107. -/
  | qpeek (f : Fields)
  /-- tsend.left, R107. -/
  | tsendLeft (f : Fields)
  /-- tsend.right, R107. -/
  | tsendRight (f : Fields)
  /-- trecv, R107. -/
  | trecv (f : Fields)
  /-- setvl, R121. -/
  | setvl (f : Fields)
  /-- getmvl, R121. -/
  | getmvl (f : Fields)
  /-- rep, R134. -/
  | rep (f : Fields)
  /-- plogic.and, R131. -/
  | plogicAnd (f : Fields)
  /-- plogic.or, R131. -/
  | plogicOr (f : Fields)
  /-- plogic.xor, R131. -/
  | plogicXor (f : Fields)
  /-- plogic.andn, R131. -/
  | plogicAndn (f : Fields)
  /-- plogic.not, R131. -/
  | plogicNot (f : Fields)
  /-- plogic.set, R131. -/
  | plogicSet (f : Fields)
  /-- plogic.clear, R131. -/
  | plogicClear (f : Fields)
  /-- pcnt, R132. -/
  | pcnt (f : Fields)
  /-- pfirst, R132. -/
  | pfirst (f : Fields)
  /-- vperm, R137. -/
  | vperm (f : Fields)
  /-- vslide.up, R137. -/
  | vslideUp (f : Fields)
  /-- vslide.down, R137. -/
  | vslideDown (f : Fields)
  /-- vtrans8, R137. -/
  | vtrans8 (f : Fields)
  /-- vzip.zip, R137. -/
  | vzipZip (f : Fields)
  /-- vzip.unzip, R137. -/
  | vzipUnzip (f : Fields)
  /-- vbcast, R137. -/
  | vbcast (f : Fields)
  /-- viota, R137. -/
  | viota (f : Fields)
  /-- vext, R137. -/
  | vext (f : Fields)
  /-- vins, R137. -/
  | vins (f : Fields)
  /-- vadd, R163. -/
  | vadd (f : Fields)
  /-- vsub, R163. -/
  | vsub (f : Fields)
  /-- vmul, R163. -/
  | vmul (f : Fields)
  /-- vfma, R163. -/
  | vfma (f : Fields)
  /-- vdiv, R163. -/
  | vdiv (f : Fields)
  /-- vsqrt, R163. -/
  | vsqrt (f : Fields)
  /-- vmin, R163. -/
  | vmin (f : Fields)
  /-- vmax, R163. -/
  | vmax (f : Fields)
  /-- vabs, R164. -/
  | vabs (f : Fields)
  /-- vneg, R164. -/
  | vneg (f : Fields)
  /-- vand, R164. -/
  | vand (f : Fields)
  /-- vor, R164. -/
  | vor (f : Fields)
  /-- vxor, R164. -/
  | vxor (f : Fields)
  /-- vshl, R165. -/
  | vshl (f : Fields)
  /-- vshr.log, R165. -/
  | vshrLog (f : Fields)
  /-- vshr.ari, R165. -/
  | vshrAri (f : Fields)
  /-- vcmp.eq, R167. -/
  | vcmpEq (f : Fields)
  /-- vcmp.ne, R167. -/
  | vcmpNe (f : Fields)
  /-- vcmp.lt, R167. -/
  | vcmpLt (f : Fields)
  /-- vcmp.le, R167. -/
  | vcmpLe (f : Fields)
  /-- vcmp.gt, R167. -/
  | vcmpGt (f : Fields)
  /-- vcmp.ge, R167. -/
  | vcmpGe (f : Fields)
  /-- vcmp.uo, R167. -/
  | vcmpUo (f : Fields)
  /-- vcmp.ord, R167. -/
  | vcmpOrd (f : Fields)
  /-- vsel, R168. -/
  | vsel (f : Fields)
  /-- vmulh, R163. -/
  | vmulh (f : Fields)
  /-- vmadd, R163. -/
  | vmadd (f : Fields)
  /-- vsat, R166. -/
  | vsat (f : Fields)
  /-- vsfn.exp2, R170. -/
  | vsfnExp2 (f : Fields)
  /-- vsfn.log2, R170. -/
  | vsfnLog2 (f : Fields)
  /-- vsfn.rcp, R170. -/
  | vsfnRcp (f : Fields)
  /-- vsfn.rsqrt, R170. -/
  | vsfnRsqrt (f : Fields)
  /-- vsfn.tanh, R170. -/
  | vsfnTanh (f : Fields)
  /-- vsfn.sigmoid, R170. -/
  | vsfnSigmoid (f : Fields)
  /-- vsfn.erf, R170. -/
  | vsfnErf (f : Fields)
  /-- vsfn.sin, R170. -/
  | vsfnSin (f : Fields)
  /-- vclass, R169. -/
  | vclass (f : Fields)
  /-- vcvt.halve, R171. -/
  | vcvtHalve (f : Fields)
  /-- vcvt.double, R171. -/
  | vcvtDouble (f : Fields)
  /-- vcvtq, R172. -/
  | vcvtq (f : Fields)
  /-- vbscl.rdscale, R173. -/
  | vbsclRdscale (f : Fields)
  /-- vbscl.wrscale, R173. -/
  | vbsclWrscale (f : Fields)
  /-- vbscl.rdvalid, R173. -/
  | vbsclRdvalid (f : Fields)
  /-- vbscl.wrvalid, R173. -/
  | vbsclWrvalid (f : Fields)
  /-- vbscl.rdspare, R173. -/
  | vbsclRdspare (f : Fields)
  /-- vbscl.wrspare, R173. -/
  | vbsclWrspare (f : Fields)
  /-- vld, R209. -/
  | vld (f : Fields)
  /-- vst, R209. -/
  | vst (f : Fields)
  /-- vldx, R210. -/
  | vldx (f : Fields)
  /-- vstx, R210. -/
  | vstx (f : Fields)
  /-- vldff, R211. -/
  | vldff (f : Fields)
  /-- vldb, R212. -/
  | vldb (f : Fields)
  /-- vstb, R212. -/
  | vstb (f : Fields)
  /-- vbind, R214. -/
  | vbind (f : Fields)
  /-- vunbind, R216. -/
  | vunbind (f : Fields)
  /-- mmv.copy, R218. -/
  | mmvCopy (f : Fields)
  /-- mmv.add, R218. -/
  | mmvAdd (f : Fields)
  /-- mmv.mul, R218. -/
  | mmvMul (f : Fields)
  /-- mmv.fma, R218. -/
  | mmvFma (f : Fields)
  /-- mmv.cvt, R218. -/
  | mmvCvt (f : Fields)
  /-- mmv.max, R218. -/
  | mmvMax (f : Fields)
  /-- mmv.min, R218. -/
  | mmvMin (f : Fields)
  /-- nred.add, R186. -/
  | nredAdd (f : Fields)
  /-- nred.min, R186. -/
  | nredMin (f : Fields)
  /-- nred.max, R186. -/
  | nredMax (f : Fields)
  /-- nred.and, R186. -/
  | nredAnd (f : Fields)
  /-- nred.or, R186. -/
  | nredOr (f : Fields)
  /-- nred.xor, R186. -/
  | nredXor (f : Fields)
  /-- nscan.add, R187. -/
  | nscanAdd (f : Fields)
  /-- nscan.min, R187. -/
  | nscanMin (f : Fields)
  /-- nscan.max, R187. -/
  | nscanMax (f : Fields)
  /-- nscan.and, R187. -/
  | nscanAnd (f : Fields)
  /-- nscan.or, R187. -/
  | nscanOr (f : Fields)
  /-- nscan.xor, R187. -/
  | nscanXor (f : Fields)
  /-- npack, R190. -/
  | npack (f : Fields)
  /-- ndist, R189. -/
  | ndist (f : Fields)
  /-- nlen, R191. -/
  | nlen (f : Fields)
  /-- nnest, R192. -/
  | nnest (f : Fields)
  /-- nflat, R193. -/
  | nflat (f : Fields)
  /-- nsort, R194. -/
  | nsort (f : Fields)
  /-- nshld, R195. -/
  | nshld (f : Fields)
  /-- nshst, R197. -/
  | nshst (f : Fields)
  /-- nkrd, R199. -/
  | nkrd (f : Fields)
  /-- nkwr, R199. -/
  | nkwr (f : Fields)
  /-- tshape.core, R226. -/
  | tshapeCore (f : Fields)
  /-- tshape.flight, R227. -/
  | tshapeFlight (f : Fields)
  /-- mrec, R230. -/
  | mrec (f : Fields)
  /-- mma, R233. -/
  | mma (f : Fields)
  /-- maccrd, R239. -/
  | maccrd (f : Fields)
  /-- maccwr, R239. -/
  | maccwr (f : Fields)
  /-- macczero, R239. -/
  | macczero (f : Fields)
  /-- mwait, R240. -/
  | mwait (f : Fields)
  /-- epush, R267. -/
  | epush (f : Fields)
  /-- epop, R268. -/
  | epop (f : Fields)
  /-- estat, R268. -/
  | estat (f : Fields)
  /-- spsrch, R272. -/
  | spsrch (f : Fields)
  /-- rcsnap, R273. -/
  | rcsnap (f : Fields)
  /-- rcfence.all, R269. -/
  | rcfenceAll (f : Fields)
  /-- rcfence.addr, R269. -/
  | rcfenceAddr (f : Fields)
  /-- kite.bridle, R61. -/
  | kiteBridle (rd rs1 rs2 : BitVec 5)
  /-- kite.fly, R62. -/
  | kiteFly (rd rs1 rs2 : BitVec 5)
  /-- kite.wait, R64. -/
  | kiteWait (rd rs1 rs2 : BitVec 5)
  /-- kite.kill, R65. -/
  | kiteKill (rd rs1 : BitVec 5)
  /-- kite.role, R66. -/
  | kiteRole (rd rs1 rs2 : BitVec 5)
  /-- kite.stat, R67. -/
  | kiteStat (rd rs1 : BitVec 5)
  /-- kite.tint, R63. -/
  | kiteTint (rd rs1 rs2 : BitVec 5)
  /-- kite.mvl, R68. -/
  | kiteMvl (rd : BitVec 5)
  /-- q.push, R108. -/
  | qPush (q : BitVec 3) (rs1 : BitVec 5)
  /-- q.pop, R108. -/
  | qPop (q : BitVec 3) (rd : BitVec 5)
  /-- q.peek, R108. -/
  | qPeek (q : BitVec 3) (rd : BitVec 5)
  /-- e.push, R270. -/
  | ePush (e : BitVec 3) (rd rs1 : BitVec 5)
  /-- e.pop, R270. -/
  | ePop (e : BitVec 3) (rd rs1 : BitVec 5)
  /-- e.stat, R270. -/
  | eStat (e : BitVec 3) (rd : BitVec 5)
  /-- sleepu, R77. -/
  | reelSleepu (rs1 : BitVec 5)
  /-- cyc, R77. -/
  | cyc (rd : BitVec 5)
  /-- hyp.open, R289. -/
  | hypOpen (rd rs1 : BitVec 5)
  /-- hyp.fix, R289. -/
  | hypFix (rd rs1 : BitVec 5)
  /-- hyp.bleach, R289. -/
  | hypBleach (rd rs1 : BitVec 5)
  /-- hyp.stat, R289. -/
  | hypStat (rd rs1 : BitVec 5)
  /-- hyp.enter, R289. -/
  | hypEnter (rd rs1 : BitVec 5)
  /-- fbar.arrive, R113. -/
  | fbarArrive (rd rs1 rs2 : BitVec 5)
  /-- fbar.wait, R113. -/
  | fbarWait (rd rs1 rs2 : BitVec 5)
  /-- err.pop, R371. -/
  | errPop (rd rs1 : BitVec 5)
  /-- slot.admit, R362. -/
  | slotAdmit (rd rs1 rs2 : BitVec 5)
  /-- slot.retire, R362. -/
  | slotRetire (rd rs1 : BitVec 5)
  /-- gp.rd, R362. -/
  | gpRd (rd rs1 : BitVec 5)
  /-- ascent.done, R356. -/
  | ascentDone
  /-- uev.ret, R370. -/
  | uevRet (rd rs1 : BitVec 5)
  /-- RISC_V_INSTRUCTION, R303. -/
  | riscVInstruction (i : Rv)
  /-- BLOCK_FILL_END, R53. -/
  | blockFillEnd
  /-- WAIT_CONDITION_CLEAR, R49. -/
  | waitConditionClear
  /-- DRAIN_COMPLETE, R49. -/
  | drainComplete
  /-- SLEEP_EXPIRY, R76. -/
  | sleepExpiry
  /-- KITE_WAIT_DEADLINE, R64. -/
  | kiteWaitDeadline
  /-- QUEUE_STALL, R103. -/
  | queueStall
  /-- ARRIVAL_MARKER, R111. -/
  | arrivalMarker
  /-- WRITE_PATH_DRAIN, R302. -/
  | writePathDrain
  /-- FIX, R284. -/
  | fix
  /-- BLEACH, R286. -/
  | bleach
  /-- TINT_FREE, R288. -/
  | tintFree
  /-- LIN, R263. -/
  | lin
  /-- TENS, R257. -/
  | tens
  /-- ROWS, R263. -/
  | rows
  /-- SAMP, R265. -/
  | samp
  /-- GATH, R263. -/
  | gath
  /-- SCAT, R263. -/
  | scat
  /-- PAGE, R263. -/
  | page
  /-- CANCEL, R262. -/
  | cancel
  /-- COMMAND_COMPLETE, R247. -/
  | commandComplete
  /-- ARRIVAL_COUNTER_INCREMENT, R312. -/
  | arrivalCounterIncrement
  /-- PROMISE_MISSED, R261. -/
  | promiseMissed
  /-- MCAST_TIMEOUT, R236. -/
  | mcastTimeout
  /-- BANK_RESERVATION_LIMIT, R326. -/
  | bankReservationLimit
  /-- USER_EVENT_TAKE, R367. -/
  | userEventTake
  /-- NOTIFY_WRITE, R346. -/
  | notifyWrite
  /-- QUEUE_DESCRIPTOR_WRITE, R345. -/
  | queueDescriptorWrite
  /-- ABORT, R357. -/
  | abort
  /-- CONTEXT_ENTRY_WRITE, R328. -/
  | contextEntryWrite
  /-- DEVNUM, R330. -/
  | devnum
  /-- TLBINV_ALL, R338. -/
  | tlbinvAll
  /-- TLBINV_ASID, R338. -/
  | tlbinvAsid
  /-- TLBINV_ASID_GEN, R338. -/
  | tlbinvAsidGen
  /-- TLBINV_PAGES, R338. -/
  | tlbinvPages
  /-- TLBINV_SPANS, R338. -/
  | tlbinvSpans
  /-- INVALIDATION_COMPLETE, R339. -/
  | invalidationComplete
  /-- PAGE_REQUEST, R340. -/
  | pageRequest
  /-- RESIDENT, R341. -/
  | resident
  /-- DENIED, R341. -/
  | denied
  /-- NO_FRAME, R342. -/
  | noFrame
  /-- LOAD_FW, R390. -/
  | loadFw
  /-- ATTEST, R390. -/
  | attest
  /-- CERT, R390. -/
  | cert
  /-- REPLAY_CTL, R391. -/
  | replayCtl
  /-- REPLAY_READ, R391. -/
  | replayRead
  /-- REGISTER_WRITE, R8. -/
  | registerWrite
  /-- HOST_BAR_ACCESS, R383. -/
  | hostBarAccess
  /-- HOST_ATOMICOP, R383. -/
  | hostAtomicop
  /-- QUEUE_BIND, R351. -/
  | queueBind
  /-- QUANTUM_END, R351. -/
  | quantumEnd
  /-- RECORD_TAKE, R349. -/
  | recordTake
  /-- RECORD_START, R349. -/
  | recordStart
  /-- GRAPH_NODE_START, R358. -/
  | graphNodeStart
  /-- FLIGHT_PLACEMENT, R353. -/
  | flightPlacement
  /-- SWITCH_OUT, R372. -/
  | switchOut
  /-- SWITCH_OUT_COMPLETE, R373. -/
  | switchOutComplete
  /-- ABANDONMENT, R373. -/
  | abandonment
  /-- RESUMPTION, R375. -/
  | resumption
  /-- CREW_END, R356. -/
  | crewEnd
  /-- SLOT_PAGE_DRAIN, R362. -/
  | slotPageDrain
  /-- UNCORRECTABLE_ERROR, R377. -/
  | uncorrectableError
  /-- CORRECTED_ERROR, R377. -/
  | correctedError
  /-- PORT_TRAINED, R386. -/
  | portTrained
  /-- PORT_DOWN, R386. -/
  | portDown
  /-- MODULE_RESET, R388. -/
  | moduleReset
  /-- BRINGUP_READY, R388. -/
  | bringupReady
  /-- THROTTLE, R392. -/
  | throttle
  /-- THERMAL_STOP, R392. -/
  | thermalStop
  /-- THERMAL_RECOVERY, R392. -/
  | thermalRecovery
  /-- PEER_ACCESS, R308. -/
  | peerAccess
  /-- ATOMICOP_COMPLETION, R93. -/
  | atomicopCompletion
  /-- LOST_READ, R384. -/
  | lostRead
  /-- K_BLOCK, R233. -/
  | kBlock
  /-- VECTOR_INSTRUCTION_COMPLETE, R123. -/
  | vectorInstructionComplete
  deriving DecidableEq, Repr

end Sys2Proof
end

