-- ==== Sys2Proof/Machine/Legality.lean ====
section
/-!
DEFINITION. The fates of Carug encodings (R24 to R35): for each OP and FN the values that the fields and
the operands may take, from the instruction entries of the manual. A word outside them is ILLEGAL_OP.
Open points: log 14 (DEDUCED).
-/
namespace Sys2Proof.Machine

/-- Where an operand may lie: a class of Table 2-2, and the indices or values from lo to hi in steps. -/
structure Slot where
  cls  : Nat
  lo   : Nat := 0
  hi   : Nat := 65535
  step : Nat := 1
  deriving DecidableEq, Repr

/-- The class of an operand (Table 2-2). -/
def opdClass : Operand → Nat
  | .none => 0 | .s _ => 1 | .v _ => 2 | .p _ => 3 | .h _ => 4 | .k _ => 5 | .q _ => 6 | .t _ => 7
  | .a _ => 8 | .m _ => 9 | .e _ => 10 | .csr _ => 11 | .simm _ => 12 | .uimm _ => 13 | .mem _ _ => 14

/-- The index or unsigned value of an operand (R27). -/
def opdValue : Operand → Nat
  | .none => 0 | .s i => i.toNat | .v i => i.toNat | .p i => i.toNat | .h i => i.toNat
  | .k i => i.toNat | .q i => i.toNat | .t i => i.toNat | .a i => i.toNat | .m i => i.toNat
  | .e i => i.toNat | .csr n => n.toNat | .simm x => x.toNat | .uimm x => x.toNat | .mem b _ => b.toNat

/-- Whether the operand lies in the slot (legal_operand of R30). -/
def Slot.ok (sl : Slot) (o : Operand) : Bool :=
  opdClass o == sl.cls && decide (sl.lo ≤ opdValue o) && decide (opdValue o ≤ sl.hi) &&
    (opdValue o - sl.lo) % sl.step == 0

/-- The allowed field values and operands of an instruction (R25, R30). TY, DP and XF are sets, held as
masks; `rnd` says on which TY and XF it rounds, where RM takes any code but 6 and is 0 otherwise. -/
structure Entry where
  ty  : Nat := 1
  dp  : Nat := 1
  xf  : Nat := 1
  rnd : Nat → Nat → Bool := fun _ _ => false
  dt  : Bool := false
  rd  : Bool := false
  cl  : Bool := false
  a   : List Slot := [⟨0, 0, 0, 1⟩]
  b   : List Slot := [⟨0, 0, 0, 1⟩]
  c   : List Slot := [⟨0, 0, 0, 1⟩]
  ok  : Fields → Bool := fun _ => true

/-! The slots of Table 2-2. -/

def slNone : Slot := ⟨0, 0, 0, 1⟩
def slS : Slot := ⟨1, 0, 31, 1⟩
def slV : Slot := ⟨2, 0, 31, 1⟩
def slV2 : Slot := ⟨2, 0, 30, 2⟩
def slV8 : Slot := ⟨2, 0, 24, 8⟩
def slP : Slot := ⟨3, 0, 15, 1⟩
def slPd : Slot := ⟨3, 1, 15, 1⟩
def slH : Slot := ⟨4, 0, 3, 1⟩
def slK : Slot := ⟨5, 0, 3, 1⟩
def slQ : Slot := ⟨6, 0, 7, 1⟩
def slT : Slot := ⟨7, 0, 1, 1⟩
def slA : Slot := ⟨8, 0, 3, 1⟩
def slM : Slot := ⟨9, 0, 7, 1⟩
def slE : Slot := ⟨10, 0, 2, 1⟩
def slCsr : Slot := ⟨11, 0, 4095, 1⟩
def slSi : Slot := ⟨12, 0, 65535, 1⟩
def slUi : Slot := ⟨13, 0, 65535, 1⟩
def slUto (hi : Nat) : Slot := ⟨13, 0, hi, 1⟩
def slMem : Slot := ⟨14, 0, 31, 1⟩

/-! The type sets of the manual as masks: I, F, P8 (R158), all codes, all but E2M1B. -/

def tyI : Nat := 0x00FF
def tyF : Nat := 0x7800
def tyP8 : Nat := 0x0600
def tyAll : Nat := 0x7FFF
def tyNo8 : Nat := 0x7EFF

/-- bits(ty) of Table 6-1. -/
def tyBits (ty : Nat) : Nat :=
  if ty < 8 then 8 * 2 ^ (ty % 4)
  else if ty = 8 then 4
  else if ty ≤ 10 then 8
  else if ty ≤ 12 then 16
  else if ty = 13 then 32
  else 64

/-- An integer type, TY 0 to 7. -/
def tyIsI (ty : Nat) : Bool := decide (ty < 8)
/-- A signed integer type, TY 0 to 3. -/
def tyIsS (ty : Nat) : Bool := decide (ty < 4)
/-- A floating type of R158, TY 11 to 14. -/
def tyIsF (ty : Nat) : Bool := decide (11 ≤ ty) && decide (ty ≤ 14)
/-- Any floating type, TY 8 to 14. -/
def tyFloating (ty : Nat) : Bool := decide (8 ≤ ty) && decide (ty ≤ 14)

/-- The control registers of Table 4-2 (R84, R85). -/
def csrExists (n : Nat) : Bool :=
  decide (n ≤ 0x00C) || n == 0x010 || n == 0x011 || n == 0x020 || n == 0x021

/-- The control registers that csrw may name: those that Table 4-2 does not mark RO. -/
def csrWritable (n : Nat) : Bool :=
  n == 0x002 || n == 0x005 || n == 0x006 || n == 0x007 || n == 0x00B || n == 0x011

/-- Rounds on every TY in F. -/
def rndF (ty _xf : Nat) : Bool := tyIsF ty

/-- An atomic's C value: scope 0 to 4, space 0 to 3, no other bit (R91). -/
def amoC (f : Fields) : Bool :=
  let x := opdValue f.c
  bits x 2 0 ≤ 4 && bits x 6 4 ≤ 3 && bit x 3 == false && x < 128

/-- An immediate C has an integer TY (R158). -/
def immInt (f : Fields) : Bool :=
  !(opdClass f.c == 12 || opdClass f.c == 13) || tyIsI f.ty.toNat

/-- CHN and LST are 0 where neither B nor C is a vector register (R126, R127). -/
def chnNeedsV (f : Fields) : Bool :=
  !(f.chn || f.lst) || opdClass f.b == 2 || opdClass f.c == 2

/-- The space of a vector memory form with XF[3:1] is at most 4 and RD is 0 off the global space (R206). -/
def xfSpace (f : Fields) : Bool :=
  bits f.xf.toNat 3 1 ≤ 4 && (bits f.xf.toNat 3 1 == 0 || f.rd == 0)

/-- The legal pairs of vbind (R214): destination ty, source xf. -/
def bindPair (ty xf : Nat) : Bool :=
  xf == ty || ((xf == 9 || xf == 10) && tyIsF ty) || ((xf == 11 || xf == 12) && (ty == 13 || ty == 14)) ||
  (xf == 13 && ty == 14) || (xf == 8 && 11 ≤ ty && ty ≤ 13) ||
  (tyIsI ty && tyIsI xf && tyIsS ty == tyIsS xf && tyBits xf < tyBits ty)

/-- Integer instructions, OP 0x01 to 0x0F (Table 4-1). -/
def entryInt (op fn : Nat) : Option Entry :=
  match op with
  | 0x01 | 0x02 | 0x03 | 0x04 | 0x05 | 0x09 =>
    if fn = 0 then some { a := [slS], b := [slS], c := [slS, slSi, slUi] } else none
  | 0x06 | 0x07 | 0x08 =>
    if fn = 0 then some { a := [slS], b := [slS], c := [slS, slUto 63] } else none
  | 0x0A => if fn ≤ 2 then some { a := [slS], b := [slS], c := [slS] } else none
  | 0x0B => if fn ≤ 3 then some { a := [slS], b := [slS], c := [slS] } else none
  | 0x0C => if fn ≤ 3 then some { a := [slS], b := [slS], c := [slS, slSi, slUi] } else none
  | 0x0D => if fn ≤ 5 then some { a := [slPd], b := [slS], c := [slS, slSi, slUi] } else none
  | 0x0E => if fn = 0 then some { a := [slS] } else none
  | 0x0F =>
    match fn with
    | 0 => some { a := [slS], b := [slS, slSi, slUi] }
    | 1 => some { a := [slS], b := [slS], c := [slS] }
    | 2 | 3 => some { a := [slS], b := [slS] }
    | _ => none
  | _ => none

/-- Control instructions, OP 0x10 to 0x1C (Table 3-12, R84). -/
def entryCtl (op fn : Nat) : Option Entry :=
  match op, fn with
  | 0x10, 0 => some { a := [slS, slP], b := [slUto 31] }
  | 0x11, 0 | 0x11, 1 => some { b := [slUto 31] }
  | 0x11, 2 => some { b := [slS] }
  | 0x12, 0 => some { a := [slS], b := [slUto 31, slS] }
  | 0x13, 0 => some { a := [slS] }
  | 0x14, 0 => some { a := [slQ], b := [slUto 31] }
  | 0x15, 0 => some { a := [slUto 1], b := [slS, slMem, slSi] }
  | 0x16, 0 | 0x17, 0 | 0x18, 0 => some {}
  | 0x19, 0 => some { a := [slNone, slUi] }
  | 0x1A, 0 => some { a := [slS] }
  | 0x1B, 0 => some { a := [slS], b := [slCsr], ok := fun f => csrExists (opdValue f.b) }
  | 0x1C, 0 => some { a := [slCsr], b := [slS, slUi], ok := fun f => csrWritable (opdValue f.a) }
  | _, _ => none

/-- Scalar memory, atomics, fences, barriers, tints, queues, tethers: OP 0x20 to 0x34 (Tables 4-9, 4-10,
5-1, 13-9; R98, R111). -/
def entryMem (op fn : Nat) : Option Entry :=
  match op with
  | 0x20 => if fn = 0 then some { ty := tyI, rd := true, a := [slS], b := [slMem] } else none
  | 0x21 => if fn = 0 then some { ty := tyI, a := [slMem], b := [slS] } else none
  | 0x22 => if 1 ≤ fn ∧ fn ≤ 4 then some { ty := tyI, a := [slS], b := [slMem] } else none
  | 0x23 => if 1 ≤ fn ∧ fn ≤ 4 then some { ty := tyI, a := [slMem], b := [slS] } else none
  | 0x24 =>
    if fn ≤ 8 then some { ty := 0xCC, xf := 0xF, a := [slS], b := [slMem], c := [slUi], ok := amoC } else none
  | 0x25 =>
    if fn = 0 then some { ty := 0xCC, xf := 0xF, a := [⟨1, 0, 30, 2⟩], b := [slMem], c := [slUi], ok := amoC }
    else none
  | 0x26 =>
    if fn ≤ 3 then
      some { ty := if fn = 1 then 0x0800 else 0x2000, a := [slS], b := [slMem], c := [slUi], ok := amoC }
    else none
  | 0x27 => if fn ≤ 2 then some { a := [slUto 4] } else if fn = 3 then some {} else none
  | 0x28 => if fn = 0 then some { a := [slUto 31, slS], b := [slUto 1], c := [slNone, ⟨13, 1, 256, 1⟩] } else none
  | 0x29 => if fn = 0 then some { a := [slUto 31, slS], b := [slUto 1] } else none
  | 0x2A => if fn = 0 then some { a := [slNone, slS] } else none
  | 0x2B => if fn = 0 then some {} else none
  | 0x2C => if fn = 0 then some { a := [slS], b := [slS, slUto 1023] } else none
  | 0x30 => if fn = 0 then some { a := [slQ], b := [slS, slSi, slUi] } else none
  | 0x31 => if fn = 0 then some { a := [slS], b := [slQ] } else none
  | 0x32 => if fn = 0 then some { a := [slS], b := [slQ], c := [slNone, slPd] } else none
  | 0x33 => if fn ≤ 1 then some { b := [slS, slSi, slUi] } else none
  | 0x34 => if fn = 0 then some { a := [slS], b := [slT] } else none
  | _ => none

/-- Length, repeat, predicates and permutes, OP 0x40 to 0x4D (Tables 6-4, 6-7; R131 to R136). -/
def entryPerm (op fn : Nat) : Option Entry :=
  match op with
  | 0x40 => if fn = 0 then some { ty := tyAll, a := [slS], b := [slS, slUi] } else none
  | 0x41 => if fn = 0 then some { ty := tyAll, a := [slS] } else none
  | 0x42 =>
    if fn = 0 then
      some { a := [slS, ⟨13, 1, 65535, 1⟩], b := [slS, slNone], c := [slS, slSi, slNone]
             ok := fun f => (opdClass f.b == 1) == !(opdClass f.c == 0) }
    else none
  | 0x43 =>
    match fn with
    | 0 | 1 | 2 | 3 => some { ty := tyAll, dt := true, a := [slPd], b := [slP], c := [slP] }
    | 4 => some { ty := tyAll, dt := true, a := [slPd], b := [slP] }
    | 5 | 6 => some { ty := tyAll, dt := true, a := [slPd] }
    | _ => none
  | 0x44 | 0x45 => if fn = 0 then some { ty := tyAll, a := [slS], b := [slP] } else none
  | 0x46 =>
    if fn = 0 then some { ty := tyNo8, dt := true, cl := true, a := [slV], b := [slV], c := [slV] } else none
  | 0x47 =>
    if fn ≤ 1 then some { ty := tyNo8, dt := true, cl := true, a := [slV], b := [slV], c := [slS, slUi] } else none
  | 0x48 => if fn = 0 then some { ty := tyNo8, dt := true, cl := true, a := [slV8], b := [slV8] } else none
  | 0x49 =>
    if fn ≤ 1 then some { ty := tyNo8, dt := true, cl := true, a := [slV2], b := [slV], c := [slV] } else none
  | 0x4A =>
    if fn = 0 then
      some { ty := tyNo8, dt := true, cl := true, a := [slV], b := [slS, slSi, slUi, slV]
             c := [slNone, slS, slUi]
             ok := fun f => ((opdClass f.b == 2) == !(opdClass f.c == 0)) && chnNeedsV f }
    else none
  | 0x4B => if fn = 0 then some { ty := tyI, dt := true, a := [slV], b := [slNone, slP] } else none
  | 0x4C => if fn = 0 then some { ty := tyNo8, cl := true, a := [slS], b := [slV], c := [slS, slUi] } else none
  | 0x4D => if fn = 0 then some { ty := tyNo8, dt := true, a := [slV], b := [slS], c := [slS, slUi] } else none
  | _ => none

/-- Operands of the two-source arithmetic forms of Table 8-1. -/
def entryVBin (ty : Nat) (rnd : Nat → Nat → Bool) (c : List Slot) : Entry :=
  { ty := ty, rnd := rnd, dt := true, cl := true, a := [slV], b := [slV], c := c, ok := immInt }

/-- Vector arithmetic and conversion, OP 0x50 to 0x68 (Tables 8-1, 8-6; R158 to R173). -/
def entryArith (op fn : Nat) : Option Entry :=
  let vsiu := [slV, slS, slSi, slUi]
  match op with
  | 0x50 | 0x51 | 0x52 | 0x54 => if fn = 0 then some (entryVBin (tyI + tyF) rndF vsiu) else none
  | 0x53 => if fn = 0 then some { entryVBin tyF rndF [slV, slS] with xf := 0xF } else none
  | 0x55 => if fn = 0 then some { entryVBin tyF rndF [slNone] with } else none
  | 0x56 | 0x57 => if fn = 0 then some (entryVBin (tyI + tyF) (fun _ _ => false) vsiu) else none
  | 0x58 | 0x59 => if fn = 0 then some (entryVBin (tyI + tyF + tyP8) (fun _ _ => false) [slNone]) else none
  | 0x5A | 0x5B | 0x5C => if fn = 0 then some (entryVBin (tyI + tyF + tyP8) (fun _ _ => false) vsiu) else none
  | 0x5D =>
    if fn = 0 then
      some { entryVBin tyI (fun _ _ => false) [slV, slS, slUi] with
             ok := fun f => opdClass f.c != 13 || opdValue f.c < tyBits f.ty.toNat }
    else none
  | 0x5E =>
    if fn ≤ 1 then
      some { entryVBin tyI (fun _ _ => false) [slV, slS, slUi] with
             ok := fun f => opdClass f.c != 13 || opdValue f.c < tyBits f.ty.toNat }
    else none
  | 0x5F =>
    if fn ≤ 7 then
      some { entryVBin (if fn ≤ 5 then tyI + tyF + tyP8 else tyF + tyP8) (fun _ _ => false) vsiu with a := [slPd] }
    else none
  | 0x60 => if fn = 0 then some { entryVBin (tyI + tyF + tyP8) (fun _ _ => false) [slV, slS] with dt := false } else none
  | 0x61 => if fn = 0 then some (entryVBin tyI (fun _ _ => false) [slV, slS]) else none
  | 0x62 => if fn = 0 then some (entryVBin 0xEE (fun _ _ => false) [slV, slS]) else none
  | 0x63 =>
    if fn = 0 then
      some { entryVBin tyI (fun _ _ => false) [slS, slUi] with
             ok := fun f => opdClass f.c != 13 || (1 ≤ opdValue f.c && opdValue f.c ≤ tyBits f.ty.toNat) }
    else none
  | 0x64 => if fn ≤ 7 then some (entryVBin 0x3800 rndF [slNone]) else none
  | 0x65 =>
    if fn = 0 then
      some { entryVBin (tyF + tyP8) (fun _ _ => false) [slUto 1023] with a := [slPd], ok := fun _ => true }
    else none
  | 0x66 =>
    if fn ≤ 1 then
      some { entryVBin tyNo8 (fun ty xf => tyFloating ty || tyFloating xf) [slNone, slS, slUi] with
             xf := 0x7FFF
             ok := fun f =>
               let ty := f.ty.toNat
               let xf := f.xf.toNat
               xf != ty && decide (tyBits xf < tyBits ty) == (fn == 1) &&
                 (xf != 8 || (fn == 1 && tyFloating ty)) }
    else none
  | 0x67 =>
    if fn = 0 then
      some { entryVBin 0x0100 (fun _ _ => false) [slNone] with xf := 3, b := [slV8] }
    else none
  | 0x68 =>
    match fn with
    | 0 | 1 | 4 | 5 => some { ty := 0x0100, cl := true, a := [slV], b := [slV] }
    | 2 => some { ty := tyAll, cl := true, a := [slPd], b := [slV] }
    | 3 => some { ty := tyAll, cl := true, a := [slV], b := [slP] }
    | _ => none
  | _ => none

/-- Vector memory, OP 0x70 to 0x79 (Table 10-3; R206, R214, R216, R218). -/
def entryVMem (op fn : Nat) : Option Entry :=
  match op with
  | 0x70 =>
    if fn ≤ 4 then
      some { ty := tyNo8, dt := true, rd := fn == 0, a := [slV], b := [slMem], c := [slNone, slS, slSi] }
    else none
  | 0x71 =>
    if fn ≤ 4 then some { ty := tyNo8, dt := true, cl := true, a := [slMem], b := [slV], c := [slNone, slS, slSi] }
    else none
  | 0x72 =>
    if fn = 0 then
      some { ty := tyNo8, dt := true, cl := true, rd := true, xf := 0x3FF, a := [slV], b := [slMem], c := [slV]
             ok := xfSpace }
    else none
  | 0x73 =>
    if fn = 0 then
      some { ty := tyNo8, dt := true, cl := true, xf := 0x3FF, a := [slMem], b := [slV], c := [slV] }
    else none
  | 0x74 => if fn = 0 then some { ty := tyNo8, dt := true, rd := true, a := [slV], b := [slMem], c := [slPd] } else none
  | 0x75 =>
    if fn = 0 then
      some { ty := 0x100, dt := true, rd := true, xf := 0x3FF, a := [slV], b := [slMem], c := [slS], ok := xfSpace }
    else none
  | 0x76 =>
    if fn = 0 then
      some { ty := 0x100, dt := true, cl := true, xf := 0x3FF, a := [slMem], b := [slV], c := [slS] }
    else none
  | 0x77 =>
    if fn = 0 then
      some { ty := tyNo8, dt := true, xf := 0x7FFF, a := [slV], b := [slMem], c := [slNone, slS, slSi]
             ok := fun f => bindPair f.ty.toNat f.xf.toNat && (f.xf != 8 || opdClass f.c == 1) }
    else none
  | 0x78 => if fn = 0 then some { dt := true, a := [slV] } else none
  | 0x79 =>
    let e : Entry := { dt := true, a := [slMem], b := [slMem], c := [slS] }
    match fn with
    | 0 => some { e with ty := tyNo8 }
    | 1 | 2 => some { e with ty := tyI + tyF, rnd := rndF }
    | 3 => some { e with ty := tyF, rnd := rndF, c := [⟨1, 0, 30, 2⟩] }
    | 4 => some { e with ty := tyNo8, xf := tyNo8, rnd := fun ty xf => tyFloating ty || tyFloating xf
                         ok := fun f => f.xf != f.ty }
    | 5 | 6 => some { e with ty := tyI + tyF }
    | _ => none
  | _ => none

/-- Nested vectors, OP 0x80 to 0x8B (Table 9-6, R185). -/
def entryNest (op fn : Nat) : Option Entry :=
  let v : Entry := { dt := true, cl := true, a := [slV], b := [slV] }
  match op with
  | 0x80 =>
    if fn ≤ 5 then
      some { v with ty := if fn ≤ 2 then tyI + tyF else tyI, dp := 0xF, c := [slH, slNone]
                    rnd := fun ty _ => fn == 0 && tyIsF ty
                    ok := fun f => f.dp < 2 || opdClass f.c == 4 }
    else none
  | 0x81 =>
    if fn ≤ 5 then
      some { v with ty := if fn ≤ 2 then tyI + tyF else tyI, dp := 0xF, xf := 3
                    rnd := fun ty _ => fn == 0 && tyIsF ty }
    else none
  | 0x82 => if fn = 0 then some { v with ty := tyAll, c := [slH] } else none
  | 0x83 => if fn = 0 then some { v with ty := tyAll, dp := 0xF, c := [slH] } else none
  | 0x84 => if fn = 0 then some { ty := tyI, dp := 0xE, dt := true, a := [slV], b := [slH], c := [slH, slNone] } else none
  | 0x85 => if fn = 0 then some { v with ty := tyI, a := [slH], c := [slH, slNone] } else none
  | 0x86 => if fn = 0 then some { v with ty := tyAll, dp := 0xF, c := [slH] } else none
  | 0x87 =>
    if fn = 0 then
      some { v with ty := tyNo8, dp := 0xF, xf := 3, c := [slV, slNone]
                    ok := fun f => opdClass f.c == 0 || opdValue f.c != opdValue f.a }
    else none
  | 0x88 => if fn = 0 then some { ty := tyAll, rd := true, a := [slH], b := [slMem], c := [slS, slNone] } else none
  | 0x89 => if fn = 0 then some { a := [slMem], b := [slH] } else none
  | 0x8A => if fn = 0 then some { a := [slS], b := [slK], c := [slUto 1] } else none
  | 0x8B => if fn = 0 then some { a := [slK], b := [slS], c := [slUto 1] } else none
  | _ => none

/-- Matrix array and engines, OP 0x90 to 0x9D (Tables 11-2, 11-7, 12-9; R225, R230, R232, R240, R272,
R273). -/
def entryUnit (op fn : Nat) : Option Entry :=
  match op with
  | 0x90 =>
    if fn ≤ 1 then
      some { ty := 0x2004, xf := 3, a := [slS], b := [slA], c := [slS]
             ok := fun f => f.xf == 0 || opdValue f.b % 2 == 0 }
    else none
  | 0x91 => if fn = 0 then some { a := [slM], b := [slMem], c := [slNone, slS] } else none
  | 0x92 => if fn = 0 then some { ty := 0x1F01, xf := 0xFF, rd := true, a := [slA], b := [slM], c := [slM] } else none
  | 0x93 =>
    if fn = 0 then some { ty := 0x3E07, rnd := fun _ _ => true, a := [slV], b := [slA], c := [slS, slUi] } else none
  | 0x94 =>
    if fn = 0 then some { ty := 0x3E07, a := [slA], b := [slV], c := [slS, slUi] } else none
  | 0x95 => if fn = 0 then some { a := [slA] } else none
  | 0x96 => if fn = 0 then some { a := [slNone, slA] } else none
  | 0x98 => if fn = 0 then some { a := [slS], b := [slE], c := [⟨1, 8, 24, 8⟩] } else none
  | 0x99 => if fn = 0 then some { a := [⟨1, 4, 28, 4⟩], b := [slE] } else none
  | 0x9A => if fn = 0 then some { a := [slS], b := [slE] } else none
  | 0x9B =>
    if fn = 0 then
      some { ty := 0x3800, dp := 2, xf := 0xFF, dt := true, cl := true, a := [slV2], b := [slV], c := [slV] }
    else none
  | 0x9C => if fn = 0 then some { a := [slV] } else none
  | 0x9D => if fn = 0 then some {} else if fn = 1 then some { a := [slMem] } else none
  | _ => none

/-- entry(op, fn) of R30: the instruction entry, or none for an unassigned encoding. -/
def entry (op fn : Nat) : Option Entry :=
  match bits op 7 4 with
  | 0 => entryInt op fn
  | 1 => entryCtl op fn
  | 2 | 3 => entryMem op fn
  | 4 => entryPerm op fn
  | 5 | 6 => entryArith op fn
  | 7 => entryVMem op fn
  | 8 => entryNest op fn
  | 9 => entryUnit op fn
  | _ => none

/-- LST alone on maccwr (R239); elsewhere CHN and LST are allowed together. -/
def chnLstOk (op : Nat) (e : Entry) (f : Fields) : Bool :=
  if op = 0x94 then !f.chn else e.cl || (!f.chn && !f.lst)

/-- The checks of R30 on the fields of a word with the given OP; `li` has no classes in B and C, and its
fields hold none there. -/
def legalFields (op : Nat) (f : Fields) : Bool :=
  match entry op f.fn.toNat with
  | none => false
  | some e =>
    bit e.ty f.ty.toNat && bit e.dp f.dp.toNat && bit e.xf f.xf.toNat &&
    (if e.rnd f.ty.toNat f.xf.toNat then f.rm != 6 else f.rm == 0) &&
    (e.dt || !f.dt) && (e.rd || f.rd == 0) && chnLstOk op e f &&
    !(f.gp == 0 && f.gn) &&
    e.a.any (fun sl => sl.ok f.a) && e.b.any (fun sl => sl.ok f.b) && e.c.any (fun sl => sl.ok f.c) &&
    e.ok f

end Sys2Proof.Machine
end

