-- ==== Sys2Proof/Machine/Forms.lean ====
section
/-!
DEFINITION. The constructor of each Carug instruction and its OP and FN (R34, R35), and what a legal
instruction is.
-/
namespace Sys2Proof.Machine

/-- OP, the least and the greatest FN, and the fields of a Carug instruction; none for the others. -/
def carugParts : Instr → Option (Nat × Nat × Nat × Fields)
  | .add f => some (0x01, 0, 0, f)
  | .sub f => some (0x02, 0, 0, f)
  | .and f => some (0x03, 0, 0, f)
  | .or f => some (0x04, 0, 0, f)
  | .xor f => some (0x05, 0, 0, f)
  | .shl f => some (0x06, 0, 0, f)
  | .shr f => some (0x07, 0, 0, f)
  | .sra f => some (0x08, 0, 0, f)
  | .mul f => some (0x09, 0, 0, f)
  | .mulhS f => some (0x0A, 0, 0, f)
  | .mulhN f => some (0x0A, 1, 1, f)
  | .mulhSn f => some (0x0A, 2, 2, f)
  | .divS f => some (0x0B, 0, 0, f)
  | .divN f => some (0x0B, 1, 1, f)
  | .remS f => some (0x0B, 2, 2, f)
  | .remN f => some (0x0B, 3, 3, f)
  | .min f => some (0x0C, 0, 0, f)
  | .minn f => some (0x0C, 1, 1, f)
  | .max f => some (0x0C, 2, 2, f)
  | .maxn f => some (0x0C, 3, 3, f)
  | .cmpEq f => some (0x0D, 0, 0, f)
  | .cmpNe f => some (0x0D, 1, 1, f)
  | .cmpLt f => some (0x0D, 2, 2, f)
  | .cmpGe f => some (0x0D, 3, 3, f)
  | .cmpLtn f => some (0x0D, 4, 4, f)
  | .cmpGen f => some (0x0D, 5, 5, f)
  | .li f _ => some (0x0E, 0, 0, f)
  | .mov f => some (0x0F, 0, 0, f)
  | .sel f => some (0x0F, 1, 1, f)
  | .clz f => some (0x0F, 2, 2, f)
  | .popc f => some (0x0F, 3, 3, f)
  | .br f => some (0x10, 0, 0, f)
  | .jmpNear f => some (0x11, 0, 0, f)
  | .jmpFar f => some (0x11, 1, 1, f)
  | .jmpReg f => some (0x11, 2, 2, f)
  | .call f => some (0x12, 0, 0, f)
  | .ret f => some (0x13, 0, 0, f)
  | .qbr f => some (0x14, 0, 0, f)
  | .fetchb f => some (0x15, 0, 0, f)
  | .land f => some (0x16, 0, 0, f)
  | .yield f => some (0x17, 0, 0, f)
  | .nop f => some (0x18, 0, 0, f)
  | .trap f => some (0x19, 0, 0, f)
  | .sleepu f => some (0x1A, 0, 0, f)
  | .csrr f => some (0x1B, 0, 0, f)
  | .csrw f => some (0x1C, 0, 0, f)
  | .ld f => some (0x20, 0, 0, f)
  | .st f => some (0x21, 0, 0, f)
  | .ldsp f => some (0x22, 1, 4, f)
  | .stsp f => some (0x23, 1, 4, f)
  | .amoAdd f => some (0x24, 0, 0, f)
  | .amoAnd f => some (0x24, 1, 1, f)
  | .amoOr f => some (0x24, 2, 2, f)
  | .amoXor f => some (0x24, 3, 3, f)
  | .amoMin f => some (0x24, 4, 4, f)
  | .amoMax f => some (0x24, 5, 5, f)
  | .amoMinn f => some (0x24, 6, 6, f)
  | .amoMaxn f => some (0x24, 7, 7, f)
  | .amoSwap f => some (0x24, 8, 8, f)
  | .cas f => some (0x25, 0, 0, f)
  | .famoAddF32 f => some (0x26, 0, 0, f)
  | .famoAddBf16 f => some (0x26, 1, 1, f)
  | .famoMinF32 f => some (0x26, 2, 2, f)
  | .famoMaxF32 f => some (0x26, 3, 3, f)
  | .fenceFull f => some (0x27, 0, 0, f)
  | .fenceRel f => some (0x27, 1, 1, f)
  | .fenceAcq f => some (0x27, 2, 2, f)
  | .fenceStrip f => some (0x27, 3, 3, f)
  | .barArrive f => some (0x28, 0, 0, f)
  | .barWait f => some (0x29, 0, 0, f)
  | .regb f => some (0x2A, 0, 0, f)
  | .rege f => some (0x2B, 0, 0, f)
  | .hview f => some (0x2C, 0, 0, f)
  | .qpush f => some (0x30, 0, 0, f)
  | .qpop f => some (0x31, 0, 0, f)
  | .qpeek f => some (0x32, 0, 0, f)
  | .tsendLeft f => some (0x33, 0, 0, f)
  | .tsendRight f => some (0x33, 1, 1, f)
  | .trecv f => some (0x34, 0, 0, f)
  | .setvl f => some (0x40, 0, 0, f)
  | .getmvl f => some (0x41, 0, 0, f)
  | .rep f => some (0x42, 0, 0, f)
  | .plogicAnd f => some (0x43, 0, 0, f)
  | .plogicOr f => some (0x43, 1, 1, f)
  | .plogicXor f => some (0x43, 2, 2, f)
  | .plogicAndn f => some (0x43, 3, 3, f)
  | .plogicNot f => some (0x43, 4, 4, f)
  | .plogicSet f => some (0x43, 5, 5, f)
  | .plogicClear f => some (0x43, 6, 6, f)
  | .pcnt f => some (0x44, 0, 0, f)
  | .pfirst f => some (0x45, 0, 0, f)
  | .vperm f => some (0x46, 0, 0, f)
  | .vslideUp f => some (0x47, 0, 0, f)
  | .vslideDown f => some (0x47, 1, 1, f)
  | .vtrans8 f => some (0x48, 0, 0, f)
  | .vzipZip f => some (0x49, 0, 0, f)
  | .vzipUnzip f => some (0x49, 1, 1, f)
  | .vbcast f => some (0x4A, 0, 0, f)
  | .viota f => some (0x4B, 0, 0, f)
  | .vext f => some (0x4C, 0, 0, f)
  | .vins f => some (0x4D, 0, 0, f)
  | .vadd f => some (0x50, 0, 0, f)
  | .vsub f => some (0x51, 0, 0, f)
  | .vmul f => some (0x52, 0, 0, f)
  | .vfma f => some (0x53, 0, 0, f)
  | .vdiv f => some (0x54, 0, 0, f)
  | .vsqrt f => some (0x55, 0, 0, f)
  | .vmin f => some (0x56, 0, 0, f)
  | .vmax f => some (0x57, 0, 0, f)
  | .vabs f => some (0x58, 0, 0, f)
  | .vneg f => some (0x59, 0, 0, f)
  | .vand f => some (0x5A, 0, 0, f)
  | .vor f => some (0x5B, 0, 0, f)
  | .vxor f => some (0x5C, 0, 0, f)
  | .vshl f => some (0x5D, 0, 0, f)
  | .vshrLog f => some (0x5E, 0, 0, f)
  | .vshrAri f => some (0x5E, 1, 1, f)
  | .vcmpEq f => some (0x5F, 0, 0, f)
  | .vcmpNe f => some (0x5F, 1, 1, f)
  | .vcmpLt f => some (0x5F, 2, 2, f)
  | .vcmpLe f => some (0x5F, 3, 3, f)
  | .vcmpGt f => some (0x5F, 4, 4, f)
  | .vcmpGe f => some (0x5F, 5, 5, f)
  | .vcmpUo f => some (0x5F, 6, 6, f)
  | .vcmpOrd f => some (0x5F, 7, 7, f)
  | .vsel f => some (0x60, 0, 0, f)
  | .vmulh f => some (0x61, 0, 0, f)
  | .vmadd f => some (0x62, 0, 0, f)
  | .vsat f => some (0x63, 0, 0, f)
  | .vsfnExp2 f => some (0x64, 0, 0, f)
  | .vsfnLog2 f => some (0x64, 1, 1, f)
  | .vsfnRcp f => some (0x64, 2, 2, f)
  | .vsfnRsqrt f => some (0x64, 3, 3, f)
  | .vsfnTanh f => some (0x64, 4, 4, f)
  | .vsfnSigmoid f => some (0x64, 5, 5, f)
  | .vsfnErf f => some (0x64, 6, 6, f)
  | .vsfnSin f => some (0x64, 7, 7, f)
  | .vclass f => some (0x65, 0, 0, f)
  | .vcvtHalve f => some (0x66, 0, 0, f)
  | .vcvtDouble f => some (0x66, 1, 1, f)
  | .vcvtq f => some (0x67, 0, 0, f)
  | .vbsclRdscale f => some (0x68, 0, 0, f)
  | .vbsclWrscale f => some (0x68, 1, 1, f)
  | .vbsclRdvalid f => some (0x68, 2, 2, f)
  | .vbsclWrvalid f => some (0x68, 3, 3, f)
  | .vbsclRdspare f => some (0x68, 4, 4, f)
  | .vbsclWrspare f => some (0x68, 5, 5, f)
  | .vld f => some (0x70, 0, 4, f)
  | .vst f => some (0x71, 0, 4, f)
  | .vldx f => some (0x72, 0, 0, f)
  | .vstx f => some (0x73, 0, 0, f)
  | .vldff f => some (0x74, 0, 0, f)
  | .vldb f => some (0x75, 0, 0, f)
  | .vstb f => some (0x76, 0, 0, f)
  | .vbind f => some (0x77, 0, 0, f)
  | .vunbind f => some (0x78, 0, 0, f)
  | .mmvCopy f => some (0x79, 0, 0, f)
  | .mmvAdd f => some (0x79, 1, 1, f)
  | .mmvMul f => some (0x79, 2, 2, f)
  | .mmvFma f => some (0x79, 3, 3, f)
  | .mmvCvt f => some (0x79, 4, 4, f)
  | .mmvMax f => some (0x79, 5, 5, f)
  | .mmvMin f => some (0x79, 6, 6, f)
  | .nredAdd f => some (0x80, 0, 0, f)
  | .nredMin f => some (0x80, 1, 1, f)
  | .nredMax f => some (0x80, 2, 2, f)
  | .nredAnd f => some (0x80, 3, 3, f)
  | .nredOr f => some (0x80, 4, 4, f)
  | .nredXor f => some (0x80, 5, 5, f)
  | .nscanAdd f => some (0x81, 0, 0, f)
  | .nscanMin f => some (0x81, 1, 1, f)
  | .nscanMax f => some (0x81, 2, 2, f)
  | .nscanAnd f => some (0x81, 3, 3, f)
  | .nscanOr f => some (0x81, 4, 4, f)
  | .nscanXor f => some (0x81, 5, 5, f)
  | .npack f => some (0x82, 0, 0, f)
  | .ndist f => some (0x83, 0, 0, f)
  | .nlen f => some (0x84, 0, 0, f)
  | .nnest f => some (0x85, 0, 0, f)
  | .nflat f => some (0x86, 0, 0, f)
  | .nsort f => some (0x87, 0, 0, f)
  | .nshld f => some (0x88, 0, 0, f)
  | .nshst f => some (0x89, 0, 0, f)
  | .nkrd f => some (0x8A, 0, 0, f)
  | .nkwr f => some (0x8B, 0, 0, f)
  | .tshapeCore f => some (0x90, 0, 0, f)
  | .tshapeFlight f => some (0x90, 1, 1, f)
  | .mrec f => some (0x91, 0, 0, f)
  | .mma f => some (0x92, 0, 0, f)
  | .maccrd f => some (0x93, 0, 0, f)
  | .maccwr f => some (0x94, 0, 0, f)
  | .macczero f => some (0x95, 0, 0, f)
  | .mwait f => some (0x96, 0, 0, f)
  | .epush f => some (0x98, 0, 0, f)
  | .epop f => some (0x99, 0, 0, f)
  | .estat f => some (0x9A, 0, 0, f)
  | .spsrch f => some (0x9B, 0, 0, f)
  | .rcsnap f => some (0x9C, 0, 0, f)
  | .rcfenceAll f => some (0x9D, 0, 0, f)
  | .rcfenceAddr f => some (0x9D, 1, 1, f)
  | _ => none

/-- Carug instructions of OP 0x01 to 0x1C. -/
def carugBuildS (op fn : Nat) (f : Fields) (imm : BitVec 40) : Option Instr :=
  match op, fn with
  | 0x01, 0 => some (.add f)
  | 0x02, 0 => some (.sub f)
  | 0x03, 0 => some (.and f)
  | 0x04, 0 => some (.or f)
  | 0x05, 0 => some (.xor f)
  | 0x06, 0 => some (.shl f)
  | 0x07, 0 => some (.shr f)
  | 0x08, 0 => some (.sra f)
  | 0x09, 0 => some (.mul f)
  | 0x0A, 0 => some (.mulhS f)
  | 0x0A, 1 => some (.mulhN f)
  | 0x0A, 2 => some (.mulhSn f)
  | 0x0B, 0 => some (.divS f)
  | 0x0B, 1 => some (.divN f)
  | 0x0B, 2 => some (.remS f)
  | 0x0B, 3 => some (.remN f)
  | 0x0C, 0 => some (.min f)
  | 0x0C, 1 => some (.minn f)
  | 0x0C, 2 => some (.max f)
  | 0x0C, 3 => some (.maxn f)
  | 0x0D, 0 => some (.cmpEq f)
  | 0x0D, 1 => some (.cmpNe f)
  | 0x0D, 2 => some (.cmpLt f)
  | 0x0D, 3 => some (.cmpGe f)
  | 0x0D, 4 => some (.cmpLtn f)
  | 0x0D, 5 => some (.cmpGen f)
  | 0x0E, 0 => some (.li f imm)
  | 0x0F, 0 => some (.mov f)
  | 0x0F, 1 => some (.sel f)
  | 0x0F, 2 => some (.clz f)
  | 0x0F, 3 => some (.popc f)
  | 0x10, 0 => some (.br f)
  | 0x11, 0 => some (.jmpNear f)
  | 0x11, 1 => some (.jmpFar f)
  | 0x11, 2 => some (.jmpReg f)
  | 0x12, 0 => some (.call f)
  | 0x13, 0 => some (.ret f)
  | 0x14, 0 => some (.qbr f)
  | 0x15, 0 => some (.fetchb f)
  | 0x16, 0 => some (.land f)
  | 0x17, 0 => some (.yield f)
  | 0x18, 0 => some (.nop f)
  | 0x19, 0 => some (.trap f)
  | 0x1A, 0 => some (.sleepu f)
  | 0x1B, 0 => some (.csrr f)
  | 0x1C, 0 => some (.csrw f)
  | _, _ => none

/-- Carug instructions of OP 0x20 to 0x3F. -/
def carugBuildM (op fn : Nat) (f : Fields) : Option Instr :=
  match op, fn with
  | 0x20, 0 => some (.ld f)
  | 0x21, 0 => some (.st f)
  | 0x22, 1 => some (.ldsp f)
  | 0x22, 2 => some (.ldsp f)
  | 0x22, 3 => some (.ldsp f)
  | 0x22, 4 => some (.ldsp f)
  | 0x23, 1 => some (.stsp f)
  | 0x23, 2 => some (.stsp f)
  | 0x23, 3 => some (.stsp f)
  | 0x23, 4 => some (.stsp f)
  | 0x24, 0 => some (.amoAdd f)
  | 0x24, 1 => some (.amoAnd f)
  | 0x24, 2 => some (.amoOr f)
  | 0x24, 3 => some (.amoXor f)
  | 0x24, 4 => some (.amoMin f)
  | 0x24, 5 => some (.amoMax f)
  | 0x24, 6 => some (.amoMinn f)
  | 0x24, 7 => some (.amoMaxn f)
  | 0x24, 8 => some (.amoSwap f)
  | 0x25, 0 => some (.cas f)
  | 0x26, 0 => some (.famoAddF32 f)
  | 0x26, 1 => some (.famoAddBf16 f)
  | 0x26, 2 => some (.famoMinF32 f)
  | 0x26, 3 => some (.famoMaxF32 f)
  | 0x27, 0 => some (.fenceFull f)
  | 0x27, 1 => some (.fenceRel f)
  | 0x27, 2 => some (.fenceAcq f)
  | 0x27, 3 => some (.fenceStrip f)
  | 0x28, 0 => some (.barArrive f)
  | 0x29, 0 => some (.barWait f)
  | 0x2A, 0 => some (.regb f)
  | 0x2B, 0 => some (.rege f)
  | 0x2C, 0 => some (.hview f)
  | 0x30, 0 => some (.qpush f)
  | 0x31, 0 => some (.qpop f)
  | 0x32, 0 => some (.qpeek f)
  | 0x33, 0 => some (.tsendLeft f)
  | 0x33, 1 => some (.tsendRight f)
  | 0x34, 0 => some (.trecv f)
  | _, _ => none

/-- Carug instructions of OP 0x40 to 0x4F. -/
def carugBuildP (op fn : Nat) (f : Fields) : Option Instr :=
  match op, fn with
  | 0x40, 0 => some (.setvl f)
  | 0x41, 0 => some (.getmvl f)
  | 0x42, 0 => some (.rep f)
  | 0x43, 0 => some (.plogicAnd f)
  | 0x43, 1 => some (.plogicOr f)
  | 0x43, 2 => some (.plogicXor f)
  | 0x43, 3 => some (.plogicAndn f)
  | 0x43, 4 => some (.plogicNot f)
  | 0x43, 5 => some (.plogicSet f)
  | 0x43, 6 => some (.plogicClear f)
  | 0x44, 0 => some (.pcnt f)
  | 0x45, 0 => some (.pfirst f)
  | 0x46, 0 => some (.vperm f)
  | 0x47, 0 => some (.vslideUp f)
  | 0x47, 1 => some (.vslideDown f)
  | 0x48, 0 => some (.vtrans8 f)
  | 0x49, 0 => some (.vzipZip f)
  | 0x49, 1 => some (.vzipUnzip f)
  | 0x4A, 0 => some (.vbcast f)
  | 0x4B, 0 => some (.viota f)
  | 0x4C, 0 => some (.vext f)
  | 0x4D, 0 => some (.vins f)
  | _, _ => none

/-- Carug instructions of OP 0x50 to 0x6F. -/
def carugBuildA (op fn : Nat) (f : Fields) : Option Instr :=
  match op, fn with
  | 0x50, 0 => some (.vadd f)
  | 0x51, 0 => some (.vsub f)
  | 0x52, 0 => some (.vmul f)
  | 0x53, 0 => some (.vfma f)
  | 0x54, 0 => some (.vdiv f)
  | 0x55, 0 => some (.vsqrt f)
  | 0x56, 0 => some (.vmin f)
  | 0x57, 0 => some (.vmax f)
  | 0x58, 0 => some (.vabs f)
  | 0x59, 0 => some (.vneg f)
  | 0x5A, 0 => some (.vand f)
  | 0x5B, 0 => some (.vor f)
  | 0x5C, 0 => some (.vxor f)
  | 0x5D, 0 => some (.vshl f)
  | 0x5E, 0 => some (.vshrLog f)
  | 0x5E, 1 => some (.vshrAri f)
  | 0x5F, 0 => some (.vcmpEq f)
  | 0x5F, 1 => some (.vcmpNe f)
  | 0x5F, 2 => some (.vcmpLt f)
  | 0x5F, 3 => some (.vcmpLe f)
  | 0x5F, 4 => some (.vcmpGt f)
  | 0x5F, 5 => some (.vcmpGe f)
  | 0x5F, 6 => some (.vcmpUo f)
  | 0x5F, 7 => some (.vcmpOrd f)
  | 0x60, 0 => some (.vsel f)
  | 0x61, 0 => some (.vmulh f)
  | 0x62, 0 => some (.vmadd f)
  | 0x63, 0 => some (.vsat f)
  | 0x64, 0 => some (.vsfnExp2 f)
  | 0x64, 1 => some (.vsfnLog2 f)
  | 0x64, 2 => some (.vsfnRcp f)
  | 0x64, 3 => some (.vsfnRsqrt f)
  | 0x64, 4 => some (.vsfnTanh f)
  | 0x64, 5 => some (.vsfnSigmoid f)
  | 0x64, 6 => some (.vsfnErf f)
  | 0x64, 7 => some (.vsfnSin f)
  | 0x65, 0 => some (.vclass f)
  | 0x66, 0 => some (.vcvtHalve f)
  | 0x66, 1 => some (.vcvtDouble f)
  | 0x67, 0 => some (.vcvtq f)
  | 0x68, 0 => some (.vbsclRdscale f)
  | 0x68, 1 => some (.vbsclWrscale f)
  | 0x68, 2 => some (.vbsclRdvalid f)
  | 0x68, 3 => some (.vbsclWrvalid f)
  | 0x68, 4 => some (.vbsclRdspare f)
  | 0x68, 5 => some (.vbsclWrspare f)
  | _, _ => none

/-- Carug instructions of OP 0x70 to 0x8F. -/
def carugBuildN (op fn : Nat) (f : Fields) : Option Instr :=
  match op, fn with
  | 0x70, 0 => some (.vld f)
  | 0x70, 1 => some (.vld f)
  | 0x70, 2 => some (.vld f)
  | 0x70, 3 => some (.vld f)
  | 0x70, 4 => some (.vld f)
  | 0x71, 0 => some (.vst f)
  | 0x71, 1 => some (.vst f)
  | 0x71, 2 => some (.vst f)
  | 0x71, 3 => some (.vst f)
  | 0x71, 4 => some (.vst f)
  | 0x72, 0 => some (.vldx f)
  | 0x73, 0 => some (.vstx f)
  | 0x74, 0 => some (.vldff f)
  | 0x75, 0 => some (.vldb f)
  | 0x76, 0 => some (.vstb f)
  | 0x77, 0 => some (.vbind f)
  | 0x78, 0 => some (.vunbind f)
  | 0x79, 0 => some (.mmvCopy f)
  | 0x79, 1 => some (.mmvAdd f)
  | 0x79, 2 => some (.mmvMul f)
  | 0x79, 3 => some (.mmvFma f)
  | 0x79, 4 => some (.mmvCvt f)
  | 0x79, 5 => some (.mmvMax f)
  | 0x79, 6 => some (.mmvMin f)
  | 0x80, 0 => some (.nredAdd f)
  | 0x80, 1 => some (.nredMin f)
  | 0x80, 2 => some (.nredMax f)
  | 0x80, 3 => some (.nredAnd f)
  | 0x80, 4 => some (.nredOr f)
  | 0x80, 5 => some (.nredXor f)
  | 0x81, 0 => some (.nscanAdd f)
  | 0x81, 1 => some (.nscanMin f)
  | 0x81, 2 => some (.nscanMax f)
  | 0x81, 3 => some (.nscanAnd f)
  | 0x81, 4 => some (.nscanOr f)
  | 0x81, 5 => some (.nscanXor f)
  | 0x82, 0 => some (.npack f)
  | 0x83, 0 => some (.ndist f)
  | 0x84, 0 => some (.nlen f)
  | 0x85, 0 => some (.nnest f)
  | 0x86, 0 => some (.nflat f)
  | 0x87, 0 => some (.nsort f)
  | 0x88, 0 => some (.nshld f)
  | 0x89, 0 => some (.nshst f)
  | 0x8A, 0 => some (.nkrd f)
  | 0x8B, 0 => some (.nkwr f)
  | _, _ => none

/-- Carug instructions of OP 0x90 to 0x9F. -/
def carugBuildU (op fn : Nat) (f : Fields) : Option Instr :=
  match op, fn with
  | 0x90, 0 => some (.tshapeCore f)
  | 0x90, 1 => some (.tshapeFlight f)
  | 0x91, 0 => some (.mrec f)
  | 0x92, 0 => some (.mma f)
  | 0x93, 0 => some (.maccrd f)
  | 0x94, 0 => some (.maccwr f)
  | 0x95, 0 => some (.macczero f)
  | 0x96, 0 => some (.mwait f)
  | 0x98, 0 => some (.epush f)
  | 0x99, 0 => some (.epop f)
  | 0x9A, 0 => some (.estat f)
  | 0x9B, 0 => some (.spsrch f)
  | 0x9C, 0 => some (.rcsnap f)
  | 0x9D, 0 => some (.rcfenceAll f)
  | 0x9D, 1 => some (.rcfenceAddr f)
  | _, _ => none

/-- The instruction of an OP and FN with the given fields; li also takes the immediate of its B and C. -/
def carugBuild (op : Nat) (f : Fields) (imm : BitVec 40) : Option Instr :=
  if op < 0x20 then carugBuildS op f.fn.toNat f imm
  else if op < 0x40 then carugBuildM op f.fn.toNat f
  else if op < 0x50 then carugBuildP op f.fn.toNat f
  else if op < 0x70 then carugBuildA op f.fn.toNat f
  else if op < 0x90 then carugBuildN op f.fn.toNat f
  else carugBuildU op f.fn.toNat f

/-- Whether an instruction is legal: a Carug instruction by R30, an engine instruction of the reel by R37.
An event is no instruction of a program; its arguments are checked where it acts. -/
def legalInstr (i : Instr) : Bool :=
  match carugParts i with
  | some (op, lo, hi, f) => decide (lo ≤ f.fn.toNat) && decide (f.fn.toNat ≤ hi) && legalFields op f
  | none =>
    match i with
    | .ePush e _ _ | .ePop e _ _ | .eStat e _ => decide (e.toNat ≤ 2)
    | _ => true

end Sys2Proof.Machine
end

