-- ==== Sys2Proof/WellFormed.lean ====
section
/-!
DEFINITION. Well-formed instructions: those that the encoding admits.
-/
namespace Sys2Proof

/-- An instruction that the manual's encoding admits (R30, R37). -/
def Instr.WellFormed (i : Instr) : Prop := Machine.legalInstr i = true

end Sys2Proof
end

