-- ==== Sys2Proof/Decode.lean ====
section
/-!
DEFINITION. The decoder and the encoder: Carug words (R24 to R35), Xcarug words (R36, R37) and the RISC-V
words of the reel (R2), from their encoding tables.
-/
namespace Sys2Proof

open Machine

/-- The 20 bits of an operand field (R27). -/
def operandBits : Operand → BitVec 20
  | .none => 0
  | .s i => 1#4 ++ i ++ 0#11
  | .v i => 2#4 ++ i ++ 0#11
  | .p i => 3#4 ++ (0#1 ++ i) ++ 0#11
  | .h i => 4#4 ++ (0#3 ++ i) ++ 0#11
  | .k i => 5#4 ++ (0#3 ++ i) ++ 0#11
  | .q i => 6#4 ++ (0#2 ++ i) ++ 0#11
  | .t i => 7#4 ++ (0#4 ++ i) ++ 0#11
  | .a i => 8#4 ++ (0#3 ++ i) ++ 0#11
  | .m i => 9#4 ++ (0#2 ++ i) ++ 0#11
  | .e i => 10#4 ++ (0#3 ++ i) ++ 0#11
  | .csr n => 11#4 ++ 0#4 ++ n
  | .simm x => 12#4 ++ x
  | .uimm x => 13#4 ++ x
  | .mem b o => 14#4 ++ b ++ o

/-- The operand that a field's class names, with its index or value, the other bits left out. -/
def operandRead (x : BitVec 20) : Operand :=
  match (x.extractLsb' 16 4).toNat with
  | 1 => .s (x.extractLsb' 11 5)
  | 2 => .v (x.extractLsb' 11 5)
  | 3 => .p (x.extractLsb' 11 4)
  | 4 => .h (x.extractLsb' 11 2)
  | 5 => .k (x.extractLsb' 11 2)
  | 6 => .q (x.extractLsb' 11 3)
  | 7 => .t (x.extractLsb' 11 1)
  | 8 => .a (x.extractLsb' 11 2)
  | 9 => .m (x.extractLsb' 11 3)
  | 10 => .e (x.extractLsb' 11 2)
  | 11 => .csr (x.extractLsb' 0 12)
  | 12 => .simm (x.extractLsb' 0 16)
  | 13 => .uimm (x.extractLsb' 0 16)
  | 14 => .mem (x.extractLsb' 11 5) (x.extractLsb' 0 11)
  | _ => .none

/-- The operand of a field; none where the class is 15, the index is outside Table 2-2, or a bit that R27
fixes at zero is set. -/
def operandOf (x : BitVec 20) : Option Operand :=
  if operandBits (operandRead x) = x then some (operandRead x) else none

/-- The fields of a Carug word with the given operands (Table 2-1). -/
def fieldsOf (w : CWord) (a b c : Operand) : Fields :=
  { fn := w.extractLsb' 84 4, ty := w.extractLsb' 80 4, gp := w.extractLsb' 76 4, gn := w.getLsbD 75
    dt := w.getLsbD 74, dp := w.extractLsb' 72 2, rm := w.extractLsb' 69 3, yld := w.getLsbD 68
    rd := w.extractLsb' 66 2, chn := w.getLsbD 65, lst := w.getLsbD 64
    a := a, b := b, c := c, xf := w.extractLsb' 0 4 }

/-- The instruction of a Carug word, or none where R30 raises ILLEGAL_OP. -/
def decodeKite (w : CWord) : Option Instr :=
  let op := (w.extractLsb' 88 8).toNat
  if op = 0x0E then
    match operandOf (w.extractLsb' 44 20) with
    | some a =>
      let f := fieldsOf w a .none .none
      if legalFields op f then carugBuild op f (w.extractLsb' 4 40) else none
    | none => none
  else
    match operandOf (w.extractLsb' 44 20), operandOf (w.extractLsb' 24 20), operandOf (w.extractLsb' 4 20) with
    | some a, some b, some c =>
      let f := fieldsOf w a b c
      if legalFields op f then carugBuild op f 0 else none
    | _, _, _ => none

/-- The bits of B and C: two operands, or the immediate of li (R29). -/
def carugBC (i : Instr) (f : Fields) : BitVec 40 :=
  match i with
  | .li _ imm => imm
  | _ => operandBits f.b ++ operandBits f.c

/-- The word of a Carug instruction (Table 2-1). -/
def encodeKite (i : Instr) : Option CWord :=
  match carugParts i with
  | none => none
  | some (op, _, _, f) =>
    some (BitVec.ofNat 8 op ++ f.fn ++ f.ty ++ f.gp ++ BitVec.ofBool f.gn ++ BitVec.ofBool f.dt ++ f.dp ++
      f.rm ++ BitVec.ofBool f.yld ++ f.rd ++ BitVec.ofBool f.chn ++ BitVec.ofBool f.lst ++
      operandBits f.a ++ carugBC i f ++ f.xf)

/-! ## The reel's words -/

/-- The fields of an R-type word: funct7, rs2, rs1, funct3, rd. -/
structure RFields where
  f7  : Nat
  rs2 : BitVec 5
  rs1 : BitVec 5
  f3  : Nat
  rd  : BitVec 5

/-- The R-type fields of a reel word (R36). -/
def rFields (w : RWord) : RFields :=
  { f7 := (w.extractLsb' 25 7).toNat, rs2 := w.extractLsb' 20 5, rs1 := w.extractLsb' 15 5
    f3 := (w.extractLsb' 12 3).toNat, rd := w.extractLsb' 7 5 }

/-- custom-0, the kite instructions (Table 2-6, Table 3-8). -/
def decodeCustom0 (r : RFields) : Option Instr :=
  if r.f7 ≠ 0 then none
  else match r.f3 with
    | 0 => some (.kiteBridle r.rd r.rs1 r.rs2)
    | 1 => some (.kiteFly r.rd r.rs1 r.rs2)
    | 2 => some (.kiteWait r.rd r.rs1 r.rs2)
    | 3 => if r.rs2 = 0 then some (.kiteKill r.rd r.rs1) else none
    | 4 => some (.kiteRole r.rd r.rs1 r.rs2)
    | 5 => if r.rs2 = 0 then some (.kiteStat r.rd r.rs1) else none
    | 6 => some (.kiteTint r.rd r.rs1 r.rs2)
    | _ => if r.rs2 = 0 ∧ r.rs1 = 0 then some (.kiteMvl r.rd) else none

/-- custom-1, queues, engines, sleepu and cyc; funct7[2:0] names the queue or the engine (R37). -/
def decodeCustom1 (r : RFields) : Option Instr :=
  let q := BitVec.ofNat 3 r.f7
  if 8 ≤ r.f7 ∨ r.rs2 ≠ 0 then none
  else match r.f3 with
    | 0 => if r.rd = 0 then some (.qPush q r.rs1) else none
    | 1 => if r.rs1 = 0 then some (.qPop q r.rd) else none
    | 2 => if r.rs1 = 0 then some (.qPeek q r.rd) else none
    | 3 => if r.f7 ≤ 2 then some (.ePush q r.rd r.rs1) else none
    | 4 => if r.f7 ≤ 2 then some (.ePop q r.rd r.rs1) else none
    | 5 => if r.f7 ≤ 2 ∧ r.rs1 = 0 then some (.eStat q r.rd) else none
    | 6 => if r.f7 = 0 ∧ r.rd = 0 then some (.reelSleepu r.rs1) else none
    | _ => if r.f7 = 0 ∧ r.rs1 = 0 then some (.cyc r.rd) else none

/-- custom-2, hypotheses (Table 13-5). -/
def decodeCustom2 (r : RFields) : Option Instr :=
  if r.f7 ≠ 0 ∨ r.rs2 ≠ 0 then none
  else match r.f3 with
    | 0 => some (.hypOpen r.rd r.rs1)
    | 1 => some (.hypFix r.rd r.rs1)
    | 2 => some (.hypBleach r.rd r.rs1)
    | 3 => some (.hypStat r.rd r.rs1)
    | 4 => some (.hypEnter r.rd r.rs1)
    | _ => none

/-- custom-3, barriers, errors, slots, the crew's end and the handler's return (Table 2-6). -/
def decodeCustom3 (r : RFields) : Option Instr :=
  if r.f7 ≠ 0 then none
  else match r.f3 with
    | 0 => some (.fbarArrive r.rd r.rs1 r.rs2)
    | 1 => some (.fbarWait r.rd r.rs1 r.rs2)
    | 2 => if r.rs2 = 0 then some (.errPop r.rd r.rs1) else none
    | 3 => some (.slotAdmit r.rd r.rs1 r.rs2)
    | 4 => if r.rs2 = 0 then some (.slotRetire r.rd r.rs1) else none
    | 5 => if r.rs2 = 0 then some (.gpRd r.rd r.rs1) else none
    | 6 => if r.rs2 = 0 ∧ r.rs1 = 0 ∧ r.rd = 0 then some .ascentDone else none
    | _ => if r.rs2 = 0 then some (.uevRet r.rd r.rs1) else none

/-- Branches of RV64I. -/
def decodeBranch (w : RWord) (r : RFields) : Option Rv :=
  let imm := w.extractLsb' 31 1 ++ w.extractLsb' 7 1 ++ w.extractLsb' 25 6 ++ w.extractLsb' 8 4
  match r.f3 with
  | 0 => some (.branch .beq r.rs1 r.rs2 imm)
  | 1 => some (.branch .bne r.rs1 r.rs2 imm)
  | 4 => some (.branch .blt r.rs1 r.rs2 imm)
  | 5 => some (.branch .bge r.rs1 r.rs2 imm)
  | 6 => some (.branch .bltu r.rs1 r.rs2 imm)
  | 7 => some (.branch .bgeu r.rs1 r.rs2 imm)
  | _ => none

/-- Loads of RV64I. -/
def decodeLoad (w : RWord) (r : RFields) : Option Rv :=
  let imm := w.extractLsb' 20 12
  match r.f3 with
  | 0 => some (.load .b r.rd r.rs1 imm)
  | 1 => some (.load .h r.rd r.rs1 imm)
  | 2 => some (.load .w r.rd r.rs1 imm)
  | 3 => some (.load .d r.rd r.rs1 imm)
  | 4 => some (.load .bu r.rd r.rs1 imm)
  | 5 => some (.load .hu r.rd r.rs1 imm)
  | 6 => some (.load .wu r.rd r.rs1 imm)
  | _ => none

/-- Stores of RV64I. -/
def decodeStore (w : RWord) (r : RFields) : Option Rv :=
  let imm := w.extractLsb' 25 7 ++ w.extractLsb' 7 5
  match r.f3 with
  | 0 => some (.store .b r.rs1 r.rs2 imm)
  | 1 => some (.store .h r.rs1 r.rs2 imm)
  | 2 => some (.store .w r.rs1 r.rs2 imm)
  | 3 => some (.store .d r.rs1 r.rs2 imm)
  | _ => none

/-- Register-immediate operations of RV64I. -/
def decodeOpImm (w : RWord) (r : RFields) : Option Rv :=
  let imm := w.extractLsb' 20 12
  match r.f3 with
  | 0 => some (.opImm .addi r.rd r.rs1 imm)
  | 1 => if r.f7 / 2 = 0 then some (.shImm .sll r.rd r.rs1 (w.extractLsb' 20 6)) else none
  | 2 => some (.opImm .slti r.rd r.rs1 imm)
  | 3 => some (.opImm .sltiu r.rd r.rs1 imm)
  | 4 => some (.opImm .xori r.rd r.rs1 imm)
  | 5 =>
    if r.f7 / 2 = 0 then some (.shImm .srl r.rd r.rs1 (w.extractLsb' 20 6))
    else if r.f7 / 2 = 0x10 then some (.shImm .sra r.rd r.rs1 (w.extractLsb' 20 6))
    else none
  | 6 => some (.opImm .ori r.rd r.rs1 imm)
  | _ => some (.opImm .andi r.rd r.rs1 imm)

/-- Register-immediate operations on 32-bit words. -/
def decodeOpImmW (w : RWord) (r : RFields) : Option Rv :=
  match r.f3 with
  | 0 => some (.addiw r.rd r.rs1 (w.extractLsb' 20 12))
  | 1 => if r.f7 = 0 then some (.shImmW .sll r.rd r.rs1 r.rs2) else none
  | 5 =>
    if r.f7 = 0 then some (.shImmW .srl r.rd r.rs1 r.rs2)
    else if r.f7 = 0x20 then some (.shImmW .sra r.rd r.rs1 r.rs2)
    else none
  | _ => none

/-- funct7 and funct3 of the register-register operations of RV64I and M. -/
def rvOpCode : RvOp → Nat × Nat
  | .add => (0, 0) | .sub => (0x20, 0) | .sll => (0, 1) | .slt => (0, 2) | .sltu => (0, 3) | .xor => (0, 4)
  | .srl => (0, 5) | .sra => (0x20, 5) | .or => (0, 6) | .and => (0, 7)
  | .mul => (1, 0) | .mulh => (1, 1) | .mulhsu => (1, 2) | .mulhu => (1, 3)
  | .div => (1, 4) | .divu => (1, 5) | .rem => (1, 6) | .remu => (1, 7)

/-- The register-register operation of a funct7 and funct3. -/
def rvOpOf (f7 f3 : Nat) : Option RvOp :=
  [RvOp.add, .sub, .sll, .slt, .sltu, .xor, .srl, .sra, .or, .and, .mul, .mulh, .mulhsu, .mulhu, .div, .divu,
    .rem, .remu].find? fun o => rvOpCode o == (f7, f3)

/-- funct7 and funct3 of the register-register operations on 32-bit words. -/
def rvOpWCode : RvOpW → Nat × Nat
  | .addw => (0, 0) | .subw => (0x20, 0) | .sllw => (0, 1) | .srlw => (0, 5) | .sraw => (0x20, 5)
  | .mulw => (1, 0) | .divw => (1, 4) | .divuw => (1, 5) | .remw => (1, 6) | .remuw => (1, 7)

/-- The operation on 32-bit words of a funct7 and funct3. -/
def rvOpWOf (f7 f3 : Nat) : Option RvOpW :=
  [RvOpW.addw, .subw, .sllw, .srlw, .sraw, .mulw, .divw, .divuw, .remw, .remuw].find?
    fun o => rvOpWCode o == (f7, f3)

/-- funct5 of the AMOs of RV64A. -/
def rvAmoCode : RvAmo → Nat
  | .swap => 1 | .add => 0 | .xor => 4 | .and => 12 | .or => 8 | .min => 16 | .max => 20 | .minu => 24
  | .maxu => 28

/-- The AMO of a funct5. -/
def rvAmoOf (f5 : Nat) : Option RvAmo :=
  [RvAmo.swap, .add, .xor, .and, .or, .min, .max, .minu, .maxu].find? fun o => rvAmoCode o == f5

/-- The A extension. -/
def decodeAmo (w : RWord) (r : RFields) : Option Rv :=
  let dbl := r.f3 == 3
  let aq := w.getLsbD 26
  let rl := w.getLsbD 25
  if r.f3 ≠ 2 ∧ r.f3 ≠ 3 then none
  else if r.f7 / 4 = 2 then (if r.rs2 = 0 then some (.lr dbl aq rl r.rd r.rs1) else none)
  else if r.f7 / 4 = 3 then some (.sc dbl aq rl r.rd r.rs1 r.rs2)
  else (rvAmoOf (r.f7 / 4)).map fun k => .amo k dbl aq rl r.rd r.rs1 r.rs2

/-- SYSTEM: Zicsr, ecall, ebreak and the supervisor instructions. -/
def decodeSystem (w : RWord) (r : RFields) : Option Rv :=
  let n := w.extractLsb' 20 12
  match r.f3 with
  | 0 =>
    if w = 0x00000073#32 then some .ecall
    else if w = 0x00100073#32 then some .ebreak
    else if w = 0x10200073#32 then some .sret
    else if w = 0x10500073#32 then some .wfi
    else if r.f7 = 9 ∧ r.rd = 0 then some (.sfenceVma r.rs1 r.rs2)
    else none
  | 1 => some (.csr .rw false r.rd r.rs1 n)
  | 2 => some (.csr .rs false r.rd r.rs1 n)
  | 3 => some (.csr .rc false r.rd r.rs1 n)
  | 5 => some (.csr .rw true r.rd r.rs1 n)
  | 6 => some (.csr .rs true r.rd r.rs1 n)
  | 7 => some (.csr .rc true r.rd r.rs1 n)
  | _ => none

/-- The RISC-V instruction of a reel word, by its major opcode. -/
def decodeRv (w : RWord) (r : RFields) (opc : Nat) : Option Rv :=
  match opc with
  | 0x37 => some (.lui r.rd (w.extractLsb' 12 20))
  | 0x17 => some (.auipc r.rd (w.extractLsb' 12 20))
  | 0x6F => some (.jal r.rd (w.extractLsb' 31 1 ++ w.extractLsb' 12 8 ++ w.extractLsb' 20 1 ++ w.extractLsb' 21 10))
  | 0x67 => if r.f3 = 0 then some (.jalr r.rd r.rs1 (w.extractLsb' 20 12)) else none
  | 0x63 => decodeBranch w r
  | 0x03 => decodeLoad w r
  | 0x23 => decodeStore w r
  | 0x13 => decodeOpImm w r
  | 0x1B => decodeOpImmW w r
  | 0x33 => (rvOpOf r.f7 r.f3).map fun k => .op k r.rd r.rs1 r.rs2
  | 0x3B => (rvOpWOf r.f7 r.f3).map fun k => .opW k r.rd r.rs1 r.rs2
  | 0x0F =>
    match r.f3 with
    | 0 => some (.fence (w.extractLsb' 28 4) (w.extractLsb' 24 4) (w.extractLsb' 20 4) r.rd r.rs1)
    | 1 => some (.fenceI r.rd r.rs1 (w.extractLsb' 20 12))
    | _ => none
  | 0x2F => decodeAmo w r
  | 0x73 => decodeSystem w r
  | _ => none

/-- The instruction of a reel word, or none where it is illegal (R36, R37). -/
def decodeReel (w : RWord) : Option Instr :=
  let r := rFields w
  let opc := (w.extractLsb' 0 7).toNat
  if opc = 0x0B then decodeCustom0 r
  else if opc = 0x2B then decodeCustom1 r
  else if opc = 0x5B then decodeCustom2 r
  else if opc = 0x7B then decodeCustom3 r
  else (decodeRv w r opc).map .riscVInstruction

/-- An R-type word. -/
def rWord (f7 : BitVec 7) (rs2 rs1 : BitVec 5) (f3 : BitVec 3) (rd : BitVec 5) (opc : BitVec 7) : RWord :=
  f7 ++ rs2 ++ rs1 ++ f3 ++ rd ++ opc

/-- An I-type word. -/
def iWord (imm : BitVec 12) (rs1 : BitVec 5) (f3 : BitVec 3) (rd : BitVec 5) (opc : BitVec 7) : RWord :=
  imm ++ rs1 ++ f3 ++ rd ++ opc

/-- The word of a RISC-V instruction. -/
def encodeRv : Rv → RWord
  | .lui rd imm => imm ++ rd ++ 0x37#7
  | .auipc rd imm => imm ++ rd ++ 0x17#7
  | .jal rd imm =>
    imm.extractLsb' 19 1 ++ imm.extractLsb' 0 10 ++ imm.extractLsb' 10 1 ++ imm.extractLsb' 11 8 ++ rd ++ 0x6F#7
  | .jalr rd rs1 imm => iWord imm rs1 0 rd 0x67
  | .branch k rs1 rs2 imm =>
    let f3 : BitVec 3 := match k with | .beq => 0 | .bne => 1 | .blt => 4 | .bge => 5 | .bltu => 6 | .bgeu => 7
    imm.extractLsb' 11 1 ++ imm.extractLsb' 4 6 ++ rs2 ++ rs1 ++ f3 ++ imm.extractLsb' 0 4 ++
      imm.extractLsb' 10 1 ++ 0x63#7
  | .load k rd rs1 imm =>
    iWord imm rs1 (match k with | .b => 0 | .h => 1 | .w => 2 | .d => 3 | .bu => 4 | .hu => 5 | .wu => 6) rd 0x03
  | .store k rs1 rs2 imm =>
    let f3 : BitVec 3 := match k with | .b => 0 | .h => 1 | .w => 2 | .d => 3
    imm.extractLsb' 5 7 ++ rs2 ++ rs1 ++ f3 ++ imm.extractLsb' 0 5 ++ 0x23#7
  | .opImm k rd rs1 imm =>
    iWord imm rs1 (match k with | .addi => 0 | .slti => 2 | .sltiu => 3 | .xori => 4 | .ori => 6 | .andi => 7) rd 0x13
  | .shImm k rd rs1 sh =>
    let top : BitVec 6 := match k with | .sra => 0x10 | _ => 0
    iWord (top ++ sh) rs1 (match k with | .sll => 1 | _ => 5) rd 0x13
  | .addiw rd rs1 imm => iWord imm rs1 0 rd 0x1B
  | .shImmW k rd rs1 sh =>
    rWord (match k with | .sra => 0x20 | _ => 0) sh rs1 (match k with | .sll => 1 | _ => 5) rd 0x1B
  | .op k rd rs1 rs2 =>
    rWord (BitVec.ofNat 7 (rvOpCode k).1) rs2 rs1 (BitVec.ofNat 3 (rvOpCode k).2) rd 0x33
  | .opW k rd rs1 rs2 =>
    rWord (BitVec.ofNat 7 (rvOpWCode k).1) rs2 rs1 (BitVec.ofNat 3 (rvOpWCode k).2) rd 0x3B
  | .fence fm pred succ rd rs1 => iWord (fm ++ pred ++ succ) rs1 0 rd 0x0F
  | .fenceI rd rs1 imm => iWord imm rs1 1 rd 0x0F
  | .ecall => 0x00000073
  | .ebreak => 0x00100073
  | .sret => 0x10200073
  | .wfi => 0x10500073
  | .sfenceVma rs1 rs2 => rWord 9 rs2 rs1 0 0 0x73
  | .csr k imm rd rs1 n =>
    let f2 : BitVec 2 := match k with | .rw => 1 | .rs => 2 | .rc => 3
    iWord n rs1 (BitVec.ofBool imm ++ f2) rd 0x73
  | .lr dbl aq rl rd rs1 =>
    rWord (2#5 ++ BitVec.ofBool aq ++ BitVec.ofBool rl) 0 rs1 (1#2 ++ BitVec.ofBool dbl) rd 0x2F
  | .sc dbl aq rl rd rs1 rs2 =>
    rWord (3#5 ++ BitVec.ofBool aq ++ BitVec.ofBool rl) rs2 rs1 (1#2 ++ BitVec.ofBool dbl) rd 0x2F
  | .amo k dbl aq rl rd rs1 rs2 =>
    rWord (BitVec.ofNat 5 (rvAmoCode k) ++ BitVec.ofBool aq ++ BitVec.ofBool rl) rs2 rs1
      (1#2 ++ BitVec.ofBool dbl) rd 0x2F

/-- The word of an instruction of the reel (Table 2-6). -/
def encodeReel : Instr → Option RWord
  | .kiteBridle rd rs1 rs2 => some (rWord 0 rs2 rs1 0 rd 0x0B)
  | .kiteFly rd rs1 rs2 => some (rWord 0 rs2 rs1 1 rd 0x0B)
  | .kiteWait rd rs1 rs2 => some (rWord 0 rs2 rs1 2 rd 0x0B)
  | .kiteKill rd rs1 => some (rWord 0 0 rs1 3 rd 0x0B)
  | .kiteRole rd rs1 rs2 => some (rWord 0 rs2 rs1 4 rd 0x0B)
  | .kiteStat rd rs1 => some (rWord 0 0 rs1 5 rd 0x0B)
  | .kiteTint rd rs1 rs2 => some (rWord 0 rs2 rs1 6 rd 0x0B)
  | .kiteMvl rd => some (rWord 0 0 0 7 rd 0x0B)
  | .qPush q rs1 => some (rWord (0#4 ++ q) 0 rs1 0 0 0x2B)
  | .qPop q rd => some (rWord (0#4 ++ q) 0 0 1 rd 0x2B)
  | .qPeek q rd => some (rWord (0#4 ++ q) 0 0 2 rd 0x2B)
  | .ePush e rd rs1 => some (rWord (0#4 ++ e) 0 rs1 3 rd 0x2B)
  | .ePop e rd rs1 => some (rWord (0#4 ++ e) 0 rs1 4 rd 0x2B)
  | .eStat e rd => some (rWord (0#4 ++ e) 0 0 5 rd 0x2B)
  | .reelSleepu rs1 => some (rWord 0 0 rs1 6 0 0x2B)
  | .cyc rd => some (rWord 0 0 0 7 rd 0x2B)
  | .hypOpen rd rs1 => some (rWord 0 0 rs1 0 rd 0x5B)
  | .hypFix rd rs1 => some (rWord 0 0 rs1 1 rd 0x5B)
  | .hypBleach rd rs1 => some (rWord 0 0 rs1 2 rd 0x5B)
  | .hypStat rd rs1 => some (rWord 0 0 rs1 3 rd 0x5B)
  | .hypEnter rd rs1 => some (rWord 0 0 rs1 4 rd 0x5B)
  | .fbarArrive rd rs1 rs2 => some (rWord 0 rs2 rs1 0 rd 0x7B)
  | .fbarWait rd rs1 rs2 => some (rWord 0 rs2 rs1 1 rd 0x7B)
  | .errPop rd rs1 => some (rWord 0 0 rs1 2 rd 0x7B)
  | .slotAdmit rd rs1 rs2 => some (rWord 0 rs2 rs1 3 rd 0x7B)
  | .slotRetire rd rs1 => some (rWord 0 0 rs1 4 rd 0x7B)
  | .gpRd rd rs1 => some (rWord 0 0 rs1 5 rd 0x7B)
  | .ascentDone => some (rWord 0 0 0 6 0 0x7B)
  | .uevRet rd rs1 => some (rWord 0 0 rs1 7 rd 0x7B)
  | .riscVInstruction i => some (encodeRv i)
  | _ => none

/-- The words of an instruction, first word at the lowest address: W0, W1, W2 of a Carug word (R24), one
word of the reel; none for an event. -/
def encode (i : Instr) : List RWord :=
  match encodeKite i with
  | some w => [w.extractLsb' 0 32, w.extractLsb' 32 32, w.extractLsb' 64 32]
  | none =>
    match encodeReel i with
    | some w => [w]
    | none => []

/-- The instruction of a sequence of words: three words are a Carug word, one word is a reel word. -/
def decode (ws : List RWord) : Except Reject Instr :=
  match ws with
  | [w0, w1, w2] =>
    match decodeKite (w2 ++ w1 ++ w0) with
    | some i => .ok i
    | none => .error .illegalOp
  | [w] =>
    match decodeReel w with
    | some i => .ok i
    | none => .error .illegalInstruction
  | _ => .error .noSuchLength

/-- The instruction that the decoder reads from nbits bits w, numbered from the least significant bit of
the first word. -/
def decodeTableWord (nbits w : Nat) : Option Instr :=
  if nbits ≤ 32 then decodeReel (BitVec.ofNat 32 w) else decodeKite (BitVec.ofNat 96 w)

end Sys2Proof
end

