-- ==== Sys2Proof/Machine/KiteTypes.lean ====
section
/-!
DEFINITION. The state of a kite and of a reel (R49 to R52, R79, R85, R115, R130, R174, R181, R366, R369).
Open points: log 3 (DESIGN CHOICE, PRESUMED).
-/
namespace Sys2Proof.Machine

/-- The states of a kite context, Table 3-1. -/
inductive KState where | absent | landed | flying | waiting | parked | draining
  deriving DecidableEq, Repr, Inhabited

/-- The code of a kite state, Table 3-1. -/
def KState.code : KState → Nat
  | .absent => 0 | .landed => 1 | .flying => 2 | .waiting => 3 | .parked => 4 | .draining => 5

/-- What holds a WAITING kite or a waiting reel: the condition of R49 that has to clear. -/
inductive WaitOn where
  | none
  /-- a block fill of the buffer (R53) -/
  | fill (buf : Nat)
  /-- room in a queue (R101) -/
  | qpush (q : Nat)
  /-- an entry of a queue, for qpop and qbr (R101) -/
  | qpop (q : Nat)
  /-- room in a neighbour's port, 0 left, 1 right (R105) -/
  | tsend (d : Nat)
  /-- an entry of the kite's own port (R105) -/
  | trecv (t : Nat)
  /-- CYCLE at the target (R76, R77) -/
  | sleep (target : Nat)
  /-- an earlier arrival at the unit (R111) -/
  | barArrive (unit : Nat)
  /-- the phase of the latest arrival at the unit (R111) -/
  | barWait (unit : Nat)
  /-- the kite's matrix instructions, on one tile or all (R240) -/
  | mwait (acc : Option Nat)
  /-- the kite's matrix instructions and the engine commands on a tile (R226, R241) -/
  | tile (acc : Nat)
  /-- room at an engine port (R248) -/
  | epush (e : Nat)
  /-- the performing of the pusher's earlier stores at the scope of its command, at an engine port (R248, R310) -/
  | pushRelease (e scope : Nat)
  /-- a result of an engine port (R268) -/
  | epop (e : Nat)
  /-- earlier instructions that can set a flag (R87) -/
  | flags
  /-- the fix or bleach of a tint (R277, R289, R290) -/
  | tint (t : Nat)
  /-- a fix in progress of the view of an access (R284) -/
  | fixing (t : Nat)
  /-- the bleach of its region's tint, which a trap of the kite asked for (R277, R291) -/
  | rewind
  /-- the other participants of a tshape.flight (R227) -/
  | tshape (acc : Nat)
  /-- the completion of an AtomicOp on a host address (R93) -/
  | atomicOp (a : Nat)
  /-- the performing of earlier stores at a scope (R94, R102) -/
  | release
  /-- the performing of the reel's earlier stores, for fbar.arrive (R113) -/
  | fbar
  /-- kites landed or parked, with a deadline (R64) -/
  | kites (mask deadline : Nat)
  /-- the landing of killed kites (R65, R356) -/
  | landing (mask : Nat)
  /-- the crew's commands and stores at its end (R356) -/
  | crewDone
  /-- nothing more: what the reel waited for has ended with this result (R93, R289) -/
  | result (v : Word)
  deriving DecidableEq, Repr, Inhabited

/-- How a PARKED kite continues (R75, R71, R370): at its saved position, after it, or by resolving the
target of its call or qbr anew, an address or a slot of a buffer. -/
inductive Resume where | here | after | locate (a : Nat) | slot (buf i : Nat)
  deriving DecidableEq, Repr, Inhabited

/-- A vector register (R115, R141): its data, the type tag, the shape link, the blocks marked invalid, and
the scale and spare byte of each block. Bit j of `inval` set is validity bit j clear. -/
structure VReg where
  data  : Nat := 0
  tag   : Nat := 0
  link  : Option Nat := none
  inval : Nat := 0
  scale : Nat := 0
  spare : Nat := 0
  deriving DecidableEq, Repr, Inhabited

/-- A shape register (R174): the offsets of levels 1 to D, and the OPENIN and OPENOUT bits. -/
structure Shape where
  lv      : List (List Nat) := []
  openIn  : Nat := 0
  openOut : Nat := 0
  deriving DecidableEq, Repr, Inhabited

/-- A carry register (R181, Table 9-3). -/
structure Carry where
  value : Nat := 0
  opn   : Bool := false
  bad   : Bool := false
  count : Nat := 0
  deriving DecidableEq, Repr, Inhabited

/-- A block buffer (R52): the words of its slots, the 64-byte lines of it marked bad (R54); while it fills, the
physical addresses of its lines and the contents of those already read (R54); and whether a resumption could not
refill it yet (R78). -/
structure Buf where
  valid   : Bool := false
  filling : Bool := false
  base    : Nat := 0
  slots   : Nat := 0
  pas     : List Nat := []
  got     : Tab Nat := []
  words   : List CWord := []
  bad     : List Nat := []
  refill  : Bool := false
  deriving DecidableEq, Repr, Inhabited

/-- A stream binding (R214): address, byte stride or scale address, TY, XF and position. -/
structure Bind where
  addr : Nat := 0
  aux  : Word := 0
  ty   : Nat := 0
  xf   : Nat := 0
  pos  : Nat := 0
  deriving DecidableEq, Repr, Inhabited

/-- An open idempotent region (R290): its tint, the parent view, and the position of its regb. -/
structure Region where
  tint   : Nat := 0
  parent : Nat := 0
  cur    : Nat := 0
  idx    : Nat := 0
  deriving DecidableEq, Repr, Inhabited

/-- What a vector instruction captures when it issues (R119, R154): VL.LEN, the resolved FPCTL, SEED, the
guard bits, and its scalar operands. -/
structure VCtx where
  len   : Nat := 0
  rm    : Nat := 0
  ftz   : Bool := false
  sat   : Bool := false
  seed  : Word := 0
  guard : Nat := 0
  sb    : Word := 0
  sc    : Word := 0
  sc1   : Word := 0
  view  : Nat := 0
  deriving DecidableEq, Repr, Inhabited

/-- An arrival marker (R111): the unit, its phase, the count operand, the scope. -/
structure Marker where
  unit  : Nat := 0
  phase : Nat := 0
  count : Nat := 0
  scope : Nat := 0
  deriving DecidableEq, Repr, Inhabited

/-- A byte that a vector load reads: its machine address, or offset of a space, with CL and MINRD of its page. -/
structure LByte where
  a     : Nat := 0
  cl    : Nat := 0
  minrd : Nat := 0
  deriving DecidableEq, Repr, Inhabited

/-- An element that a vector load reads: its index, its address, its bytes, and whether it becomes valid. -/
structure LElem where
  i     : Nat := 0
  va    : Nat := 0
  bytes : List LByte := []
  ok    : Bool := true
  deriving DecidableEq, Repr, Inhabited

/-- A vector read whose checks have passed and whose data is under way (R300, R364): its space, its hint, the elements
that it reads, and what an nshld read of them as it made its checks. -/
structure HeldLoad where
  space : Nat := 0
  rd    : Nat := 0
  elems : List LElem := []
  was   : List Nat := []
  deriving DecidableEq, Repr, Inhabited

/-- An entry of a kite's vector queue (R123): an instruction with its OP, fields and captured state, or an
arrival marker. A dispatched entry has performed and holds the flags that its completion delivers, but for a load or a
reader of bound registers whose data is under way, which holds what it reads. An spsrch that waits holds what its rows applied so far give its
destinations (R271). -/
structure VqEntry where
  op         : Nat := 0
  f          : Fields := {}
  ctx        : VCtx := {}
  dispatched : Bool := true
  flags      : Nat := 0
  marker     : Option Marker := none
  load       : Option HeldLoad := none
  slots      : List (Nat × Nat) := []
  deriving DecidableEq, Repr, Inhabited

/-- A byte to write: address, value, and the bits of it that are written; a half-byte code write of vstb
covers one nibble (R212); and CL of the page (R320). -/
structure WByte where
  addr  : Nat := 0
  value : Nat := 0
  mask  : Nat := 255
  cl    : Nat := 0
  deriving DecidableEq, Repr, Inhabited

/-- A store of the current strip that has not yet performed in full (R300): whether it is a scalar one, its space,
the bytes still to perform, the view and release it carries, and whether its data, of a bound register, is still under
way. -/
structure PendStore where
  scalar : Bool := false
  space  : Nat := 0
  bytes  : List WByte := []
  view   : Nat := 0
  rel    : Option Nat := none
  late   : Bool := false
  deriving DecidableEq, Repr, Inhabited

/-- A byte of a space as an access saw it: 0 global memory, by machine address. -/
structure SeenByte where
  space : Nat := 0
  addr  : Nat := 0
  value : Byte := 0
  deriving DecidableEq, Repr, Inhabited

/-- A release record (R305): the releasing core, its device, the scope. -/
structure RelRec where
  core  : Nat := 0
  dev   : Nat := 0
  scope : Nat := 0
  deriving DecidableEq, Repr, Inhabited

/-- A late trap of a kite that has still an instruction to complete (R364): the cause, FAULTVA, FAULTELT, and the page
request on which the kite would wait. -/
structure LateTrap where
  cause : Nat := 0
  va    : Word := 0
  elt   : Word := 0
  req   : Option Nat := none
  deriving DecidableEq, Repr, Inhabited

/-- A kite (Table 3-2, Table 4-2). Registers never written hold zero: a table lists those written. `repRun`
and `repStep` hold the step that a running rep captured, `req` the page request on which a kite parked in
its region waits (R341), `relNext` the scope of a fence whose release the next store carries (R305),
`killed` that the kite drains or has landed by a kill, which releases its tiles (R243), `reads` the release
records that the strip's loads and atomics met, which a fence.acq checks (R305), and `ahead` the bytes that vector
reads of the strip take from before or after another access of it (R213, R300), `mmRun` that an mmv stands between
two of its elements (R219), and `late` the late traps that wait for it, or for an AtomicOp, to complete (R364). A FLYING kite whose `resume` is
`after` has no instruction at its position yet: its next is still to be located (R53, R55). -/
structure Kite where
  st        : KState := .absent
  wait      : WaitOn := .none
  since     : Nat := 0
  s         : Tab Word := []
  v         : Tab VReg := []
  p         : Tab Nat := []
  h         : Tab Shape := []
  k         : Tab Carry := []
  buf0      : Buf := {}
  buf1      : Buf := {}
  cur       : Nat := 0
  idx       : Nat := 0
  role      : Nat := 0
  agecap    : Nat := 256
  waitCount : Nat := 0
  dispWait  : Nat := 0
  yielded   : Bool := false
  tintv     : Nat := 0
  region    : Option Region := none
  rm        : Nat := 0
  ftz       : Bool := false
  sat       : Bool := false
  fpflags   : Nat := 0
  scx       : Bool := false
  seed      : Word := 0
  faultva   : Word := 0
  faultelt  : Word := 0
  mvlChg    : Bool := false
  mvlb      : Nat := 0
  vlty      : Nat := 0
  vlen      : Nat := 0
  repAct    : Bool := false
  repDone   : Nat := 0
  repCount  : Nat := 0
  repRun    : Bool := false
  repStep   : Word := 0
  mmAct     : Bool := false
  mmIdx     : Nat := 0
  mmRun     : Bool := false
  late      : List LateTrap := []
  binds     : Tab Bind := []
  vq        : List VqEntry := []
  t0        : List Word := []
  t1        : List Word := []
  pend      : List PendStore := []
  reads     : List RelRec := []
  ahead     : List SeenByte := []
  relNext   : Option Nat := none
  acqDev    : Nat := 0
  acqSys    : Nat := 0
  arr       : Tab Nat := []
  cause     : Nat := 0
  resume    : Resume := .here
  req       : Option Nat := none
  killed    : Bool := false
  deriving DecidableEq, Repr, Inhabited

/-- A reel: the RISC-V state (R2, R355, R369), the user-event registers (R366), its view (R278), what it
waits for, and its outstanding barrier arrivals (R110). -/
structure Reel where
  x        : Tab Word := []
  pc       : Nat := 0
  sup      : Bool := false
  uev      : Nat := 0
  uevAct   : Bool := false
  uevCause : Nat := 0
  uevAddr  : Nat := 0
  uevAgent : Nat := 0
  uevEpc   : Nat := 0
  uevPark  : Bool := false
  spp      : Bool := false
  spie     : Bool := false
  sie      : Bool := false
  sum      : Bool := false
  mxr      : Bool := false
  stvec    : Word := 0
  sscratch : Word := 0
  sepc     : Word := 0
  scause   : Word := 0
  stval    : Word := 0
  view     : Nat := 0
  wait     : WaitOn := .none
  since    : Nat := 0
  acqDev   : Nat := 0
  acqSys   : Nat := 0
  relNext  : Option Nat := none
  arr      : Tab Nat := []
  deriving DecidableEq, Repr, Inhabited

end Sys2Proof.Machine
end

