-- ==== Sys2Proof/Machine/MemTypes.lean ====
section
/-!
DEFINITION. The state of the memory system (R279, R302, R305, R307, R316, R329, R337) and of the contexts
(R275, R328, R340, R360).
Open points: log 3 (DESIGN CHOICE, PRESUMED).
-/
namespace Sys2Proof.Machine

/-- A line of an L1 (R283, R316, R319): context, view, physical line, re-reference value, the CYCLE at which the
guest line that filled it was filled (R307), 128 bytes. -/
structure L1Line where
  ctx  : Nat := 0
  view : Nat := 0
  line : Nat := 0
  rrpv : Nat := 0
  fill : Nat := 0
  data : Nat := 0
  deriving DecidableEq, Repr, Inhabited

/-- A store in a core's write path (R302): the bytes it writes, all in one line; the context and view; its
scope as a release-carrying write, if it is one (R305); and its place among the stores that have reached the guest
lines of its die on their way to the home, 0 while it has not (R307). -/
structure WpStore where
  ctx     : Nat := 0
  view    : Nat := 0
  bytes   : List WByte := []
  rel     : Option Nat := none
  atDie   : Nat := 0
  reel    : Bool := false
  deriving DecidableEq, Repr, Inhabited

/-- A TLB entry (R329, R332): ASID, GEN, the first virtual page, the number of pages, and the leaf. -/
structure TlbEntry where
  asid  : Nat := 0
  gen   : Nat := 0
  vpn   : Nat := 0
  pages : Nat := 1
  leaf  : Nat := 0
  deriving DecidableEq, Repr, Inhabited

/-- A walk-cache entry (R329): ASID, GEN, the level and index path of a table entry, and the entry. -/
structure WalkEntry where
  asid  : Nat := 0
  gen   : Nat := 0
  level : Nat := 1
  path  : Nat := 0
  entry : Nat := 0
  deriving DecidableEq, Repr, Inhabited

/-- A line of an instruction cache (R54): a 64-byte line by physical address. -/
structure IcLine where
  line : Nat := 0
  data : Nat := 0
  deriving DecidableEq, Repr, Inhabited

/-- An entry of the record cache (R255), most recently used first: address, context, 64 bytes. -/
structure RecEntry where
  addr : Nat := 0
  ctx  : Nat := 0
  data : Nat := 0
  deriving DecidableEq, Repr, Inhabited

/-- The parts of a core that stay with it when crews come and go: the defect map with the lane groups retired since
module reset (R22, R223, R379), the L1, the write path, the translation caches, the instruction cache, the record
cache (R255), and the issue pointers (R56). -/
structure Core where
  laneBad  : Nat := 0
  colBad   : Nat := 0
  bad      : Bool := false
  l1       : Tab L1Line := []
  wp       : List WpStore := []
  tlb      : List TlbEntry := []
  wc       : List WalkEntry := []
  ic       : List IcLine := []
  rcache   : List RecEntry := []
  rrS      : Tab Nat := []
  rrV      : Tab Nat := []
  deriving DecidableEq, Repr, Inhabited

/-- The reservation of a reel's LR (R303): the reserved bytes. -/
structure Resv where
  addr : Nat := 0
  n    : Nat := 0
  deriving DecidableEq, Repr, Inhabited

/-- A version of a line (R279): context, tint, line, byte mask and bytes. -/
structure Version where
  ctx  : Nat := 0
  tint : Nat := 0
  line : Nat := 0
  mask : Nat := 0
  data : Nat := 0
  deriving DecidableEq, Repr, Inhabited

/-- A line held in the L2 of a die away from its home (R307, R308): the line, the CYCLE of its fill, and
its bytes. -/
structure Guest where
  line : Nat := 0
  fill : Nat := 0
  data : Nat := 0
  deriving DecidableEq, Repr, Inhabited

/-- A release record of a scratchpad line (R305): its home (Table 10-1) as the space, the owner and the
line. -/
structure SpRel where
  space : Nat := 0
  owner : Nat := 0
  line  : Nat := 0
  rr    : RelRec := {}
  deriving DecidableEq, Repr, Inhabited

/-- The states of a tint, Table 13-1. -/
inductive TState where | free | live | fixing | bleaching | retired
  deriving DecidableEq, Repr, Inhabited

/-- An entry of a tint table (R275 to R277, R284): state, parent, depth, the forwarding of a fixed tint, and whether
it was fixed (Table 13-7). -/
structure Tint where
  st     : TState := .free
  parent : Nat := 0
  depth  : Nat := 0
  fwd    : Option Nat := none
  fixed  : Bool := false
  deriving DecidableEq, Repr, Inhabited

/-- Who asked for a fix or a bleach (R289 to R291): an agent of a core, whether it is the bleach of a kite's rewind,
whether it has started, and how many tints it discards. -/
structure TintOp where
  bleach  : Bool := false
  rewind  : Bool := false
  tint    : Nat := 0
  core    : Nat := 0
  agent   : Nat := 0
  started : Bool := false
  count   : Nat := 0
  deriving DecidableEq, Repr, Inhabited

/-- A batch slot (R360): its generation, whether it is active, and its pages. -/
structure BatchSlot where
  gen    : Nat := 0
  active : Bool := false
  pages  : List Nat := []
  deriving DecidableEq, Repr, Inhabited

/-- A page draining after its slot's retirement (R362): the page, its slot and generation. -/
structure DrainPage where
  page : Nat := 0
  slot : Nat := 0
  gen  : Nat := 0
  deriving DecidableEq, Repr, Inhabited

/-- An open page request (R340): Table 16-6, whether it has reached the request ring (R384), and whether
it was answered NO_FRAME (R342). -/
structure PageReq where
  id      : Nat := 0
  va      : Nat := 0
  time    : Nat := 0
  agent   : Nat := 0
  core    : Nat := 0
  ctx     : Nat := 0
  kind    : Nat := 0
  span    : Bool := false
  posted  : Bool := false
  noFrame : Bool := false
  deriving DecidableEq, Repr, Inhabited

/-- A context (Table 16-1, R275, R322, R360): its entry, its tint table with the operations that wait or
are in progress on it, its batch slots and pool, and its selector. -/
structure Context where
  vstbase  : Nat := 0
  root     : Nat := 0
  gen      : Nat := 0
  asid     : Nat := 0
  ft       : Bool := false
  st       : Nat := 0
  valid    : Bool := false
  tints    : Tab Tint := []
  tops     : List TintOp := []
  slotPool : Nat := 0
  slotCnt  : Nat := 0
  slots    : Tab BatchSlot := []
  drain    : List DrainPage := []
  selector : Nat := 512
  deriving DecidableEq, Repr, Inhabited

end Sys2Proof.Machine
end

