-- ==== Sys2Proof/Machine/CrewTypes.lean ====
section
/-!
DEFINITION. The state of the matrix array (R221), of the engines (R245 to R274), and of a crew (R343).
Open points: log 3 (DESIGN CHOICE, PRESUMED).
-/
namespace Sys2Proof.Machine

/-- An entry of the tile table (R221, R224): owner, M, N, accumulator type (2 S32, 13 F32), whether it is
the even half of a pair, and the grid of a flight tile (GR 0: none). -/
structure Tile where
  owner : Option Nat := none
  m     : Nat := 0
  n     : Nat := 0
  at_   : Nat := 0
  pair  : Bool := false
  gr    : Nat := 0
  gc    : Nat := 0
  pr    : Nat := 0
  pc    : Nat := 0
  deriving DecidableEq, Repr, Inhabited

/-- An accumulator (R221, R399): its elements by storage position, and the positions marked invalid. -/
structure Acc where
  el    : Tab Nat := []
  inval : Nat := 0
  deriving DecidableEq, Repr, Inhabited

/-- A matrix instruction in a tile queue (R231, R233, R237 to R239): its OP and fields, its owner, and what it
captured: the records and view of an mma, the state of R119 and R154 of a move. For an mma the next K block,
the flags so far, whether NOACC has cleared the tile, whether it has stopped on a fault; and of its shared
lines (R236), whether its core fetches them for itself, whether the next block's have been delivered, and the
tick at which its wait for them began; and how many strips of its owner have closed since it issued (R301). -/
structure MatOp where
  op      : Nat := 0x92
  f       : Fields := {}
  owner   : Nat := 0
  ctx     : VCtx := {}
  l       : Nat := 0
  r       : Nat := 0
  view    : Nat := 0
  kb      : Nat := 0
  flags   : Nat := 0
  cleared : Bool := false
  stopped : Bool := false
  alone   : Bool := false
  shared  : Bool := false
  since   : Nat := 0
  age     : Nat := 0
  deriving DecidableEq, Repr, Inhabited

/-- The sampler's running state (R264, R265): the state block's fields, those of F32 as bits. -/
structure Samp where
  m       : Nat := 0
  s       : Nat := 0
  key     : Nat := 0
  tok     : Nat := 0
  zt      : Nat := 0
  zd      : Nat := 0
  penaddr : Nat := 0
  dtok    : Nat := 0
  q       : Nat := 0
  seed    : Nat := 0
  deriving DecidableEq, Repr, Inhabited

/-- A page of the slot window captured at a push (R361): the slot, its generation, the page number within
the slot, and the pool page. -/
structure SlotPage where
  slot : Nat := 0
  gen  : Nat := 0
  no   : Nat := 0
  page : Nat := 0
  deriving DecidableEq, Repr, Inhabited

/-- A reservation of a DRAM bank by a ROWS command (R326): its logical channel, the bank, and the tick at which it
began. -/
structure BankHold where
  ch   : Nat := 0
  bank : Nat := 0
  at_  : Nat := 0
  deriving DecidableEq, Repr, Inhabited

/-- A byte that a command accesses: of an on-chip space of a core, or of global memory. -/
inductive ELoc where
  | sp (owner space a : Nat)
  | mem (a : Nat)
  deriving DecidableEq, Repr

/-- What a unit writes in one aligned 8-byte word (R310): where its bytes come from, or the bytes themselves, and
where they go. -/
structure Piece where
  src : List ELoc := []
  val : Option (List Byte) := none
  dst : List ELoc := []
  deriving DecidableEq, Repr, Inhabited

/-- A command at an engine port (R246 to R262): its words, pusher and view; its promise P, the slack P − E, the
latency L, c, the service U × c and the tick at which its service ends in the model of R259; the gondola engine of
an e2 command; its records, the result of R255; the pages of the slot window that it captured; whether it has
started and whether its serving is over; units and pages performed; what its result reports; the counter
increments made; the lines it wrote; the old bytes that an overlapping LIN keeps and the free choices it draws
from (R263, log 2); the banks that a ROWS reserves (R326); the pieces of its units that have still to perform (R310);
and the sampler's state with the logits as the tile stood at the push (R241). -/
structure Cmd where
  id       : Nat := 0
  d        : List Word := []
  agent    : Nat := 0
  view     : Nat := 0
  promise  : Nat := 0
  slack    : Nat := 0
  lat      : Nat := 0
  per      : Nat := 0
  svc      : Nat := 0
  svcEnd   : Nat := 0
  engine   : Nat := 0
  src      : Nat := 0
  dst      : Nat := 0
  slots    : List SlotPage := []
  started  : Bool := false
  finished : Bool := false
  units    : Nat := 0
  pages    : List Nat := []
  stat     : Nat := 0
  aux      : Nat := 0
  acpt     : Bool := false
  missed   : Bool := false
  counted  : Nat := 0
  wrote    : List Nat := []
  snap     : List Byte := []
  draw     : Nat := 0
  banks    : List BankHold := []
  todo     : List Piece := []
  logits   : List (Nat × Bool) := []
  samp     : Samp := {}
  deriving DecidableEq, Repr, Inhabited

/-- A result (Table 12-4) and the lines that its command wrote, which its pop acquires (R311). -/
structure Result where
  w     : List Word := []
  lines : List Nat := []
  deriving DecidableEq, Repr, Inhabited

/-- An engine port (R245, R247): commands in serving order, and results in the order of completion. -/
structure Port where
  cmds : List Cmd := []
  res  : List Result := []
  deriving DecidableEq, Repr, Inhabited

/-- A CANCEL that has been pushed and not yet acted (R262). -/
structure CancelTok where
  port  : Nat := 0
  agent : Nat := 0
  tag   : Nat := 0
  deriving DecidableEq, Repr, Inhabited

/-- A posted event (R365): cause, the address reported, the agent (16 the reel), and whether it is the event
of the kite's own parking. -/
structure Event where
  cause : Nat := 0
  va    : Word := 0
  agent : Nat := 0
  park  : Bool := false
  deriving DecidableEq, Repr, Inhabited

/-- A crew (R343, R355, Table 18-9): the reel and kites of one core and what they share. -/
structure Crew where
  ctx     : Nat := 0
  flight  : Nat := 0
  index   : Nat := 0
  n       : Nat := 0
  smode   : Bool := false
  mvlb    : Nat := 0
  colGood : Nat := 0
  kites   : Tab Kite := []
  reel    : Reel := {}
  q       : Tab (List Word) := []
  acc     : Tab Acc := []
  tiles   : Tab Tile := []
  tq      : Tab (List MatOp) := []
  recs    : Tab Nat := []
  scratch : List (Nat × Byte) := []
  lanes   : List (Nat × Byte) := []
  ports   : Tab Port := []
  nextCmd : Nat := 0
  rcache  : List RecEntry := []
  ctr     : Tab Nat := []
  par     : Bool := false
  events  : List Event := []
  preempt : Bool := false
  cancels : List CancelTok := []
  ending  : Bool := false
  ended   : Bool := false
  endCause : Option Nat := none
  endTick : Nat := 0
  deriving DecidableEq, Repr, Inhabited

end Sys2Proof.Machine
end

