-- ==== Sys2Proof/Machine/HostTypes.lean ====
section
/-!
DEFINITION. The state of flights, queues, ascents, the module's registers and what it has sent to the
host (R343 to R358, R378, R382 to R392).
Open points: log 3 (DESIGN CHOICE, PRESUMED).
-/
namespace Sys2Proof.Machine

/-- A barrier unit (R109, R110, R112): phase, expected count, arrivals of the phase with the core and the
scope of each, and the arrivals of each completed phase for its waiters. -/
structure BarUnit where
  phase : Nat := 0
  n     : Nat := 0
  arr   : List (Nat × Nat) := []
  past  : Tab (List (Nat × Nat)) := []
  deriving DecidableEq, Repr, Inhabited

/-- A participant of a tshape.flight (R227): core, kite, the local grant or refusal, and its request. -/
structure TsPart where
  core : Nat := 0
  kite : Nat := 0
  pr   : Nat := 0
  pc   : Nat := 0
  req  : Nat := 0
  xf   : Nat := 0
  ty   : Nat := 0
  m    : Nat := 0
  n    : Nat := 0
  why  : Nat := 0
  deriving DecidableEq, Repr, Inhabited

/-- The answer of a finished tshape.flight to one of its participants. -/
structure TsDone where
  core : Nat := 0
  kite : Nat := 0
  word : Word := 0
  deriving DecidableEq, Repr, Inhabited

/-- Where a flight stands (R353, R372, R375). -/
inductive FState where | placed | stopping | saved
  deriving DecidableEq, Repr, Inhabited

/-- A flight (R353, R374): its ascent and index, its cluster, cores in crew order, the cluster offset and
contents of its shared memory, its barrier units, the arrivals and answers of tshape.flight by accumulator,
its crews while they are switched out, what is kept of the crews that have ended (R397), the ticks of the switch-out
request and of its end, and whether a lane group of one of its cores has been retired (R380). -/
structure Flight where
  ascent  : Nat := 0
  index   : Nat := 0
  st      : FState := .placed
  cluster : Nat := 0
  cores   : List Nat := []
  variant : Nat := 0
  offset  : Nat := 0
  shared  : List (Nat × Byte) := []
  bars    : Tab BarUnit := []
  tsArr   : Tab (List TsPart) := []
  tsDone  : Tab (List TsDone) := []
  saved   : List Crew := []
  ended   : List Crew := []
  since   : Nat := 0
  savedAt : Nat := 0
  relane  : Bool := false
  deriving DecidableEq, Repr, Inhabited

/-- An ascent in progress or waiting (R343, R348, R356): the launch record's fields, its queue and record,
its node number in a graph, how many flights have been placed and have ended, and the cause with which a
reel event ended one of its crews. -/
structure Ascent where
  queue    : Nat := 0
  rec_     : Nat := 0
  node     : Option Nat := none
  ctx      : Nat := 0
  image    : Nat := 0
  chipsp   : Nat := 0
  doneaddr : Nat := 0
  doneval  : Word := 0
  arg      : Word := 0
  nflt     : Nat := 0
  irq      : Bool := false
  placed   : Nat := 0
  finished : Nat := 0
  aborted  : Bool := false
  endCause : Option Nat := none
  endTick  : Nat := 0
  endCore  : Nat := 0
  deriving DecidableEq, Repr, Inhabited

/-- A record in progress (R349, R358): its number in the ring, the words of the record, those of its
nodes, whether it has started, which nodes have started and completed, and whether ABORT ends it (R357). -/
structure Rec where
  no      : Nat := 0
  w       : Nat := 0
  nodes   : List Nat := []
  started : Bool := false
  nstart  : List Nat := []
  ndone   : List Nat := []
  aborted : Bool := false
  deriving DecidableEq, Repr, Inhabited

/-- A queue (Table 17-2, R346, R347, R349, R359): descriptor, indices, the limit latched at its binding,
graph parameters, records in progress, since when it has been pending, and its slot. -/
structure Queue where
  ring    : Nat := 0
  ctx     : Nat := 0
  log2n   : Nat := 0
  cls     : Nat := 0
  err     : Bool := false
  valid   : Bool := false
  wridx   : Nat := 0
  rdidx   : Nat := 0
  limit   : Nat := 0
  stuck   : Bool := false
  gp      : Tab Word := []
  recs    : List Rec := []
  since   : Nat := 0
  deriving DecidableEq, Repr, Inhabited

/-- A mapper slot (R351, R353): the queue it holds, the tick of the binding or of the current quantum,
whether the queue is being switched out of it and for which queue, and the cluster of its last placement. -/
structure MSlot where
  queue   : Option Nat := none
  bound   : Nat := 0
  quantum : Nat := 0
  leaving : Bool := false
  next    : Option Nat := none
  last    : Option Nat := none
  deriving DecidableEq, Repr, Inhabited

/-- The chip scratchpad allotment of an ascent on a die (R201, R203): its size and contents. -/
structure Chip where
  ascent : Nat := 0
  die    : Nat := 0
  size   : Nat := 0
  data   : List (Nat × Byte) := []
  deriving DecidableEq, Repr, Inhabited

/-- A die: its CYCLE (R20), its error queue of 32-byte reports (R378), and its guest lines (R307). -/
structure Die where
  cycle  : Nat := 0
  errq   : List Nat := []
  guests : List Guest := []
  deriving DecidableEq, Repr, Inhabited

/-- The span-table copy of a context in a cluster (R337). -/
structure SpanCopy where
  cluster : Nat := 0
  ctx     : Nat := 0
  entries : Tab Nat := []
  deriving DecidableEq, Repr, Inhabited

/-- A ring to the host (Table 19-3). -/
structure Ring where
  base  : Nat := 0
  log2n : Nat := 0
  wr    : Nat := 0
  rd    : Nat := 0
  lost  : Nat := 0
  en    : Bool := false
  deriving DecidableEq, Repr, Inhabited

/-- A Skein port (Table 19-4). -/
structure SkPort where
  peer  : Nat := 0
  lanes : Nat := 0
  train : Bool := false
  ready : Bool := false
  deriving DecidableEq, Repr, Inhabited

/-- The mailbox of the DMP (R390): arguments, BUSY, RESULT, and the command in progress. -/
structure Mailbox where
  arg0   : Nat := 0
  arg1   : Nat := 0
  busy   : Bool := false
  result : Nat := 0
  code   : Nat := 0
  deriving DecidableEq, Repr, Inhabited

/-- The invalidation registers (Tables 16-4, 16-5). -/
structure Tlbinv where
  vapg  : Nat := 0
  first : Nat := 0
  busy  : Bool := false
  kind  : Nat := 0
  count : Nat := 0
  gen   : Nat := 0
  asid  : Nat := 0
  ctx   : Nat := 0
  deriving DecidableEq, Repr, Inhabited

/-- An entry of the replay-capture ring (R391): its kind, the CYCLE, and the values recorded. -/
structure Replay where
  kind : Nat := 0
  time : Nat := 0
  vals : List Nat := []
  deriving DecidableEq, Repr, Inhabited

/-- The module's own registers and the DMP (R324, R330, R353, R382 to R392): among them what its defect map says of HBM,
the channel that the spare serves and whether a second one has failed, whether the DMP waits in
its ROM for a LOAD_FW (R389), the value that the latest read from outside returned, the slot that last placed
a flight in each class, the size of the BAR 4 window (R381), and the lengths of the image files (R48) by context and
address, as their loader knows them. -/
structure Module where
  dmp      : Bool := false
  sched    : Bool := false
  lpddr    : Bool := false
  hbm      : Bool := false
  hbmFail  : Bool := false
  fwFail   : Bool := false
  clus     : Nat := 0
  devnum   : Nat := 0
  winbase  : Nat := 0
  mhz      : Nat := 3300
  watts    : Nat := 0
  inlet    : Nat := 0
  throttle : Nat := 0
  stopped  : Bool := false
  tlbinv   : Tlbinv := {}
  prring   : Ring := {}
  evring   : Ring := {}
  sk       : Tab SkPort := []
  route    : Tab Nat := []
  mbox     : Mailbox := {}
  spare    : Option Nat := none
  hbmBad   : Bool := false
  fwWait   : Bool := false
  hostOut  : Nat := 0
  rrSlot   : Tab Nat := []
  barLog2  : Nat := 30
  files    : Tab Nat := []
  meas     : List (List Byte) := []
  repMask  : Nat := 0
  replay   : List Replay := []
  msix     : Tab Nat := []
  nextReq  : Nat := 0
  reqs     : List PageReq := []
  deriving DecidableEq, Repr, Inhabited

end Sys2Proof.Machine
end

