-- ==== Sys2Proof/Machine/State.lean ====
section
/-!
DEFINITION. The state of the machine, its reasons to stop, and the state after module reset.
-/
namespace Sys2Proof.Machine

/-- The machine itself never stops: every error of a program is a trap, an exception, a status or a
report, which are next states. No constructor; safe. -/
inductive Fault where
  deriving DecidableEq, Repr

/-- Why the model has no meaning for an instruction. -/
inductive Refusal where
  /-- Raised by `exec` for an instruction that the model gives no meaning; safe: the run stops. -/
  | notModelled (mnemonic : String)
  deriving DecidableEq, Repr

/-- The agent whose instruction `exec` runs: the reel of a core, or a kite. -/
inductive Agent where
  | reel (core : Nat)
  | kite (core k : Nat)
  deriving DecidableEq, Repr, Inhabited

/-- What acts next (log 1): the manual leaves the order of unordered agents and of the machine's own
units open (R13), so it is data of the state. -/
inductive Move where
  /-- an event row of the opcode table, with its arguments -/
  | event (i : Instr) (a : EvArgs)
  /-- a kite takes its next instruction; `hold`: it performs later, or in part, where the rules let it (R123, R219,
  R271, R300) -/
  | kite (core k : Nat) (hold : Bool)
  /-- a reel takes its next instruction -/
  | reel (core : Nat)
  /-- a tick of CYCLE on both dies -/
  | tick
  /-- a tick on one die, which keeps within 2 of the other (R20) -/
  | tickDie (die : Nat)
  /-- a clock of a core's issue stage: the choice of R56 picks the kites that issue -/
  | clock (core : Nat)
  /-- line n of pending store i of a kite performs before its strip ends (R300) -/
  | storePerforms (core k i n : Nat)
  /-- vector reads of the strip take a byte of a space as it is now, or as pending store src − 1 writes it (R300) -/
  | readAhead (core k space a src : Nat)
  /-- a block fill reads line i of a buffer (R54) -/
  | fillLine (core k j i : Nat)
  /-- piece n of a command's units performs, at its home or, `near`, at the L2 of its die (R310, R312) -/
  | enginePiece (core port id n : Nat) (near : Bool)
  /-- a die drops a guest line (R307) -/
  | guestDrop (die i : Nat)
  /-- a TLB, walk-cache or instruction-cache entry leaves in the course of replacement (R329, R54) -/
  | tlbDrop (core i : Nat)
  | walkDrop (core i : Nat)
  | icDrop (core i : Nat)
  /-- a TLB forms an entry for the block of 2^k pages from `first` of the run of its entry i (R332) -/
  | tlbBlock (core i k first : Nat)
  /-- a miss of a context in a leader set of a memory-side cache (R322) -/
  | leaderMiss (ctx : Nat) (near : Bool)
  /-- host software or a peer changes a byte of its own memory, by canonical address (R330; log 33) -/
  | outside (a : Nat) (b : Byte)
  /-- the loader of the image at an address of a context knows the length of its file (R48; log 29) -/
  | file (ctx va n : Nat)
  /-- the host resizes BAR 4 (R381) -/
  | barSize (n : Nat)
  deriving DecidableEq, Repr, Inhabited

/-- The state of the LN-940. The first five fields are the model's own (logs 1 and 2): what acts next, the
agent whose instruction runs, whether it is held, the arguments of the event that runs, and the
number of free values drawn. The rest is the machine's. Memory is keyed by the canonical physical address:
this module's own [51:0], the channel-direct alias converted (R325), and 2^58 + PA for a peer's (R330). -/
structure State where
  moves   : List Move
  cur     : Agent
  hold    : Bool
  ev      : EvArgs
  draws   : Nat
  mem     : List Host.Cell
  vers    : List Version
  rels    : Tab RelRec
  sprels  : List SpRel
  resvs   : Tab Resv
  dies    : Tab Die
  cores   : Tab Core
  crews   : Tab Crew
  flights : Tab Flight
  ascents : Tab Ascent
  queues  : Tab Queue
  slots   : Tab MSlot
  ctxs    : Tab Context
  spans   : List SpanCopy
  chips   : List Chip
  module  : Module
  nextId  : Nat
  deriving DecidableEq, Repr, Inhabited

/-- The machine after module reset (R388): no context, queue, flight or crew, READY zero, CYCLE zero, no
byte of memory listed. Entries that a table does not list hold the default of their type, which is their
reset value: context entries and descriptors 0, tints FREE, units idle (Tables 16-1, 17-2, 19-1 to 19-4;
log 3 for the values that the manual does not give). -/
def State.reset : State :=
  { moves := [], cur := .reel 0, hold := false, ev := {}, draws := 0, mem := [], vers := [], rels := []
    sprels := [], resvs := [], dies := [], cores := [], crews := [], flights := [], ascents := [], queues := []
    slots := [], ctxs := [], spans := [], chips := [], module := {}, nextId := 0 }

/-! ## Reading -/

/-- The crew on a core; the empty crew where there is none. -/
def State.crew (s : State) (c : Nat) : Crew := s.crews.get c
/-- Whether a crew runs on a core. -/
def State.hasCrew (s : State) (c : Nat) : Bool := (s.crews.find c).isSome
/-- A kite of the crew on a core; ABSENT where there is none. -/
def State.kite (s : State) (c k : Nat) : Kite := (s.crew c).kites.get k
/-- The reel of the crew on a core. -/
def State.reelOf (s : State) (c : Nat) : Reel := (s.crew c).reel
/-- The physical core. -/
def State.core (s : State) (c : Nat) : Core := s.cores.get c
/-- A die. -/
def State.die (s : State) (d : Nat) : Die := s.dies.get d
/-- A context. -/
def State.ctx (s : State) (n : Nat) : Context := s.ctxs.get n
/-- A flight. -/
def State.flight (s : State) (n : Nat) : Flight := s.flights.get n
/-- The die of a core (R16). -/
def dieOf (c : Nat) : Nat := c / 96
/-- The cluster of a core (R16). -/
def clusterOf (c : Nat) : Nat := c / 16
/-- Whether the crew of a core is there and its flight is not being switched out (R372). -/
def State.crewRuns (s : State) (c : Nat) : Bool := s.hasCrew c && (s.flight (s.crew c).flight).st == .placed
/-- CYCLE as an agent of the core reads it (R20). -/
def State.cycle (s : State) (c : Nat) : Nat := (s.die (dieOf c)).cycle

/-! ## Updating -/

/-- The state with the crew of a core changed. -/
def State.modCrew (s : State) (c : Nat) (f : Crew → Crew) : State := { s with crews := s.crews.mod c f }
/-- The state with a kite changed. -/
def State.modKite (s : State) (c k : Nat) (f : Kite → Kite) : State :=
  s.modCrew c fun w => { w with kites := w.kites.mod k f }
/-- The state with a reel changed. -/
def State.modReel (s : State) (c : Nat) (f : Reel → Reel) : State :=
  s.modCrew c fun w => { w with reel := f w.reel }
/-- The state with a physical core changed. -/
def State.modCore (s : State) (c : Nat) (f : Core → Core) : State := { s with cores := s.cores.mod c f }
/-- The state with a die changed. -/
def State.modDie (s : State) (d : Nat) (f : Die → Die) : State := { s with dies := s.dies.mod d f }
/-- The state with a context changed. -/
def State.modCtx (s : State) (n : Nat) (f : Context → Context) : State := { s with ctxs := s.ctxs.mod n f }
/-- The state with a flight changed. -/
def State.modFlight (s : State) (n : Nat) (f : Flight → Flight) : State :=
  { s with flights := s.flights.mod n f }
/-- The state with an ascent changed. -/
def State.modAscent (s : State) (n : Nat) (f : Ascent → Ascent) : State :=
  { s with ascents := s.ascents.mod n f }
/-- The state with a queue changed. -/
def State.modQueue (s : State) (n : Nat) (f : Queue → Queue) : State := { s with queues := s.queues.mod n f }
/-- The state with a mapper slot changed. -/
def State.modSlot (s : State) (n : Nat) (f : MSlot → MSlot) : State := { s with slots := s.slots.mod n f }
/-- The state with the module's registers changed. -/
def State.modModule (s : State) (f : Module → Module) : State := { s with module := f s.module }

/-- The next free value (R13; log 2), and the state with the counter advanced. -/
def State.draw (s : State) (f : Nat → Nat) : Nat × State := (f s.draws, { s with draws := s.draws + 1 })

end Sys2Proof.Machine
end

