-- ==== Sys2Proof/Machine/Mem.lean ====
section
/-!
DEFINITION. Byte memories in canonical form, and the local physical map (R315, R318, R323 to R325, R330,
R387, R388).
-/
namespace Sys2Proof.Machine

/-- What a byte that a memory does not list reads as: zero. The manual states it for allotments of the
on-chip spaces (R201); for global memory it is the model's choice (log 4). -/
def unlisted : Byte := 0

/-- The byte at an address. -/
def memGet : List Host.Cell → Nat → Byte
  | [], _ => unlisted
  | (b, x) :: m, a => if a = b then x else memGet m a

/-- The memory with one byte written; a byte equal to what an unlisted address reads as has no entry. -/
def memPut : List Host.Cell → Nat → Byte → List Host.Cell
  | [], a, x => if x = unlisted then [] else [(a, x)]
  | (b, y) :: m, a, x =>
    if a < b then (if x = unlisted then (b, y) :: m else (a, x) :: (b, y) :: m)
    else if a = b then (if x = unlisted then m else (a, x) :: m)
    else (b, y) :: memPut m a x

/-- The canonical form: addresses strictly rising, no entry equal to the unlisted byte. -/
def Memory.wf : List Host.Cell → Bool
  | [] => true
  | [(_, x)] => decide (x ≠ unlisted)
  | (a, x) :: (b, y) :: m => decide (a < b) && decide (x ≠ unlisted) && Memory.wf ((b, y) :: m)

/-- The n bytes from address a, least significant first (R4). -/
def memBytes (m : List Host.Cell) (a : Nat) : Nat → List Byte
  | 0 => []
  | n + 1 => memGet m a :: memBytes m (a + 1) n

/-- mem[a, n] of R10, as a number. -/
def memRead (m : List Host.Cell) (a n : Nat) : Nat := ofBytes (memBytes m a n)

/-- The memory with bytes written from address a on. -/
def memWrite (m : List Host.Cell) (a : Nat) : List Byte → List Host.Cell
  | [] => m
  | b :: bs => memWrite (memPut m a b) (a + 1) bs

/-- A byte with the bits of the mask replaced. -/
def mergeByte (old : Byte) (w : WByte) : Byte :=
  BitVec.ofNat 8 (old.toNat &&& (255 - w.mask % 256) ||| w.value &&& w.mask % 256)

/-- The memory with masked bytes written. -/
def memMerge (m : List Host.Cell) (ws : List WByte) : List Host.Cell :=
  ws.foldl (fun m w => memPut m w.addr (mergeByte (memGet m w.addr) w)) m

/-- Whole bytes to write, from address a on. -/
def wbytes (a : Nat) : List Byte → List WByte
  | [] => []
  | b :: bs => { addr := a, value := b.toNat } :: wbytes (a + 1) bs

/-- The committed bytes from an address on replaced (R95, R297); a reservation that holds one of them ends. -/
def commit (s : State) (a : Nat) (bs : List Byte) : State :=
  { s with mem := memWrite s.mem a bs
           resvs := s.resvs.filter fun r => !(decide (r.2.addr < a + bs.length) && decide (a < r.2.addr + r.2.n)) }

/-! ## The local physical map -/

/-- The size of the interleaved HBM range, Table 15-1. -/
def hbmSize : Nat := 549325793280
/-- The first LPDDR-6 address, Table 15-1. -/
def lpddrBase : Nat := 0x010000000000
/-- The size of LPDDR-6. -/
def lpddrSize : Nat := 0x004000000000
/-- The first address of the channel-direct alias, Table 15-1. -/
def aliasBase : Nat := 0x020000000000

/-- The interleaved offset that an alias offset names (R325), if there is one. -/
def aliasOffset (off : Nat) : Option Nat :=
  let ch := off / 2 ^ 29
  let row := off / 2 ^ 11 % 2 ^ 18
  let b := off % 2 ^ 11
  if ch < 1279 ∧ row < 209715 then some (256 * ((8 * row + b / 256) * 1279 + ch) + b % 256) else none

/-- The first canonical address of host memory (R330). -/
def hostBase : Nat := 2 ^ 51
/-- The first canonical address of peer memory. -/
def peerBase : Nat := 2 ^ 58

/-- The kinds of memory that a canonical address names. -/
inductive PKind where | hbm | lpddr | host | peer (dev : Nat)
  deriving DecidableEq, Repr

/-- The kind of a canonical address. -/
def pkind (a : Nat) : PKind :=
  if peerBase ≤ a then .peer ((a - peerBase) / 2 ^ 52)
  else if hostBase ≤ a then .host
  else if lpddrBase ≤ a then .lpddr
  else .hbm

/-- Whether a canonical address is on the module. -/
def onModule (a : Nat) : Bool := decide (a < hostBase)

/-- The canonical address of the 58-bit physical address pa by the ranges of Table 15-1 (R315, R330), whether or not
its memory is usable; none outside them. -/
def ranged (m : Module) (pa : Nat) : Option Nat :=
  let dev := pa / 2 ^ 52 % 64
  let low := pa % 2 ^ 52
  if dev ≠ m.devnum then some (peerBase + pa % 2 ^ 58)
  else if hostBase ≤ low then some low
  else if low < hbmSize then some low
  else if lpddrBase ≤ low ∧ low < lpddrBase + lpddrSize then some low
  else if aliasBase ≤ low then aliasOffset (low - aliasBase)
  else none

/-- Whether memory of a kind is usable (R388): HBM and LPDDR-6 once their READY bit is set, HBM not with HBMFAIL. -/
def usable (m : Module) : PKind → Bool
  | .hbm => m.hbm && !m.hbmFail
  | .lpddr => m.lpddr
  | _ => true

/-- The canonical address of the 58-bit physical address pa, or none where it lies in no range (R315, R330);
memory that is not usable lies in no range (R388). -/
def canonical (m : Module) (pa : Nat) : Option Nat := (ranged m pa).filter fun a => usable m (pkind a)

/-- Whether some port of the peer's MASK is READY (R387). -/
def peerReady (m : Module) (dev : Nat) : Bool :=
  (List.range 16).any fun p => bit (m.route.get dev) p && (m.sk.get p).ready

/-- The pseudo-channel that serves a logical channel (R324). -/
def servingChannel (m : Module) (ch : Nat) : Nat := if m.spare = some ch then 1279 else ch

/-- The home die of an address on the module (R318). -/
def homeDie (m : Module) (a : Nat) : Nat :=
  match pkind a with
  | .hbm => servingChannel m (a / 256 % 1279) / 160 / 4
  | _ => a / 2 ^ 12 % 2

/-- The home slice within the die (R318). -/
def homeSlice (a : Nat) : Nat := a % 2 ^ 52 / 128 % 24

/-- The home of an address, within which stores drain in order (R302): the L2 slice by die and number, the host, or
a line of a peer; stores to different lines of a peer are unordered (R308). -/
def homeOf (m : Module) (a : Nat) : Nat :=
  match pkind a with
  | .host => 1000
  | .peer _ => 1001 + a / 128
  | _ => homeDie m a * 24 + homeSlice a

/-- The key of an image among the lengths of the files (R48). -/
def fileKey (ctx va : Nat) : Nat := ctx * 2 ^ 64 + va % 2 ^ 64

/-- The 128-byte line of an address (R279). -/
def lineOf (a : Nat) : Nat := a / 128

end Sys2Proof.Machine
end

