-- ==== Sys2Proof/Machine/Tints.lean ====
section
/-!
DEFINITION. Tints and versions (R275 to R288): what a view sees, what a store under a view writes, the
limits on versions, the fix and the bleach.
Open points: log 27 (DEDUCED).
-/
namespace Sys2Proof.Machine

/-- The number of entries of a tint table (R275). -/
def tintCount : Nat := 1024

/-- An entry of a context's tint table; entry 0 is always LIVE with depth 0 (R275). -/
def Context.tint (x : Context) (t : Nat) : Tint := if t = 0 then { st := .live } else x.tints.get t

/-- Whether a tint is live (R276). -/
def Context.isLive (x : Context) (t : Nat) : Bool := (x.tint t).st == .live

/-- The tint that an access carrying t acts as: a fixed tint forwards to its parent, on to a tint that does
not forward (R284 step 5). -/
def resolveFuel (x : Context) : Nat → Nat → Nat
  | 0, t => t
  | n + 1, t =>
    match (x.tint t).st, (x.tint t).fwd with
    | .retired, some p => resolveFuel x n p
    | _, _ => t

/-- The tint that an access carrying t acts as (R284). -/
def Context.resolve (x : Context) (t : Nat) : Nat := resolveFuel x tintCount t

/-- The path from a view up to, and without, tint 0, deepest first (R280). -/
def pathFuel (x : Context) : Nat → Nat → List Nat
  | 0, _ => []
  | n + 1, t => if t = 0 then [] else t :: pathFuel x n (x.tint t).parent

/-- The tints whose versions a view sees (R280), deepest first; depth is at most 16 (R276). -/
def Context.path (x : Context) (t : Nat) : List Nat := pathFuel x 17 t

/-- visible_to of Table 0-2: t is the view or an ancestor of it. -/
def Context.sees (x : Context) (view t : Nat) : Bool := t == 0 || (x.path view).contains t

/-- An orphan's view: a bleached tint (R287). -/
def Context.orphaned (x : Context) (t : Nat) : Bool :=
  let u := x.resolve t
  match (x.tint u).st with
  | .live | .fixing => false
  | _ => u != 0

/-- The version of a line that a tint holds (R279). -/
def findVersion (vs : List Version) (ctx tint line : Nat) : Option Version :=
  vs.find? fun v => v.ctx == ctx && v.tint == tint && v.line == line

/-- The byte of a line under a path of tints: the first whose version covers it, else the committed byte
(R280). -/
def composeByte (vs : List Version) (ctx line off : Nat) (committed : Byte) : List Nat → Byte
  | [] => committed
  | t :: ts =>
    match findVersion vs ctx t line with
    | some v =>
      if bit v.mask off then BitVec.ofNat 8 (v.data >>> (8 * off)) else composeByte vs ctx line off committed ts
    | none => composeByte vs ctx line off committed ts

/-- The byte at a canonical address as a view of a context sees it at the home (R280). -/
def homeByte (s : State) (ctx view a : Nat) : Byte :=
  composeByte s.vers ctx (lineOf a) (a % 128) (memGet s.mem a) ((s.ctx ctx).path ((s.ctx ctx).resolve view))

/-- A version with one masked byte written. A half-byte write merges with what the writer's view reads. -/
def Version.write (v : Version) (w : WByte) (seen : Byte) : Version :=
  let off := w.addr % 128
  { v with mask := setBit v.mask off true
           data := setBits v.data (8 * off) 8 (mergeByte seen w).toNat }

/-- The versions with the first one that matches replaced, or the new one added at the end. -/
def putVersion : List Version → Version → List Version
  | [], v => [v]
  | u :: vs, v =>
    if u.ctx = v.ctx ∧ u.tint = v.tint ∧ u.line = v.line then v :: vs else u :: putVersion vs v

/-- The state with one byte stored at its home under a live view (R281, R282). -/
def storeByteAtHome (s : State) (ctx view : Nat) (w : WByte) : State :=
  if view = 0 then commit s w.addr [mergeByte (memGet s.mem w.addr) w]
  else
    let line := lineOf w.addr
    let v := (findVersion s.vers ctx view line).getD { ctx := ctx, tint := view, line := line }
    { s with vers := putVersion s.vers (v.write w (homeByte s ctx view w.addr)) }

/-- The distinct lines of some addresses, in order of first appearance. -/
def distinct : List Nat → List Nat
  | [] => []
  | x :: xs => x :: (distinct xs).filter (· != x)

/-- Versions of a line, whatever their tint (R281). -/
def versionsOf (s : State) (line : Nat) : Nat := (s.vers.filter fun v => v.line == line).length

/-- Lines' versions held in the home slice of a line (R281). -/
def versionsIn (s : State) (line : Nat) : Nat :=
  let h := homeOf s.module (128 * line)
  (s.vers.filter fun v => homeOf s.module (128 * v.line) == h).length

/-- Reserves the versions that a store under a view needs on the given lines, in order (R281): the reason of
Table 13-3 and the line that fails, or the state with every version reserved. -/
def reserve (s : State) (ctx view : Nat) : List Nat → Except (Nat × Nat) State
  | [] => .ok s
  | line :: ls =>
    if view = 0 then .ok s
    else match findVersion s.vers ctx view line with
      | some _ => reserve s ctx view ls
      | none =>
        if 4 ≤ versionsOf s line then .error (1, line)
        else if 6144 ≤ versionsIn s line then .error (2, line)
        else
          reserve { s with vers := s.vers ++ [{ ctx := ctx, tint := view, line := line }] } ctx view ls

/-! ## Opening, fixing, bleaching -/

/-- The lowest-numbered FREE entry (R276). -/
def Context.freeTint (x : Context) : Option Nat :=
  (List.range tintCount).find? fun t => t != 0 && (x.tint t).st == .free

/-- The number of FREE entries (Table 13-7). -/
def Context.freeCount (x : Context) : Nat :=
  countBelow tintCount fun t => t != 0 && (x.tint t).st == .free

/-- Live children of a tint (Table 13-7). -/
def Context.children (x : Context) (t : Nat) : Nat :=
  countBelow tintCount fun u => u != 0 && (x.tint u).st == .live && (x.tint u).parent == t

/-- The context with a child c of tint p opened (R276). -/
def Context.open_ (x : Context) (c p : Nat) : Context :=
  { x with tints := x.tints.set c { st := .live, parent := p, depth := (x.tint p).depth + 1 } }

/-- Whether t descends from r, by a path of parents. -/
def Context.descends (x : Context) (t r : Nat) : Bool := t != r && (x.path t).contains r

/-- The context with a tint's state changed. -/
def Context.setTint (x : Context) (t : Nat) (f : Tint → Tint) : Context :=
  { x with tints := x.tints.mod t f }

/-- The merge of one version of T into its parent (R284 step 2). -/
def mergeVersion (s : State) (ctx t p : Nat) (v : Version) : State :=
  let rest := s.vers.filter fun u => !(u.ctx == ctx && u.tint == t && u.line == v.line)
  let s := { s with vers := rest }
  let offs := (List.range 128).filter fun o => bit v.mask o
  if p = 0 then
    offs.foldl (fun s o =>
      storeByteAtHome s ctx 0 { addr := 128 * v.line + o, value := v.data >>> (8 * o) % 256 }) s
  else match findVersion rest ctx p v.line with
    | some u =>
      let u' := offs.foldl (fun (u : Version) o =>
        { u with data := setBits u.data (8 * o) 8 (v.data >>> (8 * o)), mask := setBit u.mask o true }) u
      { s with vers := putVersion rest u' }
    | none => { s with vers := rest ++ [{ v with tint := p }] }

/-- Whether a kite or a reel of a crew of the context works under view t. -/
def Kite.views (k : Kite) (t : Nat) : Bool := k.st != .absent && k.tintv == t

/-- The region of a kite after the fix of t into p (R284 step 4). -/
def Region.adopt (r : Region) (t p : Nat) : Region := if r.parent = t then { r with parent := p } else r

/-- A kite after the fix of t into p (R284 step 4): its view, the parent of its region, and the views of its pending
stores. A kite that adopts p sees the merged bytes: it reads no guest line filled before `now` (R285). -/
def Kite.adopt (k : Kite) (t p now : Nat) : Kite :=
  let k := { k with region := k.region.map (·.adopt t p)
                    pend := k.pend.map fun q => if q.view = t then { q with view := p } else q }
  if k.tintv = t then { k with tintv := p, acqDev := now } else k

/-- A reel after the fix of t into p. -/
def Reel.adopt (r : Reel) (t p now : Nat) : Reel := if r.view = t then { r with view := p, acqDev := now } else r

/-- A crew of the context after the fix of t into p. -/
def Crew.adopt (c : Crew) (ctx t p now : Nat) : Crew :=
  if c.ctx ≠ ctx then c
  else { c with kites := c.kites.each fun k => k.adopt t p now, reel := c.reel.adopt t p now }

/-- A core after the fix of t into p (R284): what its write path holds of t is p's, and no L1 line is t's. -/
def Core.adopt (k : Core) (ctx t p : Nat) : Core :=
  { k with wp := k.wp.map fun e => if e.ctx = ctx ∧ e.view = t then { e with view := p } else e
           l1 := k.l1.filter fun e => !(e.2.ctx == ctx && e.2.view == t) }

/-- Whether a kite of a crew of the context works under view t. -/
def Crew.hasViewer (c : Crew) (ctx t : Nat) : Bool := c.ctx == ctx && c.kites.has fun k => k.views t

/-- A tick that neither die has come to yet (R20). -/
def nextTick (s : State) : Nat := max (s.die 0).cycle (s.die 1).cycle + 1

/-- A core without the L1 lines that satisfy p. -/
def Core.dropL1 (k : Core) (p : L1Line → Bool) : Core := { k with l1 := k.l1.filter fun e => !(p e.2) }

/-- The start of a fix (R284 step 1). -/
def fixStart (s : State) (ctx t : Nat) : State :=
  s.modCtx ctx fun x => x.setTint t fun e => { e with st := .fixing }

/-- The rest of a fix of tint t into its parent (R284 steps 2 to 5), with the release of R285 by the
requesting core at DEVICE scope. -/
def fixFinish (s : State) (ctx t core : Nat) : State :=
  let p := ((s.ctx ctx).tint t).parent
  let mine := s.vers.filter fun v => v.ctx == ctx && v.tint == t
  let s := mine.foldl (fun s v => mergeVersion s ctx t p v) s
  let s := { s with rels := mine.foldl (fun (r : Tab RelRec) (v : Version) =>
               r.set v.line { core := core, dev := s.module.devnum, scope := 3 }) s.rels }
  let x := s.ctx ctx
  let below := (List.range tintCount).filter fun u => (x.tint u).st == .live && x.descends u t
  let s := s.modCtx ctx fun x =>
    let x := below.foldl (fun (x : Context) u =>
      x.setTint u fun e => { e with depth := e.depth - 1, parent := if e.parent = t then p else e.parent }) x
    x.setTint t fun e => { e with st := .retired, fwd := some p, fixed := true }
  let adopters := (s.crews.filter fun e => e.2.hasViewer ctx t).map (·.1)
  let cores := adopters.foldl (fun (cs : Tab Core) c => cs.mod c fun k => { k with l1 := [] }) s.cores
  let now := nextTick s
  { s with cores := cores.each fun k => k.adopt ctx t p
           crews := s.crews.each fun c => c.adopt ctx t p now
           flights := s.flights.each fun f => { f with saved := f.saved.map fun c => c.adopt ctx t p now } }

/-- The tints that a bleach of t discards: t and its descendants (R286). -/
def bleachSet (x : Context) (t : Nat) : List Nat :=
  (List.range tintCount).filter fun u => u == t || ((x.tint u).st == .live && x.descends u t)

/-- The start of a bleach: t and every descendant become BLEACHING (R286). -/
def bleachStart (s : State) (ctx t : Nat) : State :=
  s.modCtx ctx fun x => (bleachSet x t).foldl (fun (x : Context) u => x.setTint u fun e => { e with st := .bleaching }) x

/-- The rest of a bleach: the versions and the L1 lines of the discarded tints are removed, and they become
RETIRED without forwarding (R286). -/
def bleachFinish (s : State) (ctx : Nat) : State :=
  let gone := (List.range tintCount).filter fun u => ((s.ctx ctx).tint u).st == .bleaching
  let s := { s with
    vers := s.vers.filter fun v => !(v.ctx == ctx && gone.contains v.tint)
    cores := s.cores.each fun k => k.dropL1 fun l => l.ctx == ctx && gone.contains l.view }
  s.modCtx ctx fun x =>
    gone.foldl (fun (x : Context) u => x.setTint u fun e => { e with st := .retired, fwd := none, fixed := false }) x

/-- The bleach of a tint at once, as the rewind of a region and the end of a context make it (R291, R294). -/
def bleachNow (s : State) (ctx t : Nat) : State := bleachFinish (bleachStart s ctx t) ctx

/-- Whether a crew has pieces of commands that have still to perform. -/
def Crew.piecing (w : Crew) : Bool := w.ports.has fun p => p.cmds.any fun m => !m.todo.isEmpty

/-- Whether a crew of a context has. -/
def piecing (s : State) (ctx : Nat) : Bool := s.crews.has fun w => w.ctx == ctx && w.piecing

/-- Whether a kite names a tint (R288): its view, its region, or what it captured. -/
def Kite.namesTint (k : Kite) (t : Nat) : Bool :=
  k.views t ||
  (match k.region with | some r => r.tint == t || r.parent == t | none => false) ||
  k.pend.any (fun p => p.view == t) || k.vq.any (fun e => (!e.dispatched || e.load.isSome) && e.ctx.view == t)

/-- Whether an agent of a crew names a tint (R288): the reel, a kite, a command or an mma. -/
def Crew.namesTint (c : Crew) (ctx t : Nat) : Bool :=
  c.ctx == ctx &&
    (c.reel.view == t || c.kites.has (fun k => k.namesTint t) ||
     c.ports.has (fun p => p.cmds.any fun m => m.view == t) ||
     c.tq.has (fun q => q.any fun m => m.view == t))

/-- Whether anything names a tint of a context (R288). -/
def tintNamed (s : State) (ctx t : Nat) : Bool :=
  s.crews.has (fun c => c.namesTint ctx t) ||
  s.flights.has (fun f => f.saved.any fun c => c.namesTint ctx t) ||
  s.cores.has (fun k => k.wp.any fun w => w.ctx == ctx && w.view == t)

/-- RETIRED tint t becomes FREE (R288). A tint that forwarded to it forwards where it did, so that a number
used again is never reached through it; it has still been fixed. -/
def freeTintNow (s : State) (ctx t : Nat) : State :=
  s.modCtx ctx fun x =>
    let f := (x.tint t).fwd
    { x with tints := (x.tints.each fun e => if e.fwd = some t then { e with fwd := f } else e).set t {} }

/-- Every RETIRED tint of a context that nothing names becomes FREE (R288). -/
def freeUnnamed (s : State) (ctx : Nat) : State :=
  ((s.ctx ctx).tints.map (·.1)).foldl
    (fun s t => if t ≠ 0 ∧ ((s.ctx ctx).tint t).st = .retired ∧ tintNamed s ctx t = false then freeTintNow s ctx t else s) s

end Sys2Proof.Machine
end

