-- ==== Sys2Proof/Machine/Xlat.lean ====
section
/-!
DEFINITION. Address translation (R328 to R337, R361): the page-table walk with its caches, the slot window,
fixed-tier mode, and the span table; and page requests (R340).
Open points: log 34 (DEDUCED).
-/
namespace Sys2Proof.Machine

/-- Why a translation fails: a leaf or entry that denies the access or is malformed (R333); a physical
address in no range (R315); a peer without a ready port (R387); not present, in the page tables or in the
span table (R340); or outside the vector window (R207). -/
inductive XErr where | denied | noRange | linkDown (dev : Nat) | absent (span : Bool) | window
  deriving DecidableEq, Repr

/-- The accesses that a leaf grants or denies (R333). -/
inductive XAcc where | load | store | atomic | fetch
  deriving DecidableEq, Repr

/-- Who translates (R333): a kite, an engine command or an mma; or the reel, in user or supervisor mode with
its SUM bit. -/
inductive XWho where | kite | engine | reel (sup sum : Bool)
  deriving DecidableEq, Repr

/-- A translated byte address (R320): canonical address, CL and MINRD of its page, and for the slot window
the page captured (R361). -/
structure Xlat where
  a     : Nat := 0
  cl    : Nat := 0
  minrd : Nat := 0
  slot  : Option SlotPage := none
  deriving DecidableEq, Repr, Inhabited

/-! The fields of a page-table entry, Table 16-2. -/

def pteV (e : Nat) : Bool := bit e 0
def pteT (e : Nat) : Bool := bit e 1
def pteW (e : Nat) : Bool := bit e 2
def pteRun (e : Nat) : Nat := bits e 11 3
def ptePfn (e : Nat) : Nat := bits e 57 12
def pteX (e : Nat) : Bool := bit e 58
def pteU (e : Nat) : Bool := bit e 59
def pteMinrd (e : Nat) : Nat := bits e 61 60
def pteCl (e : Nat) : Nat := bits e 63 62

/-- A table entry that breaks R331: every field but V, T and PFN is zero. -/
def tableMalformed (e : Nat) : Bool := !(pteT e) || bits e 11 2 != 0 || bits e 63 58 != 0

/-- The 8-byte entry at a physical address, from the committed line at its home (R334). -/
def readEntry (s : State) (pa : Nat) : Except XErr Nat :=
  match canonical s.module pa with
  | none => .error .noRange
  | some a =>
    match pkind a with
    | .peer d => if peerReady s.module d then .ok (memRead s.mem a 8) else .error (.linkDown d)
    | _ => .ok (memRead s.mem a 8)

/-- The walk-cache entry for a level and index path (R329). -/
def findWalk (k : Core) (asid gen level path : Nat) : Option WalkEntry :=
  k.wc.find? fun w => w.asid == asid && w.gen == gen && w.level == level && w.path == path

/-- The index path of a virtual address down to a level, 1 to 4 (R331). -/
def vpath (va level : Nat) : Nat := va / 2 ^ (48 - 9 * level)

/-- The walk of R331 from a level on, whose table is at physical address tbl: the leaf and the table entries
that the walk caches may hold. -/
def walkFrom (s : State) (x : Context) (va : Nat) : Nat → Nat → Nat → Except XErr (Nat × List WalkEntry)
  | 0, _, _ => .error .denied
  | fuel + 1, level, tbl =>
    match readEntry s (tbl + 8 * (vpath va level % 512)) with
    | .error e => .error e
    | .ok e =>
      if !(pteV e) then .error (.absent false)
      else if level = 4 then (if pteT e then .error .denied else .ok (e, []))
      else if tableMalformed e then .error .denied
      else
        match walkFrom s x va fuel (level + 1) (ptePfn e * 2 ^ 12) with
        | .error err => .error err
        | .ok (leaf, ws) =>
          .ok (leaf, { asid := x.asid, gen := x.gen, level := level, path := vpath va level, entry := e } :: ws)

/-- The walk for a virtual address, from the deepest table entry that the walk caches hold (R329). -/
def walk (s : State) (k : Core) (x : Context) (va : Nat) : Except XErr (Nat × List WalkEntry) :=
  match findWalk k x.asid x.gen 3 (vpath va 3) with
  | some w => walkFrom s x va 1 4 (ptePfn w.entry * 2 ^ 12)
  | none =>
    match findWalk k x.asid x.gen 2 (vpath va 2) with
    | some w => walkFrom s x va 2 3 (ptePfn w.entry * 2 ^ 12)
    | none =>
      match findWalk k x.asid x.gen 1 (vpath va 1) with
      | some w => walkFrom s x va 3 2 (ptePfn w.entry * 2 ^ 12)
      | none => walkFrom s x va 4 1 x.root

/-- The kind of memory of a physical address, whether or not it is usable (R335). -/
def tierOf (s : State) (pa : Nat) : Option PKind := (ranged s.module pa).map pkind

/-- The fixed-tier walk of R335: the leaf, the first page and the number of pages it maps. -/
def walkTier (s : State) (k : Core) (x : Context) (va : Nat) :
    Except XErr (Nat × Nat × Nat × List WalkEntry) :=
  match walk s k x (va / 2 ^ 21 * 2 ^ 21) with
  | .error e => .error e
  | .ok (l2, w2) =>
    if tierOf s (ptePfn l2 * 2 ^ 12) = some .hbm then
      (if ptePfn l2 % 512 = 0 then .ok (l2, va / 2 ^ 21 * 512, 512, w2) else .error .denied)
    else if tierOf s (ptePfn l2 * 2 ^ 12) = some .lpddr ∧ ptePfn l2 % 16 ≠ 0 then .error .denied
    else
      match walk s k x (va / 2 ^ 16 * 2 ^ 16) with
      | .error e => .error e
      | .ok (l1, w1) =>
        match tierOf s (ptePfn l1 * 2 ^ 12) with
        | some .hbm => .error .denied
        | some .lpddr =>
          if ptePfn l1 % 16 = 0 then .ok (l1, va / 2 ^ 16 * 16, 16, w1) else .error .denied
        | _ =>
          match walk s k x va with
          | .error e => .error e
          | .ok (l0, w0) =>
            match tierOf s (ptePfn l0 * 2 ^ 12) with
            | some .hbm | some .lpddr => .error .denied
            | _ => .ok (l0, va / 2 ^ 12, 1, w0)

/-- The TLB entry that translates a virtual page (R329). -/
def findTlb (k : Core) (asid gen vpn : Nat) : Option TlbEntry :=
  k.tlb.find? fun t => t.asid == asid && t.gen == gen && t.vpn ≤ vpn && vpn < t.vpn + t.pages

/-- Adds walk-cache entries that are not there yet. -/
def addWalks (k : Core) (ws : List WalkEntry) : Core :=
  ws.foldl (fun k w => if (findWalk k w.asid w.gen w.level w.path).isSome then k else { k with wc := k.wc ++ [w] }) k

/-- The TLB entry for a virtual address, by lookup or by a walk that fills the TLB and the walk caches of
the core (R329, R332, R335). -/
def lookup (s : State) (core : Nat) (x : Context) (va : Nat) : Except XErr (TlbEntry × State) :=
  let k := s.core core
  match findTlb k x.asid x.gen (va / 2 ^ 12) with
  | some t => .ok (t, s)
  | none =>
    let r : Except XErr (Nat × Nat × Nat × List WalkEntry) :=
      if x.ft then walkTier s k x va
      else match walk s k x va with
        | .error e => .error e
        | .ok (leaf, ws) => .ok (leaf, va / 2 ^ 12, 1, ws)
    match r with
    | .error e => .error e
    | .ok (leaf, vpn, pages, ws) =>
      let t : TlbEntry := { asid := x.asid, gen := x.gen, vpn := vpn, pages := pages, leaf := leaf }
      .ok (t, s.modCore core fun k => addWalks { k with tlb := k.tlb ++ [t] } ws)

/-- Whether a leaf grants an access (R333). The reel in user mode needs U; in supervisor mode a U page
needs SUM for loads and stores and is never fetched from, as the privileged specification has it. -/
def leafGrants (e : Nat) (acc : XAcc) (who : XWho) : Bool :=
  match who with
  | .kite =>
    pteU e && (match acc with | .load => true | .fetch => pteX e | _ => pteW e)
  | .engine => pteU e && (match acc with | .load => true | .fetch => pteX e | _ => pteW e)
  | .reel sup sum =>
    (if sup then !(pteU e) || (sum && acc != .fetch) else pteU e) &&
      (match acc with | .load => true | .fetch => pteX e | _ => pteW e)

/-- The canonical address of a physical one, with the link it needs (R315, R387). -/
def physical (s : State) (pa : Nat) : Except XErr Nat :=
  match canonical s.module pa with
  | none => .error .noRange
  | some a =>
    match pkind a with
    | .peer d => if peerReady s.module d then .ok a else .error (.linkDown d)
    | _ => .ok a

/-- The slot window of R361. -/
def slotWindow (va : Nat) : Bool := decide (0x020000000000 ≤ va) && decide (va ≤ 0x02FFFFFFFFFF)

/-- What the slot window grants, as a leaf has it: W and U, and no X. -/
def slotLeaf : Nat := 2 ^ 2 + 2 ^ 59

/-- The physical address of an offset in a page of the slots' pool. -/
def Context.poolPa (x : Context) (page off : Nat) : Nat := x.slotPool + page * 65536 + off % 65536

/-- Translation through the batch-slot table (R333, R361): CL 1, MINRD 0. -/
def slotXlat (s : State) (x : Context) (va : Nat) (acc : XAcc) (who : XWho) : Except XErr Xlat :=
  let off := va - 0x020000000000
  let n := off / 2 ^ 32
  let sl := x.slots.get n
  let pg := off % 2 ^ 32 / 65536
  if leafGrants slotLeaf acc who = false ∨ sl.active = false ∨ sl.pages.length ≤ pg then .error .denied
  else
    let page := sl.pages.getD pg 0
    match physical s (x.poolPa page off) with
    | .error e => .error e
    | .ok a => .ok { a := a, cl := 1, slot := some { slot := n, gen := sl.gen, no := pg, page := page } }

/-- Translation through the page tables of a context (R331 to R335). -/
def pageXlat (s : State) (core ctx va : Nat) (acc : XAcc) (who : XWho) : Except XErr (Xlat × State) :=
  match lookup s core (s.ctx ctx) va with
  | .error e => .error e
  | .ok (t, s') =>
    if !(leafGrants t.leaf acc who) then .error .denied
    else
      match physical s (ptePfn t.leaf * 2 ^ 12 + (va - t.vpn * 2 ^ 12)) with
      | .error e => .error e
      | .ok a => .ok ({ a := a, cl := pteCl t.leaf, minrd := pteMinrd t.leaf }, s')

/-- translate(va, 0, acc) of Table 0-2 through the page tables of a context (R331 to R335), or through its
slot table (R361). -/
def translate (s : State) (core ctx va : Nat) (acc : XAcc) (who : XWho) : Except XErr (Xlat × State) :=
  if 2 ^ 48 ≤ va then .error .denied
  else if slotWindow va then
    (match slotXlat s (s.ctx ctx) va acc who with | .error e => .error e | .ok r => .ok (r, s))
  else pageXlat s core ctx va acc who

/-- The vector window (R207). -/
def inWindow (va : Nat) : Bool := decide (0x010000000000 ≤ va) && decide (va ≤ 0x01FFFFFFFFFF)

/-- The span entry of a virtual address in the copy that a cluster holds of a context's table (R337). -/
def spanEntry (s : State) (cluster ctx va : Nat) : Nat :=
  match s.spans.find? fun c => c.cluster == cluster && c.ctx == ctx with
  | some c => c.entries.get (bits va 39 25)
  | none => 0

/-- Translation of the vector path (R336). -/
def spanXlat (s : State) (core ctx va : Nat) (store : Bool) : Except XErr Xlat :=
  if !(inWindow va) then .error .window
  else
    let e := spanEntry s (clusterOf core) ctx va
    if !(bit e 0) then .error (.absent true)
    else if bits e 59 58 != 0 || bits e 24 3 != 0 || bit e 1 then .error .denied
    else if store && !(bit e 2) then .error .denied
    else
      match physical s (bits e 57 25 * 2 ^ 25 + va % 2 ^ 25) with
      | .error err => .error err
      | .ok a => .ok { a := a, cl := pteCl e, minrd := pteMinrd e }

/-! ## Page requests -/

/-- The range that a page request covers (R340). -/
def PageReq.covers (r : PageReq) (va : Nat) : Bool :=
  if r.span then r.va / 2 ^ 25 == va / 2 ^ 25 else r.va / 2 ^ 12 == va / 2 ^ 12

/-- A NOT_PRESENT joins an open request of its context that covers the address, or opens a new one (R340).
The state and the request's ID. -/
def requestPage (s : State) (ctx core agent va kind : Nat) (span : Bool) : State × Nat :=
  match s.module.reqs.find? fun r => r.ctx == ctx && r.covers va with
  | some r => (s, r.id)
  | none =>
    let r : PageReq :=
      { id := s.module.nextReq, va := va, time := s.cycle core, agent := agent, core := core, ctx := ctx
        kind := kind, span := span }
    (s.modModule fun m => { m with reqs := m.reqs ++ [r], nextReq := (m.nextReq + 1) % 2 ^ 16 }, r.id)

end Sys2Proof.Machine
end

