-- ==== Sys2Proof/Machine/Access.lean ====
section
/-!
DEFINITION. Accesses to global memory (R295 to R308, R316 to R320): the L1, the write path and its drains,
the guest lines of a die, release records and acquires; and accesses to the on-chip spaces (R201 to R205).
Open points: logs 5 (DESIGN CHOICE), 6 (DEDUCED), 10 (DEDUCED), 28 (DEDUCED).
-/
namespace Sys2Proof.Machine

/-! ## The L1 -/

/-- The set of a line in the L1 (R316). -/
def l1Set (line : Nat) : Nat := line % 128

/-- The L1 line of a context, view and physical line, with its place (R283). -/
def l1Find (k : Core) (ctx view line : Nat) : Option (Nat × L1Line) :=
  k.l1.find? fun e => e.2.line == line && e.2.ctx == ctx && e.2.view == view

/-- The victim of a set (R319): the lowest-numbered way at value 3, each way being raised by 1 until there is
one. Three rounds reach it. -/
def l1Victim (k : Core) (set : Nat) : Nat → Nat × Core
  | 0 => (0, k)
  | fuel + 1 =>
    match (List.range 8).find? fun w => (k.l1.get (8 * set + w)).rrpv == 3 with
    | some w => (w, k)
    | none =>
      l1Victim { k with l1 := k.l1.map fun e =>
        if e.1 / 8 = set then (e.1, { e.2 with rrpv := e.2.rrpv + 1 }) else e } set fuel

/-- The core with a line filled into its L1 (R316, R319): in place of an older copy, into a free way, or in place
of the victim. DESIGN CHOICE (log 5): of several free ways it takes the lowest-numbered; R319 gives the victim alone. -/
def l1Fill (k : Core) (l : L1Line) : Core :=
  let set := l1Set l.line
  match l1Find k l.ctx l.view l.line with
  | some (place, _) => { k with l1 := k.l1.set place l }
  | none =>
    match (List.range 8).find? fun w => (k.l1.find (8 * set + w)).isNone with
    | some w => { k with l1 := k.l1.set (8 * set + w) l }
    | none =>
      let (w, k) := l1Victim k set 4
      { k with l1 := k.l1.set (8 * set + w) l }

/-- The core with its whole L1 invalidated (R94). -/
def Core.clearL1 (k : Core) : Core := { k with l1 := [] }

/-- What a store that enters the write path does to the L1 (R302): it updates the line of its own view and
removes the lines of the address under every other. -/
def l1Store (k : Core) (ctx view : Nat) (ws : List WByte) : Core :=
  match ws with
  | [] => k
  | w :: _ =>
    let line := lineOf w.addr
    let k := k.dropL1 fun l => l.line == line && !(l.ctx == ctx && l.view == view)
    if ws.any fun w => w.mask != 255 then k.dropL1 fun l => l.line == line
    else
      { k with l1 := k.l1.each fun l =>
          if l.line = line then
            { l with data := ws.foldl (fun d w => setBits d (8 * (w.addr % 128)) 8 w.value) l.data }
          else l }

/-! ## Guest lines -/

/-- The first ticks after an agent's latest acquires at DEVICE and at SYSTEM scope; 0 for none (R307, R308). -/
structure Acq where
  dev : Nat := 0
  sys : Nat := 0

/-- Whether a die holds the line of an address as a guest under CL (R307, R308, R320). -/
def isGuest (m : Module) (die cl a : Nat) : Bool :=
  if onModule a then cl == 0 && homeDie m a != die else decide (cl ≤ 1)

/-- The line of a buffered store. -/
def WpStore.line (e : WpStore) : Option Nat := e.bytes.head?.map fun w => lineOf w.addr

/-- A byte with what a buffered store writes at its address laid over it, nibble by nibble (R212, R297). -/
def WpStore.onto (e : WpStore) (a : Nat) (b : Byte) : Byte :=
  e.bytes.foldl (fun b w => if w.addr = a then mergeByte b w else b) b

/-- A store put into a list of stores that rises by their place at the guest lines of a die. -/
def insertAtDie (e : Nat × WpStore) : List (Nat × WpStore) → List (Nat × WpStore)
  | [] => [e]
  | f :: fs => if e.2.atDie ≤ f.2.atDie then e :: f :: fs else f :: insertAtDie e fs

/-- The stores that have reached the guest lines of a die and not yet their homes (R307), each with its core, in the
order in which they came. -/
def dieStores (s : State) (die : Nat) : List (Nat × WpStore) :=
  ((s.cores.filter fun k => k.1 / 96 == die).flatMap fun k =>
    (k.2.wp.filter fun e => e.atDie != 0).map fun e => (k.1, e)).foldr insertAtDie []

/-- A byte of the home with the stores of a die on their way to it laid over it. -/
def onWay (es : List (Nat × WpStore)) (a : Nat) (b : Byte) : Byte := es.foldl (fun b e => e.2.onto a b) b

/-- The committed byte of an address past the guest line of a die: the home's, with the stores of the die that are
on their way to it (R297, R307). -/
def dieByte (s : State) (die a : Nat) : Byte := onWay (dieStores s die) a (memGet s.mem a)

/-- The first tick at which a guest copy of an address may have been filled for a reader (R307, R308). -/
def Acq.stamp (q : Acq) (a : Nat) : Nat := if onModule a then q.dev else q.sys

/-- A guest line's bytes after a fill from its home: what stores have written there on their way stays, a half-byte
store in its nibble alone (R212, R307). -/
def guestData (s : State) (die line : Nat) : Nat :=
  let es := (dieStores s die).filter fun e => e.2.line == some line
  ofBytes ((List.range 128).map fun i => onWay es (128 * line + i) (memGet s.mem (128 * line + i)))

/-- The state with the guest line present and not older than the acquires of the reader (R307). -/
def guestEnsure (s : State) (die line : Nat) (q : Acq) : State :=
  let stamp := q.stamp (128 * line)
  let d := s.die die
  match d.guests.find? fun g => g.line == line with
  | some g =>
    if stamp ≤ g.fill then s
    else
      let data := guestData s die line
      s.modDie die fun d => { d with guests := d.guests.map fun g =>
        if g.line = line then { g with fill := d.cycle, data := data } else g }
  | none =>
    s.modDie die fun d =>
      { d with guests := d.guests ++ [{ line := line, fill := d.cycle, data := guestData s die line }] }

/-- The guest line of a die, if it holds one, filled anew from the home. -/
def guestRefresh (s : State) (die line : Nat) : State :=
  s.modDie die fun d => { d with guests := d.guests.map fun g =>
    if g.line = line then { g with fill := d.cycle, data := guestData s die line } else g }

/-- The CYCLE of the fill of a die's guest line; its CYCLE now where it holds none. -/
def guestFill (s : State) (die line : Nat) : Nat :=
  match (s.die die).guests.find? fun g => g.line == line with
  | some g => g.fill
  | none => (s.die die).cycle

/-- Guest line i of a die leaves (R307), unless it holds a store that is still on its way to the home. -/
def guestDrop (s : State) (die i : Nat) : State :=
  match (s.die die).guests[i]? with
  | none => s
  | some g =>
    if (dieStores s die).any fun e => e.2.line == some g.line then s
    else s.modDie die fun d => { d with guests := dropAt i d.guests }

/-- The committed byte of an address as the L2 of a die gives it. -/
def l2Byte (s : State) (die cl a : Nat) : Byte :=
  match if isGuest s.module die cl a then (s.die die).guests.find? fun g => g.line == lineOf a else none with
  | some g => BitVec.ofNat 8 (g.data >>> (8 * (a % 128)))
  | none => dieByte s die a

/-! ## The write path -/

/-- A byte with the buffered stores of a context and view laid over it in the order of their entry: the youngest
decides each of its nibbles (R212, R302). -/
def wpOnto (wp : List WpStore) (ctx view a : Nat) (b : Byte) : Byte :=
  wp.foldl (fun b e => if e.ctx = ctx ∧ e.view = view then e.onto a b else b) b

/-- The byte of an address under a path of tints as an agent of a core reads it past the L1 (R280, R302):
for each tint of the path, deepest first, its buffered stores over its version at the home; and last the committed
byte. The DEDUCED reading of log 6. -/
def pathByte (s : State) (wp : List WpStore) (ctx a : Nat) (committed : Byte) : List Nat → Byte
  | [] => committed
  | t :: ts =>
    let below := pathByte s wp ctx a committed ts
    let atHome :=
      match findVersion s.vers ctx t (lineOf a) with
      | some v => if bit v.mask (a % 128) then BitVec.ofNat 8 (v.data >>> (8 * (a % 128))) else below
      | none => below
    wpOnto wp ctx t a atHome

/-- A committed byte with the buffered stores of the core laid over it, of every context, since all pass through one
write path; one that has reached a guest line stands there already, in its place among the others (R297, R307). -/
def wpCommitted (wp : List WpStore) (a : Nat) (b : Byte) : Byte :=
  wp.foldl (fun b e => if e.view = 0 ∧ e.atDie = 0 then e.onto a b else b) b

/-- Whether a store of a core passes through a guest line of its die on its way to the home (R307): a committed
one to a line that is not homed there. -/
def WpStore.viaGuest (s : State) (core : Nat) (e : WpStore) : Bool :=
  match e.bytes with
  | [] => false
  | w :: _ => (s.ctx e.ctx).resolve e.view == 0 && isGuest s.module (dieOf core) w.cl w.addr

/-- Whether two buffered stores keep the order in which they come: those with one home (R302), but at a peer only
those that write a byte in common (R297, R308). -/
def WpStore.ordered (m : Module) (e f : WpStore) : Bool :=
  match e.bytes, f.bytes with
  | w :: _, v :: _ =>
    homeOf m w.addr == homeOf m v.addr &&
      match pkind w.addr with
      | .peer _ => e.bytes.any fun w => f.bytes.any fun v => v.addr == w.addr
      | _ => true
  | _, _ => false

/-- Whether a store of another agent of a die reached the guest line of e before it, and has not reached the home
(R297): stores leave a guest line in the order in which they came to it. -/
def diesBefore (s : State) (core : Nat) (e : WpStore) : Bool :=
  (dieStores s (dieOf core)).any fun o =>
    o.2.line == e.line && (e.atDie == 0 || decide (o.2.atDie < e.atDie)) && o.2.ordered s.module e

/-- Whether entry i of a write path may drain: no earlier entry comes before it at its home, no earlier store of its guest line is
still on the way, a peer has a port, and its view is not being fixed (R284, R302, R307, R387). -/
def canDrain (s : State) (core i : Nat) : Bool :=
  let wp := (s.core core).wp
  match wp[i]? with
  | none => false
  | some e =>
    match e.bytes with
    | [] => true
    | w :: _ =>
      let x := s.ctx e.ctx
      let earlier := (wp.take i).any fun o => o.ordered s.module e
      let link := match pkind w.addr with | .peer d => peerReady s.module d | _ => true
      !earlier && link && !(e.viaGuest s core && diesBefore s core e) && (x.tint (x.resolve e.view)).st != .fixing

/-- The state after a store's bytes reach their home (R281, R284, R286, R305): dropped if its view is
bleached, under the tint that its view forwards to otherwise, with the release record it carries. -/
def performAtHome (s : State) (core : Nat) (e : WpStore) : State :=
  let x := s.ctx e.ctx
  let t := x.resolve e.view
  if t != 0 && (x.tint t).st != .live then s
  else
    let s := e.bytes.foldl (fun s w => storeByteAtHome s e.ctx t w) s
    match e.rel, e.bytes with
    | some sc, w :: _ =>
      { s with rels := s.rels.set (lineOf w.addr) { core := core, dev := s.module.devnum, scope := sc } }
    | _, _ => s

/-- The guest line of a die updated by a committed store that reaches it on its way to the home (R307). -/
def guestStore (s : State) (die : Nat) (bytes : List WByte) : State :=
  s.modDie die fun d => { d with guests := d.guests.map fun g =>
    { g with data := bytes.foldl (fun x w =>
        if lineOf w.addr = g.line then
          setBits x (8 * (w.addr % 128)) 8 (mergeByte (BitVec.ofNat 8 (x >>> (8 * (w.addr % 128)))) w).toNat
        else x) g.data } }

/-- The place of the next store that reaches the guest lines of a die. -/
def nextAtDie (s : State) (die : Nat) : Nat :=
  s.cores.foldl (fun n k => if k.1 / 96 = die then k.2.wp.foldl (fun n e => max n (e.atDie + 1)) n else n) 1

/-- Entry i of a write path reaches the L2 of its die, where that is not its home: a committed store to a line
that the die holds as a guest, or allocates (R307, R317), behind the earlier ones of its home (R297, R302). -/
def drainToDie (s : State) (core i : Nat) : State :=
  let wp := (s.core core).wp
  match wp[i]? with
  | none => s
  | some e =>
    match e.line with
    | none => s
    | some l =>
      let behind := (wp.take i).any fun o => o.ordered s.module e && o.atDie == 0
      if e.atDie != 0 || !(e.viaGuest s core) || behind then s
      else
        let n := nextAtDie s (dieOf core)
        let s := guestStore (guestEnsure s (dieOf core) l {}) (dieOf core) e.bytes
        s.modCore core fun k => { k with wp := modifyAt (fun e => { e with atDie := n }) i k.wp }

/-- Entry i of a write path drains to its home (R302): it leaves the buffer and performs. -/
def drainEntry (s : State) (core i : Nat) : State :=
  match (s.core core).wp[i]? with
  | none => s
  | some e =>
    let s := drainToDie s core i
    performAtHome (s.modCore core fun k => { k with wp := dropAt i k.wp }) core e

/-- Drains what may drain among the first n entries that `p` admits, keeping the order of each home; the entries
that stay are stepped over. -/
def drainSome (p : WpStore → Bool) (s : State) (core : Nat) : Nat → Nat → State
  | 0, _ => s
  | n + 1, i =>
    if canDrain s core i && ((s.core core).wp[i]?).any p then drainSome p (drainEntry s core i) core n i
    else drainSome p s core n (i + 1)

/-- Every buffered store of a core that may drain drains (R306, DEVICE). -/
def drainAll (s : State) (core : Nat) : State := drainSome (fun _ => true) s core (s.core core).wp.length 0

/-- Every buffered store of a core that can reaches a guest line of its die (R306, R307). -/
def drainDie (s : State) (core : Nat) : State :=
  iter (s.core core).wp.length (fun i s => drainToDie s core i) s

/-- Whether a buffered store has come to the L2 of its die, short of its home. -/
def WpStore.near (e : WpStore) : Bool := e.atDie != 0 || e.bytes.isEmpty

/-- The buffered stores of a core that are homed on its die, or pass no guest line, drain, with those before them to
the same homes (R302, R306, CLUSTER and DIE). -/
def drainNear (s : State) (core : Nat) : State :=
  let homes := ((s.core core).wp.filter fun e => !e.near).flatMap fun e => e.bytes.map fun w => homeOf s.module w.addr
  drainSome (fun e => e.bytes.any fun w => homes.contains (homeOf s.module w.addr)) s core (s.core core).wp.length 0

/-- The release of a scope (R94, R306): the buffered stores of the core reach the scope's point of coherence
(Table 14-1), the L2 of the die at CLUSTER and DIE and the homes at DEVICE and SYSTEM; and whether all have. -/
def release (s : State) (core scope : Nat) : State × Bool :=
  if scope = 0 then (s, true)
  else if scope ≤ 2 then
    let s := drainNear (drainDie s core) core
    (s, (s.core core).wp.all WpStore.near)
  else
    let s := drainAll s core
    (s, (s.core core).wp.isEmpty)

/-- The stores of a core to a line drain, behind those that come before them at its home (R93, R212). -/
def drainOwn (s : State) (core line : Nat) : State :=
  let wp := (s.core core).wp
  let n := wp.length - wp.reverse.findIdx fun e => e.line == some line
  let home := homeOf s.module (128 * line)
  drainSome (fun e => e.bytes.any fun w => homeOf s.module w.addr == home) s core n 0

/-- The store that came n-th to the guest lines of the die of a core drains, where it may. -/
def drainAt (s : State) (core n : Nat) : State :=
  match (s.core core).wp.findIdx? fun e => e.atDie == n with
  | some i => if canDrain s core i then drainEntry s core i else s
  | none => s

/-- The stores that stand at a die's guest line of a line drain, behind those that come before them at its home, in
the order in which they came (R297). -/
def drainGuest (s : State) (die line : Nat) : State :=
  let es := dieStores s die
  let last := es.foldl (fun n e => if e.2.line = some line then e.2.atDie else n) 0
  let home := homeOf s.module (128 * line)
  let before := es.filter fun e =>
    decide (e.2.atDie ≤ last) && e.2.bytes.any fun w => homeOf s.module w.addr == home
  before.foldl (fun s e => drainAt s e.1 e.2.atDie) s

/-- What an access at the home of a line finds out of its way, where it can go (R93, R297): the stores that the die of
a core has let come to its guest line, and those of the core. -/
def clearLine (s : State) (core line : Nat) : State := drainOwn (drainGuest s (dieOf core) line) core line

/-- Several lines cleared. -/
def clearLines (s : State) (core : Nat) (lines : List Nat) : State :=
  lines.foldl (fun s l => clearLine s core l) s

/-- Whether a committed store to one of the lines is still to come to its home, from the die's guest line or the
core (R93, R297). -/
def lineBusy (s : State) (core : Nat) (lines : List Nat) : Bool :=
  let writes := fun (e : WpStore) => e.bytes.any fun w => lines.contains (lineOf w.addr)
  (s.core core).wp.any (fun e => e.view == 0 && writes e) || (dieStores s (dieOf core)).any fun e => writes e.2

/-- Whether some buffered store of any view still writes one of the lines. -/
def wpHas (s : State) (core : Nat) (lines : List Nat) : Bool :=
  lineBusy s core lines || (s.core core).wp.any fun e => e.bytes.any fun w => lines.contains (lineOf w.addr)

/-- A read of some lines: the half-byte writes of the core in them drain, and the read takes those bytes from the home
(R212). -/
def drainHalf (s : State) (core : Nat) (lines : List Nat) : State :=
  clearLines s core (lines.filter fun l => (s.core core).wp.any fun e =>
    e.line == some l && e.bytes.any fun w => w.mask != 255)

/-- The state with a store entered into a core's write path (R302). Its bytes lie in one line. -/
def enterStore (s : State) (core : Nat) (e : WpStore) : State :=
  s.modCore core fun k => { l1Store k e.ctx e.view e.bytes with wp := k.wp ++ [e] }

/-- The bytes of a store by blocks of n bytes: a write is whole over the bytes that it writes in one line (R297). -/
def byBlock (n : Nat) (ws : List WByte) : List (List WByte) :=
  (distinct (ws.map fun w => w.addr / n)).map fun l => ws.filter fun w => w.addr / n == l

/-- The bytes of a store by lines. -/
def byLine (ws : List WByte) : List (List WByte) := byBlock 128 ws

/-- The state with bytes stored by an agent of a core under a view: one write-path entry for each line, each with
the release that the store carries (R305). -/
def storeBytes (s : State) (core ctx view : Nat) (rel : Option Nat) (reel : Bool) (ws : List WByte) : State :=
  (byLine ws).foldl (fun s g =>
    enterStore s core { ctx := ctx, view := (s.ctx ctx).resolve view, bytes := g, rel := rel, reel := reel }) s

/-! ## Loads -/

/-- The byte of an address that an agent of a core reads past the L1 under a view (R302, R307). -/
def missByte (s : State) (core ctx view cl a : Nat) : Byte :=
  let wp := (s.core core).wp
  let committed := wpCommitted wp a (l2Byte s (dieOf core) cl a)
  pathByte s wp ctx a committed ((s.ctx ctx).path view)

/-- Whether an L1 line may serve a reader of an address (R307): not one filled from a guest line that is older than
the reader's acquires. -/
def l1Fresh (s : State) (core : Nat) (q : Acq) (x : Xlat) (l : L1Line) : Bool :=
  !(isGuest s.module (dieOf core) x.cl x.a) || decide (q.stamp x.a ≤ l.fill)

/-- A global load of n bytes in one line (R90, R283, R302, R307, R316, R320): its bytes, and the state with
the L1 and the guest line touched or filled. -/
def loadLine (s : State) (core ctx view : Nat) (q : Acq) (x : Xlat) (n rd : Nat) (reel : Bool) :
    List Byte × State :=
  let view := (s.ctx ctx).resolve view
  let line := lineOf x.a
  let addrs := (List.range n).map fun i => x.a + i
  let s := drainHalf s core [line]
  match if x.cl = 0 then (l1Find (s.core core) ctx view line).filter fun p => l1Fresh s core q x p.2 else none with
  | some (place, l) =>
    (addrs.map fun a => BitVec.ofNat 8 (l.data >>> (8 * (a % 128))),
     s.modCore core fun k => { k with l1 := k.l1.set place { l with rrpv := 0 } })
  | none =>
    let s := if isGuest s.module (dieOf core) x.cl x.a then guestEnsure s (dieOf core) line q else s
    let bs := addrs.map fun a => missByte s core ctx view x.cl a
    if x.cl = 0 then
      let data := ofBytes ((List.range 128).map fun i => missByte s core ctx view x.cl (128 * line + i))
      (bs, s.modCore core fun k =>
        l1Fill k { ctx := ctx, view := view, line := line, rrpv := if reel then x.minrd else max rd x.minrd
                   fill := guestFill s (dieOf core) line, data := data })
    else (bs, s)

/-- The byte that an mma or an engine command of a core reads: past the L1, at the home, with the write path
of its core first (R295, R302), and what stands at the die's guest lines on its way to the home (R297). -/
def engineByte (s : State) (core ctx view a : Nat) : Byte :=
  let wp := (s.core core).wp
  let view := (s.ctx ctx).resolve view
  pathByte s wp ctx a (wpCommitted wp a (dieByte s (dieOf core) a)) ((s.ctx ctx).path view)

/-! ## Release records and acquires -/

/-- Whether an agent at a scope includes another (R296). The host is device 64. -/
def includes (core dev scope core' dev' : Nat) : Bool :=
  if scope = 4 then true
  else dev == dev' &&
    (if scope = 3 then true
     else if scope = 2 then dieOf core == dieOf core'
     else if scope = 1 then clusterOf core == clusterOf core'
     else core == core')

/-- Whether a record passes the check of an acquiring read (R305). -/
def RelRec.passes (r : RelRec) (core dev scope : Nat) : Bool :=
  includes core dev scope r.core r.dev && includes r.core r.dev r.scope core dev

/-- The check of R305 on a global line. -/
def lineAcquires (s : State) (core scope line : Nat) : Bool :=
  match s.rels.find line with
  | none => true
  | some r => r.passes core s.module.devnum scope

/-- What an acquire at a scope does to the core (R94, R304): at CLUSTER or wider the L1 is invalidated. -/
def acquireCore (s : State) (core scope : Nat) : State :=
  if scope = 0 then s else s.modCore core Core.clearL1

/-! ## The on-chip spaces -/

/-- The owner of a space for an agent of a core, which names its storage in a release record. -/
def spOwner (s : State) (core space : Nat) : Nat :=
  match space with
  | 2 => (s.crew core).flight
  | 3 => 2 * (s.flight (s.crew core).flight).ascent + dieOf core
  | _ => core

/-- The chip scratchpad allotment of the crew's ascent on its die (R201). -/
def chipOf (s : State) (core : Nat) : Chip :=
  (s.chips.find? fun c => c.ascent == (s.flight (s.crew core).flight).ascent && c.die == dieOf core).getD {}

/-- The extent of a space allotted to the crew of a core (Table 10-1). -/
def extent (s : State) (core space : Nat) : Nat :=
  match space with
  | 1 => 2097152
  | 2 => (s.flight (s.crew core).flight).cores.length * 1048576
  | 3 => (chipOf s core).size
  | 4 => 262144
  | _ => 0

/-- The bytes of a space as the crew of a core sees it. -/
def spMem (s : State) (core space : Nat) : List Host.Cell :=
  match space with
  | 1 => (s.crew core).scratch
  | 2 => (s.flight (s.crew core).flight).shared
  | 3 => (chipOf s core).data
  | 4 => (s.crew core).lanes
  | _ => []

/-- The state with the bytes of a space changed. -/
def setSpMem (s : State) (core space : Nat) (m : List Host.Cell) : State :=
  match space with
  | 1 => s.modCrew core fun w => { w with scratch := m }
  | 2 => s.modFlight (s.crew core).flight fun f => { f with shared := m }
  | 3 =>
    let asc := (s.flight (s.crew core).flight).ascent
    { s with chips := s.chips.map fun c =>
        if c.ascent = asc ∧ c.die = dieOf core then { c with data := m } else c }
  | 4 => s.modCrew core fun w => { w with lanes := m }
  | _ => s

/-- The n bytes of a space at an offset. -/
def spRead (s : State) (core space a n : Nat) : Nat := memRead (spMem s core space) a n

/-- The state with masked bytes written to a space, at its bank (R205). -/
def spWrite (s : State) (core space : Nat) (ws : List WByte) : State :=
  setSpMem s core space (memMerge (spMem s core space) ws)

/-- The state with the release record of the lines of a space set (R305). -/
def spRelease (s : State) (core space scope : Nat) (lines : List Nat) : State :=
  let o := spOwner s core space
  let rec_ : RelRec := { core := core, dev := s.module.devnum, scope := scope }
  { s with sprels :=
      (s.sprels.filter fun r => !(r.space == space && r.owner == o && lines.contains r.line)) ++
        lines.map fun l => { space := space, owner := o, line := l, rr := rec_ } }

/-- The check of R305 on a line of a space; a bank line is 64 bytes (R204). -/
def spAcquires (s : State) (core space scope line : Nat) : Bool :=
  match s.sprels.find? fun r => r.space == space && r.owner == spOwner s core space && r.line == line with
  | none => true
  | some r => r.rr.passes core s.module.devnum scope

end Sys2Proof.Machine
end

