-- ==== Sys2Proof/Machine/Ops.lean ====
section
/-!
DEFINITION. The named operations on a kite: its registers (R28, R79, R130), its program position (R52, R53,
R71), strips (R299 to R301), waiting (R49, R103), taking a trap and returning from it (R291, R363 to R365,
R370), and the frame that every instruction issues in (R26, R31, R55, R58).
Open points: logs 9 (DEDUCED), 10 (DEDUCED), 11 (DEDUCED, DESIGN CHOICE).
-/
namespace Sys2Proof.Machine

/-! ## Registers -/

/-- s[i]; s0 reads as zero (R79). -/
def Kite.sget (k : Kite) (i : Nat) : Word := if i = 0 then 0 else k.s.get i

/-- A write of s[i]; a write to s0 is discarded (R28). -/
def Kite.sset (k : Kite) (i : Nat) (x : Word) : Kite := if i = 0 then k else { k with s := k.s.set i x }

/-- The number of bits that a predicate holds (R130). -/
def Kite.pbits (k : Kite) : Nat := 2 * k.mvlb

/-- p[i] as a number of 2 × MVLB bits; p0 reads as ones (R130). -/
def Kite.pget (k : Kite) (i : Nat) : Nat := if i = 0 then ones k.pbits else k.p.get i

/-- A write of p[i]; p0 is no destination (R28). -/
def Kite.pset (k : Kite) (i : Nat) (x : Nat) : Kite := if i = 0 then k else { k with p := k.p.set i (x % 2 ^ k.pbits) }

/-- Every bit of p[i] set to b (R82). -/
def Kite.pfill (k : Kite) (i : Nat) (b : Bool) : Kite := k.pset i (if b then ones k.pbits else 0)

/-- The guard of an instruction: p[GP], or its complement with GN (R26), as a number of 2 × MVLB bits. -/
def Kite.guardMask (k : Kite) (f : Fields) : Nat :=
  if f.gn then ones k.pbits ^^^ k.pget f.gp.toNat else k.pget f.gp.toNat

/-- Bit j of the guard; a bit beyond the predicate reads 0 before GN (R130). -/
def Kite.guardBit (k : Kite) (f : Fields) (j : Nat) : Bool :=
  xor f.gn (decide (j < k.pbits) && bit (k.pget f.gp.toNat) j)

/-- A register or immediate operand as C is decoded in R81: class 1, 12 or 13; 0 where there is none. -/
def Kite.opd (k : Kite) : Operand → Word
  | .s i => k.sget i.toNat
  | .simm x => sext x.toNat 16
  | .uimm x => zext x.toNat 16
  | _ => 0

/-- The address of a memory operand, class 14 (R27). -/
def Kite.memAddr (k : Kite) : Operand → Nat
  | .mem b o => (k.sget b.toNat + sext o.toNat 11).toNat
  | _ => 0

/-- A block buffer (R52). -/
def Kite.buf (k : Kite) (j : Nat) : Buf := if j = 0 then k.buf0 else k.buf1

/-- A kite with a block buffer replaced. -/
def Kite.setBuf (k : Kite) (j : Nat) (b : Buf) : Kite := if j = 0 then { k with buf0 := b } else { k with buf1 := b }

/-- The address of the kite's position (R52). -/
def Kite.addr (k : Kite) : Nat := (k.buf k.cur).base + 12 * k.idx

/-- The kite of Table 3-2 at a launch, with the ROLE of the variant and the length granted. -/
def Kite.launch (role mvlb : Nat) : Kite :=
  { st := .landed, role := role, mvlb := mvlb, vlen := mvlb }

/-! ## Position -/

/-- A trap before its taking: cause, FAULTVA, FAULTELT (Table 18-2). -/
structure Trap where
  cause : Nat
  va    : Word
  elt   : Word := 0
  deriving DecidableEq, Repr

/-- Whether an address lies in a valid buffer (R53). -/
def Buf.holds (b : Buf) (a : Nat) : Bool := b.valid && b.base ≤ a && a < b.base + 12 * b.slots

/-- The lines of a buffer that slot i touches (R54). -/
def slotLines (i : Nat) : List Nat := distinct [12 * i / 64, (12 * i + 11) / 64]

/-- locate of R53. -/
def Kite.locate (k : Kite) (a : Nat) : Except Trap (Nat × Nat) :=
  let order := [k.cur, 1 - k.cur]
  match order.find? fun j => (k.buf j).holds a && (a - (k.buf j).base) % 12 == 0 with
  | some j => .ok (j, (a - (k.buf j).base) / 12)
  | none =>
    if order.any fun j => (k.buf j).holds a then .error { cause := 0x03, va := BitVec.ofNat 64 a }
    else .error { cause := 0x02, va := BitVec.ofNat 64 a }

/-- next of R53: the position after the kite's. -/
def Kite.nextPos (k : Kite) : Except Trap (Nat × Nat) :=
  if k.idx + 1 < (k.buf k.cur).slots then .ok (k.cur, k.idx + 1)
  else k.locate ((k.buf k.cur).base + 12 * (k.buf k.cur).slots)

/-- goto_slot of R71. -/
def Kite.gotoSlot (k : Kite) (j i : Nat) : Except Trap (Nat × Nat) :=
  let b := k.buf j
  if !b.valid || b.slots ≤ i then .error { cause := 0x02, va := BitVec.ofNat 64 (b.base + 12 * i) }
  else .ok (j, i)

/-! ## Strips -/

/-- A pending store performs at CORE scope (R300): it enters the write path, or reaches its bank. -/
def performPend (s : State) (c : Nat) (p : PendStore) : State :=
  if p.space = 0 then storeBytes s c (s.crew c).ctx p.view p.rel false p.bytes
  else
    let s := spWrite s c p.space p.bytes
    match p.rel with
    | some sc => spRelease s c p.space sc (distinct (p.bytes.map fun w => w.addr / 64))
    | none => s

/-- Every pending store of a kite performs, in order. -/
def flushPend (s : State) (c k : Nat) : State :=
  ((s.kite c k).pend.foldl (fun s p => performPend s c p) s).modKite c k fun x => { x with pend := [] }

/-- The matrix instructions of a kite as its strip closes: the operand reads of its mma come before those of later
strips and before later accesses (R301). -/
def Crew.leaveReads (w : Crew) (k : Nat) : Crew :=
  { w with tq := w.tq.each fun q => q.map fun m => if m.owner = k then { m with age := m.age + 1 } else m }

/-- The kite's strip closes (R299, R301): its stores have performed at CORE scope, the operand reads of its mma are
those of an earlier strip, and a new strip has read no line. -/
def closeStrip (s : State) (c k : Nat) : State :=
  ((flushPend s c k).modCrew c fun w => w.leaveReads k).modKite c k fun x => { x with reads := [], ahead := [] }

/-- An acquire of a kite that closes no strip: its later reads are read anew (R94, R304). -/
def Kite.readAnew (x : Kite) : Kite := { x with ahead := [] }

/-! ## Traps -/

/-- An event posted to the reel of a core (R365). -/
def postEvent (s : State) (c : Nat) (e : Event) : State :=
  s.modCrew c fun w => { w with events := w.events ++ [e] }

/-- Whether an entry of a vector queue has been dispatched, an spsrch with its first row (R271). -/
def VqEntry.begun (e : VqEntry) : Bool := e.dispatched || !e.slots.isEmpty

/-- The kite after steps 2 to 4 of R291: the parent's view, no region, nothing undispatched in its queue, no
arrival outstanding for a discarded marker, and the position of the regb. -/
def Kite.rewound (k : Kite) (r : Region) : Kite :=
  let gone := k.vq.filter fun e => !e.begun
  { k with tintv := r.parent, region := none, vq := k.vq.filter VqEntry.begun, mmRun := false
           arr := gone.foldl (fun (a : Tab Nat) e => match e.marker with | some m => a.del m.unit | none => a) k.arr
           repAct := false, repDone := 0, repCount := 0, repRun := false, mmAct := false, mmIdx := 0
           cur := r.cur, idx := r.idx }

/-- A fix that a kite's rege asked for and that has not started is withdrawn (log 9). -/
def dropFix (s : State) (c k : Nat) : State :=
  let ctx := (s.crew c).ctx
  s.modCtx ctx fun x => { x with tops := x.tops.filter fun o => !(o.core == c && o.agent == k && !o.started && !o.bleach) }

/-- Whether the bleach of a kite's rewind waits in its context's table. -/
def rewindAsked (s : State) (c k : Nat) : Bool :=
  (s.ctx (s.crew c).ctx).tops.any fun o => o.rewind && o.core == c && o.agent == k

/-- The bleach of a region's tint as it rewinds (R291 step 1): at once where no other fix or bleach of the context is
under way and no unit of a command has words to write, behind those otherwise (R277); none where the tint is not
live. -/
def bleachRegion (s : State) (c k t : Nat) : State :=
  let ctx := (s.crew c).ctx
  let s := dropFix s c k
  if (s.ctx ctx).tops.isEmpty && !(piecing s ctx) then (if (s.ctx ctx).isLive t then bleachNow s ctx t else s)
  else if rewindAsked s c k then s
  else s.modCtx ctx fun x => { x with tops := x.tops ++ [{ bleach := true, rewind := true, tint := t, core := c, agent := k }] }

/-- FAULTVA and FAULTELT of a trap (R363). -/
def setFault (s : State) (c k : Nat) (t : Trap) : State :=
  s.modKite c k fun x => { x with faultva := t.va, faultelt := t.elt }

/-- The kite parks with a cause, and posts its event (R365). -/
def park (s : State) (c k cause : Nat) (va : Word) (resume : Resume) : State :=
  postEvent (s.modKite c k fun x =>
    { x with st := .parked, cause := cause, wait := .none, repRun := false, mmRun := false, resume := resume, req := none }) c
    { cause := cause, va := va, agent := k, park := true }

/-- The kite moved to a position, waiting there while its buffer fills (R53). -/
def moveTo (s : State) (c k : Nat) (p : Nat × Nat) : State :=
  s.modKite c k fun x =>
    let x := { x with cur := p.1, idx := p.2, resume := .here }
    if (x.buf p.1).filling then { x with st := .waiting, wait := .fill p.1 }
    else { x with st := .flying, wait := .none }

/-- The crew with the stopped mma of a kite free to continue (R237). -/
def Crew.freeStopped (w : Crew) (k : Nat) : Crew :=
  { w with tq := w.tq.each fun q => q.map fun m => if m.owner = k then { m with stopped := false } else m }

/-- A kite whose page is resident goes on at its regb (R291, R341). -/
def retryRegion (s : State) (c k : Nat) : State :=
  let s := (s.modKite c k fun x => { x with cause := 0, req := none, repRun := false }).modCrew c fun w => w.freeStopped k
  moveTo s c k ((s.kite c k).cur, (s.kite c k).idx)

/-- The end of a trap inside a region, once the region's tint has been bleached (R291 steps 2 to 5): the kite parks at
the regb, and posts its event but where it waits on a page request. Where that request was answered RESIDENT while the
bleach waited, which leaves the kite no cause, it goes on there (R341). -/
def endRewind (s : State) (c k : Nat) : State :=
  let x := s.kite c k
  let s := match x.region with
    | none => s
    | some r => s.modKite c k fun y => y.rewound r
  match x.req with
  | none => if x.cause = 0 then retryRegion s c k else park s c k x.cause x.faultva .here
  | some _ => s.modKite c k fun y => { y with st := .parked, wait := .none, repRun := false, mmRun := false, resume := .here }

/-- A trap inside a region (R291): the region's tint is bleached, and the kite waits for that where other fixes or
bleaches of its context come first (R277). -/
def trapRegion (s : State) (c k cause : Nat) (tint : Nat) (req : Option Nat) : State :=
  let s := s.modKite c k fun x => { x with cause := cause, req := req, mmRun := false }
  let s := bleachRegion s c k tint
  if rewindAsked s c k then s.modKite c k fun x => { x with st := .waiting, wait := .rewind } else endRewind s c k

/-- TAKING A TRAP, the one operation for every cause (R363 to R365, R291). The kite sets FAULTVA and FAULTELT,
rewinds an open region, and parks at its position with the cause and the way it will resume; it posts its
event, but for a NOT_PRESENT inside a region, which waits on the page request `req` instead. -/
def trapKite (s : State) (c k : Nat) (t : Trap) (resume : Resume) (req : Option Nat) : State :=
  let s := setFault s c k t
  match (s.kite c k).region with
  | none => park s c k t.cause t.va resume
  | some r => trapRegion s c k t.cause r.tint req

/-- The way in which a kite that parks where it stands resumes: one whose next instruction is still to be located
locates it anew (R53). -/
def Kite.keeps (x : Kite) : Resume := if x.resume = .after then .after else .here

/-- Whether a FLYING or WAITING kite stands in the midst of an instruction that it has issued, which completes before a
late trap parks it (R364): an AtomicOp on its way to the host, or an mmv between two elements. -/
def Kite.midway (x : Kite) : Bool := x.mmRun || match x.wait with | .atomicOp _ => true | _ => false

/-- A late trap (R364, R73): a FLYING or WAITING kite parks at its first instruction not yet issued, once the one in
whose midst it stands has completed; any other kite, and one that is rewinding, keeps its state and posts a further
event. -/
def lateTrap (s : State) (c k : Nat) (t : Trap) (req : Option Nat) : State :=
  let x := s.kite c k
  if (x.st = .flying ∨ x.st = .waiting) ∧ x.wait ≠ .rewind then
    if x.midway then
      s.modKite c k fun x => { x with late := x.late ++ [{ cause := t.cause, va := t.va, elt := t.elt, req := req }] }
    else trapKite s c k t x.keeps req
  else postEvent (setFault s c k t) c { cause := t.cause, va := t.va, agent := k }

/-- The late traps that waited for an instruction of a kite strike, once it is over (R364). -/
def settleLate (s : State) (c k : Nat) : State :=
  let x := s.kite c k
  if x.late.isEmpty || ((x.st == .flying || x.st == .waiting) && x.midway) then s
  else
    x.late.foldl (fun s t => lateTrap s c k { cause := t.cause, va := t.va, elt := t.elt } t.req)
      (s.modKite c k fun x => { x with late := [] })

/-- The trap of a failed translation of a kite (R207, R315, R333, R336, R340, R387); a NOT_PRESENT requests
its page. Kind is that of Table 16-6. -/
def xlatTrap (s : State) (c agent : Nat) (e : XErr) (va elt kind : Nat) : State × Trap × Option Nat :=
  let w : Word := BitVec.ofNat 64 va
  let x : Word := BitVec.ofNat 64 elt
  match e with
  | .absent span =>
    let (s, id) := requestPage s (s.crew c).ctx c agent va kind span
    (s, { cause := 0x05, va := w, elt := x }, some id)
  | .window => (s, { cause := 0x06, va := w, elt := x }, none)
  | _ => (s, { cause := 0x04, va := w, elt := x }, none)

/-! ## Moving on -/

/-- The kite after its instruction: the next position; where R53 finds none, the position stays, and BLOCK_MISS
competes for slot S in place of an instruction (R55). -/
def advance (s : State) (c k : Nat) : State :=
  match (s.kite c k).nextPos with
  | .ok p => moveTo s c k p
  | .error _ => s.modKite c k fun x => { x with st := .flying, wait := .none, resume := .after }

/-- The kite moved to a position, or the trap in its place, with the way it then resumes. -/
def moveOr (s : State) (c k : Nat) (p : Except Trap (Nat × Nat)) (resume : Resume) : State :=
  match p with
  | .ok p => moveTo s c k p
  | .error t => trapKite s c k t resume none

/-- RETURNING FROM A TRAP (R364, R370): the kite flies again at its saved position; after a trap instruction
it continues behind it (R75); after a faulting call or qbr it resolves the target anew (R71), which may
fault again. -/
def resumeKite (s : State) (c k : Nat) : State :=
  let x := s.kite c k
  let s := s.modKite c k fun x => { x with st := .flying, cause := 0, wait := .none, req := none, resume := .here }
  let s := s.modCrew c fun w => w.freeStopped k
  match x.resume with
  | .here => moveTo s c k (x.cur, x.idx)
  | .after => advance s c k
  | .locate a => moveOr s c k (x.locate a) (.locate a)
  | .slot j i => moveOr s c k (x.gotoSlot j i) (.slot j i)

/-- The end of one repetition (R134): the index register steps, DONE rises; after the last one REPST clears
and the kite goes on after the target. The kite's position is the rep. -/
def repAdvance (s : State) (c k : Nat) (idxReg : Option Nat) : State :=
  let s := s.modKite c k fun x =>
    let x := match idxReg with | some i => x.sset i (x.sget i + x.repStep) | none => x
    { x with repDone := x.repDone + 1 }
  let x := s.kite c k
  if x.repDone < x.repCount then s
  else
    let s := s.modKite c k fun x => { x with repAct := false, repDone := 0, repCount := 0, repRun := false }
    match (s.kite c k).nextPos with
    | .error _ => advance s c k
    | .ok p => advance (s.modKite c k fun x => { x with cur := p.1, idx := p.2 }) c k

/-- The word at a position, decoded: none where it is illegal (R30). -/
def Kite.wordAt (k : Kite) (p : Nat × Nat) : Option Instr :=
  match (k.buf p.1).words[p.2]? with
  | none => none
  | some w => decodeKite w

/-- Whether a kite waits for the release part of an atomic (R94, R99). -/
def Kite.releasing (x : Kite) : Bool :=
  x.st == .waiting && x.wait == .release &&
    match x.wordAt (x.cur, x.idx) with
    | some i => (match carugParts i with | some (op, _, _, _) => op == 0x24 || op == 0x25 | none => false)
    | none => false

/-- The index register of the rep at the kite's position, if it names one. -/
def Kite.repIndex (k : Kite) : Option Nat :=
  match k.wordAt (k.cur, k.idx) with
  | some (.rep f) => (match f.b with | .s i => some i.toNat | _ => none)
  | _ => none

/-- The instruction retires (R53, R58, R134): the kite moves on; YLD makes it not ready on the next clock. -/
def retire (s : State) (c k : Nat) (yld : Bool) : State :=
  let x := s.kite c k
  let s := s.modKite c k fun x => { x with waitCount := 0, yielded := yld }
  if x.repRun then repAdvance s c k x.repIndex else advance s c k

/-- The kite WAITING at its instruction (R49): since when, for the watchdog (R103). -/
def waitKite (s : State) (c k : Nat) (w : WaitOn) : State :=
  let now := s.cycle c
  s.modKite c k fun x => { x with st := .waiting, wait := w, since := now, waitCount := 0 }

/-! ## Issue -/

/-- How the body of an instruction ends. -/
inductive Res where
  /-- it retires -/
  | done (s : State)
  /-- it transfers control to a position, or raises as it resolves one -/
  | jump (s : State) (p : Except Trap (Nat × Nat)) (resume : Resume)
  /-- it cannot issue: the kite waits -/
  | wait (s : State) (w : WaitOn)
  /-- the kite is not ready with it (R55): nothing happens -/
  | notReady
  /-- it raises -/
  | raise (s : State) (t : Trap) (resume : Resume) (req : Option Nat)
  /-- it leaves the kite where its own rule says -/
  | stay (s : State)

/-- The registers v[r] to v[r + n − 1]. -/
def span (r n : Nat) : List Nat := (List.range n).map (r + ·)

/-- The vector registers of an operand. -/
def opdRegs (o : Operand) (n : Nat) : List Nat := match o with | .v r => span r.toNat n | _ => []

/-- The registers that an instruction reads as vector sources, in the order B, C, A: vtrans8 and vcvtq read
eight in B; vfma and vmadd read A. -/
def vecReads (op : Nat) (f : Fields) : List Nat :=
  let wide := if op = 0x48 ∨ op = 0x67 then 8 else 1
  distinct (opdRegs f.b wide ++ opdRegs f.c 1 ++ if op = 0x53 ∨ op = 0x62 then opdRegs f.a 1 else [])

/-- The registers that an instruction writes: vtrans8 eight, vzip and spsrch two, nsort also its C. -/
def vecWrites (op : Nat) (f : Fields) : List Nat :=
  opdRegs f.a (if op = 0x48 then 8 else if op = 0x49 ∨ op = 0x9B then 2 else 1) ++
    if op = 0x87 then opdRegs f.c 1 else []

/-! ### What holds an instruction back -/

/-- The instructions that close a strip (R299). -/
def closesStrip (op : Nat) (f : Fields) : Bool :=
  [0x16, 0x27, 0x28, 0x2A, 0x2B, 0x2C, 0x40, 0x98].contains op || ((op == 0x24 || op == 0x25) && f.xf != 0)

/-- The instructions that access memory, the readers of a bound register among them (R215, R300). -/
def Kite.accesses (x : Kite) (op : Nat) (f : Fields) : Bool :=
  (decide (0x20 ≤ op) && decide (op ≤ 0x26)) || (decide (0x70 ≤ op) && decide (op ≤ 0x76)) ||
    [0x79, 0x88, 0x89, 0x91].contains op || (vecReads op f).any fun r => (x.binds.find r).isSome

/-- The accesses and pushes that come after the earlier scalar stores of the kite (R102, R300); a store that is put
off itself may stand behind one that is. -/
def afterStores (op : Nat) (hold : Bool) : Bool :=
  [0x20, 0x22, 0x24, 0x25, 0x26, 0x30, 0x33].contains op || (!hold && (op == 0x21 || op == 0x23))

/-- Whether an entry under way is a reader of bound registers: what it waits for is the data of their streams (R215), and
not that of a load. -/
def VqEntry.trails (e : VqEntry) : Bool := !([0x70, 0x72, 0x74, 0x75, 0x88].contains e.op)

/-- The vector registers that an entry under way keeps from later instructions: those that its data goes to, and of a
reader of bound registers those that it reads. -/
def VqEntry.keepsRegs (e : VqEntry) : List Nat :=
  vecWrites e.op e.f ++ if e.trails then vecReads e.op e.f else []

/-- The predicate that an entry under way writes, a vldff p[C] (R211) and a reader of bound registers p[A], but p0, which
none does. -/
def VqEntry.keepsPred (e : VqEntry) (o : Operand) : Bool :=
  match if e.op = 0x74 then e.f.c else e.f.a, o with
  | .p i, .p j => i == j && i != 0
  | _, _ => false

/-- Whether an operand names a scalar register. -/
def namesScalar (o : Operand) (r : Nat) : Bool :=
  match o with | .s i | .mem i _ => i.toNat == r | _ => false

/-- Whether a vext under way lets an instruction pass: a load or a store without s[A] among its operands. -/
def VqEntry.passes (e : VqEntry) (op : Nat) (f : Fields) : Bool :=
  decide (0x20 ≤ op) && decide (op ≤ 0x76) && (decide (op ≤ 0x23) || decide (0x70 ≤ op)) &&
    !([f.a, f.b, f.c].any fun o => namesScalar o (opdValue e.f.a))

/-- Whether data under way comes before the guard of an instruction is read (R211). -/
def Kite.guardComes (x : Kite) (f : Fields) : Bool :=
  x.vq.any fun e => e.load.isSome && e.keepsPred (.p f.gp)

/-- The instructions on shapes, carries and routing counters. -/
def nestedOp (op : Nat) : Bool := (decide (0x80 ≤ op) && decide (op ≤ 0x8B)) || [0x9B, 0x9C].contains op

/-- Whether an instruction names a register whose data is under way (R123): a vector register, a predicate, the scalar of
a vext, with the nested instructions a shape, a carry or a counter, or with the matrix instructions the tile of a maccwr. -/
def VqEntry.keeps (e : VqEntry) (op : Nat) (f : Fields) : Bool :=
  (vecReads op f ++ vecWrites op f).any e.keepsRegs.contains || [f.a, f.b, f.c].any e.keepsPred ||
    (nestedOp e.op && nestedOp op) || (e.op == 0x4C && !(e.passes op f)) ||
    (e.op == 0x94 && decide (0x90 ≤ op) && decide (op ≤ 0x97))

/-- Whether a crew holds mma of a kite that `n` or more strips have closed since (R301). -/
def Crew.mmaLeft (w : Crew) (k n : Nat) : Bool :=
  w.tq.has fun q => q.any fun m => m.owner == k && decide (n ≤ m.age) && m.op == 0x92

/-- Whether an instruction cannot issue yet (R55): its guard or registers are those of a load under way, or it closes the
strip of one (R123, R301); it would access memory before the reads of a strip that is over, or that it closes itself
(R299, R301); or it comes after a scalar store that has not performed (R300). -/
def Kite.blocked (x : Kite) (w : Crew) (k op : Nat) (f : Fields) (hold : Bool) : Bool :=
  x.guardComes f || (x.vq.any fun e => e.load.isSome && (closesStrip op f || e.keeps op f)) ||
  (w.mmaLeft k (if closesStrip op f then 0 else 1) && x.accesses op f) ||
  (x.pend.any (·.scalar) && afterStores op hold)

/-! ### The frame -/

/-- Instructions that read the guard per element (R26): vector forms but setvl, getmvl and rep, the nested
forms but nshld, nshst, nkrd and nkwr, and spsrch. -/
def elementGuard (op : Nat) : Bool :=
  (0x43 ≤ op && op ≤ 0x78) || (0x80 ≤ op && op ≤ 0x87) || op == 0x9B

/-- The frame of every Carug instruction: a kite that is not FLYING takes none; a word that fails R30 raises
ILLEGAL_OP whatever its guard (R31); under a false scalar guard the instruction only retires (R26), once the guard is
there (R211); one that cannot issue yet changes nothing (R55); otherwise its body runs. -/
def issue (i : Instr) (s : State) (body : State → Nat → Nat → Kite → Res) : State :=
  match s.cur, carugParts i with
  | .kite c k, some (op, _, _, f) =>
    let x := s.kite c k
    if x.st ≠ .flying then s
    else if !(legalInstr i) then
      trapKite s c k { cause := 0x01, va := BitVec.ofNat 64 x.addr } .here none
    else if x.guardComes f then s
    else if !(elementGuard op) && !(x.guardBit f 0) then retire s c k f.yld
    else if x.blocked (s.crew c) k op f s.hold then s
    else
      match body s c k x with
      | .done s => retire s c k f.yld
      | .jump s (.ok p) _ => moveTo (s.modKite c k fun x => { x with waitCount := 0, yielded := f.yld }) c k p
      | .jump s (.error t) r => trapKite s c k t r none
      | .wait s w => waitKite s c k w
      | .notReady => s
      | .raise s t r q => trapKite s c k t r q
      | .stay s => s
  | _, _ => s

/-- The frame of an instruction that only changes the kite's own registers. -/
def issueReg (i : Instr) (s : State) (g : Kite → Kite) : State :=
  issue i s fun s c k _ => .done (s.modKite c k g)

end Sys2Proof.Machine
end

