-- ==== Sys2Proof/Machine/Operands.lean ====
section
/-!
DEFINITION. The operand forms of vector instructions (R115, R116, R119, R130, R154, R158, R160): elements and
their validity, what an instruction captures, and the write of a destination.
Open points: logs 15 (DEDUCED), 16 (DESIGN CHOICE).
-/
namespace Sys2Proof.Machine

/-! ## Registers and elements -/

/-- v[i]. -/
def Kite.vget (x : Kite) (i : Nat) : VReg := x.v.get i

/-- v[i] with its contents changed, its binding kept: what a stream decode does. -/
def Kite.vput (x : Kite) (i : Nat) (r : VReg) : Kite := { x with v := x.v.set i r }

/-- A write of v[i] by an instruction: the register is unbound first (R215). -/
def Kite.vset (x : Kite) (i : Nat) (r : VReg) : Kite := { x with v := x.v.set i r, binds := x.binds.del i }

/-- Element i of a register under a type (R116). -/
def VReg.elem (r : VReg) (ty i : Nat) : Nat := (r.data >>> (widthOf ty * i)) % 2 ^ widthOf ty

/-- Validity bit b of a register (R115). -/
def VReg.valid (r : VReg) (b : Nat) : Bool := !(bit r.inval b)

/-- Byte b of the scales of a register's blocks, and of the spares (R141). -/
def VReg.scaleAt (r : VReg) (b : Nat) : Nat := (r.scale >>> (8 * b)) % 256
def VReg.spareAt (r : VReg) (b : Nat) : Nat := (r.spare >>> (8 * b)) % 256

/-- cap(ty) of R116. -/
def capOf (mvlb ty : Nat) : Nat := mvlb * 8 / widthOf ty

/-- The active elements of an instruction (R119). -/
def VCtx.count (x : VCtx) (ty : Nat) : Nat := x.len * 8 / widthOf ty

/-- The guard bit of element i (R26, R130). -/
def VCtx.on (x : VCtx) (i : Nat) : Bool := bit x.guard i

/-- The mode that RM resolves to (R144). DESIGN CHOICE (log 16): an instruction that does not round, whose RM field is 0,
decodes its bound sources under RNE; R154 and R215 also admit FPCTL.RM as it was captured. -/
def Kite.mode (x : Kite) (f : Fields) : Nat := if f.rm = 7 then x.rm else f.rm.toNat

/-- What an instruction captures when it issues (R119, R154). -/
def Kite.capture (x : Kite) (f : Fields) : VCtx :=
  { len := x.vlen, rm := x.mode f, ftz := x.ftz, sat := x.sat, seed := x.seed, guard := x.guardMask f
    sb := x.opd f.b, sc := x.opd f.c, sc1 := x.sget ((opdValue f.c + 1) % 32), view := x.tintv }

/-- SEED after the issue of an instruction whose mode is SRS (R146). -/
def Kite.advanceSeed (x : Kite) (f : Fields) : Kite :=
  if x.mode f = 5 then { x with seed := x.seed + 0x9E3779B97F4A7C15#64 } else x

/-- The rounding of element i (R145, R146); SAT acts where the instruction converts (R147). -/
def VCtx.rounding (x : VCtx) (conv : Bool) (i : Nat) : Rounding :=
  { rm := x.rm, ftz := x.ftz, sat := conv && x.sat, rnd := srsMix x.seed.toNat i }

/-- An element as a source gives it: its bits and its source validity (R160). -/
structure Elem where
  v  : Nat := 0
  ok : Bool := true
  deriving DecidableEq, Repr, Inhabited

/-- An element of v[r] under a type, with the validity of its block. -/
def Kite.velem (x : Kite) (ty r i : Nat) : Elem := { v := (x.vget r).elem ty i, ok := (x.vget r).valid (i / 32) }

/-- A scalar operand truncated to an element. -/
def scalarElem (ty : Nat) (w : Word) : Elem := { v := w.toNat % 2 ^ widthOf ty }

/-- The C operand at element i, a vector, a scalar or an immediate (R158). -/
def Kite.celem (x : Kite) (c : VCtx) (ty : Nat) (o : Operand) (i : Nat) : Elem :=
  match o with
  | .v r => x.velem ty r.toNat i
  | _ => scalarElem ty c.sc

/-! ## Writing a destination -/

/-- An element that an instruction writes: its bits, its source validity, its flags. -/
structure Out where
  v  : Nat := 0
  ok : Bool := true
  fl : Nat := 0
  deriving DecidableEq, Repr, Inhabited

/-- The register with the elements that `g` gives written (R119, R160). -/
def VReg.writeData (r : VReg) (ty count : Nat) (g : Nat → Option Out) : VReg :=
  let w := widthOf ty
  iter count (fun i r => match g i with | some o => { r with data := setBits r.data (w * i) w o.v } | none => r) r

/-- Validity bit j after a write (R160): the AND of the source validities of the elements written in block j
and, if the block keeps an element, its old bit; the old bit where nothing is written. `cap` bounds the
elements of the register. -/
def blockValid (old : Bool) (cap count j : Nat) (g : Nat → Option Out) : Bool :=
  let is := (List.range 32).map fun k => 32 * j + k
  let is := is.filter fun i => decide (i < cap)
  let outs := is.map fun i => if i < count then g i else none
  if outs.all fun o => o.isNone then old
  else outs.all fun o => match o with | some e => e.ok | none => old

/-- The validity bits after a write. -/
def VReg.writeValid (r : VReg) (cap count : Nat) (g : Nat → Option Out) : VReg :=
  let inval := iter (ceilDiv count 32) (fun j m => setBit m j (!(blockValid (r.valid j) cap count j g))) r.inval
  { r with inval := inval }

/-- The flags of a write (R150): those of elements whose block the instruction leaves valid. -/
def outFlags (r : VReg) (count : Nat) (g : Nat → Option Out) : Nat :=
  iter count (fun i m => match g i with | some o => if r.valid (i / 32) then m ||| o.fl else m | none => m) 0

/-- The kite with elements 0 to count − 1 of v[a] written under a type where `g` gives one, tag and link set;
and the flags (R115, R119, R150, R160). -/
def Kite.writeVec (x : Kite) (a ty count : Nat) (link : Option Nat) (g : Nat → Option Out) : Kite × Nat :=
  let r := (x.vget a).writeData ty count g
  let r := r.writeValid (capOf x.mvlb ty) count g
  (x.vset a { r with tag := ty, link := link }, outFlags r count g)

/-- An element function under the guard: what `writeVec` takes. -/
def guarded (c : VCtx) (g : Nat → Out) (i : Nat) : Option Out := if c.on i then some (g i) else none

/-- The link of a vector destination: that of the first vector source in the order B, C, A (R159). -/
def Kite.linkOf (x : Kite) (f : Fields) : Option Nat :=
  match f.b, f.c with
  | .v b, _ => (x.vget b.toNat).link
  | _, .v c => (x.vget c.toNat).link
  | _, _ => (x.vget (opdValue f.a)).link

/-- A predicate with bits 0 to count − 1 written where `g` gives one; every other bit kept. -/
def Kite.writePred (x : Kite) (p count : Nat) (g : Nat → Option Bool) : Kite :=
  x.pset p (iter count (fun i m => match g i with | some b => setBit m i b | none => m) (x.pget p))

/-- LST (R127): registers read and not written read as zero, valid, unlinked; the tag stays, and so does a
bound register. -/
def Kite.lastUse (x : Kite) (regs : List Nat) : Kite :=
  regs.foldl (fun x r =>
    if (x.binds.find r).isSome then x else x.vput r { tag := (x.vget r).tag }) x

end Sys2Proof.Machine
end

