-- ==== Sys2Proof/Config.lean ====
section
/-!
DEFINITION. What the manual leaves to the implementation or does not fix: free values, as constants with
no body. No proof can see what they are, so every statement holds for each value they could have.
-/
namespace Sys2Proof.Config

/-- A free value: the n-th choice that the manual leaves open (R13); log 2. -/
opaque freeNat : Nat → Nat

/-- A free byte: the n-th byte whose value the manual leaves open (R13, R263); log 2. -/
opaque freeByte : Nat → Byte

/-- The signature that the DMP computes for a cluster from the defect map (R354): the manual gives no
formula, but 0 for a cluster with every resource healthy; and the module's own, for the attestation header (R390).
Arguments: the cluster, 12 for the module, and the defect maps of its cores, 17 bits each (8 lane groups, 8 column
groups, the core). -/
opaque signature : Nat → Nat → Word

/-- Whether a firmware image verifies under the fused key (R389): the key is the module's own. -/
opaque verifies : List Byte → Bool

/-- The SLH-DSA signature of 29,792 bytes of a message with the device key (R389, R390): the key is the module's own. -/
opaque sign : List Byte → BitVec 238336

/-- The device key's public key of 64 bytes (R389, R390). -/
opaque publicKey : BitVec 512

/-- The signature of 29,792 bytes that Salline makes of the device key's public key (R390). -/
opaque keySignature : BitVec 238336

/-- The bytes of one entry of the replay-capture ring (R391): the manual gives no layout. Arguments: the
kind of the entry and the values it records. -/
opaque replayBytes : Nat → List Nat → List Byte

/-- stval of an illegal-instruction exception, which the privileged specification leaves to the
implementation: the word, or zero. -/
opaque illegalTval : RWord → Word

/-- stval of the breakpoint of an ebreak: its address, or zero. -/
opaque breakTval : Nat → Word

end Sys2Proof.Config
end

