-- ==== Sys2Proof/Machine/ReelOps.lean ====
section
/-!
DEFINITION. The named operations on a reel and on a crew: registers, exceptions and user events (R366 to
R369), the kill of a kite (R65, R243, R292), the end of a crew (R356, R368), and the reel's accesses to
memory (R303, R333, R340).
Open points: logs 1 (DESIGN CHOICE), 5 (DESIGN CHOICE), 12 (DEDUCED, DESIGN CHOICE), 13 (DEDUCED).
-/
namespace Sys2Proof.Machine

/-! ## Registers -/

/-- x[i]; x0 reads as zero. -/
def Reel.xget (r : Reel) (i : Nat) : Word := if i = 0 then 0 else r.x.get i

/-- A write of x[i]; a write to x0 is discarded. -/
def Reel.xset (r : Reel) (i : Nat) (v : Word) : Reel := if i = 0 then r else { r with x := r.x.set i v }

/-- A virtual address or program counter of 64 bits. -/
def wrap64 (a : Nat) : Nat := a % 2 ^ 64

/-- The reel after an instruction: its pc at the given address, waiting for nothing. -/
def reelJump (s : State) (c : Nat) (pc : Nat) : State :=
  s.modReel c fun r => { r with pc := wrap64 pc, wait := .none }

/-- The reel after an instruction that falls through. -/
def reelNext (s : State) (c : Nat) : State := reelJump s c ((s.reelOf c).pc + 4)

/-- The reel after an instruction that writes rd. -/
def reelWrite (s : State) (c : Nat) (rd : BitVec 5) (v : Word) : State :=
  reelNext (s.modReel c fun r => r.xset rd.toNat v) c

/-- The reel waiting at its instruction; a wait that has begun keeps its start (R103). -/
def reelWait (s : State) (c : Nat) (w : WaitOn) : State :=
  let now := s.cycle c
  s.modReel c fun r => if r.wait = w then r else { r with wait := w, since := now }

/-! ## The kill of a kite -/

/-- Steps 2 and 3 of R291 for a kite that lands or is killed with its region open (R292): the position stays. -/
def unwindHere (s : State) (c k : Nat) : State :=
  match (s.kite c k).region with
  | none => s
  | some r => s.modKite c k fun y => { y.rewound r with cur := y.cur, idx := y.idx }

/-- Steps 1 to 3 of R291 for a kite that lands or is killed with its region open (R292); where the bleach waits behind
other operations (R277), the other two follow as it ends, and the region names its tint till then (R288). -/
def rewindHere (s : State) (c k : Nat) : State :=
  match (s.kite c k).region with
  | none => s
  | some r =>
    let s := bleachRegion s c k r.tint
    if rewindAsked s c k then s else unwindHere s c k

/-- The tile queues of a crew without the stopped mma of a kite and what is queued behind it (R243). -/
def Crew.dropStopped (w : Crew) (k : Nat) : Crew :=
  { w with tq := w.tq.each fun q => if q.any (fun m => m.owner == k && m.stopped) then [] else q }

/-- The tiles of a kite released, their contents kept (R243). -/
def Crew.freeTiles (w : Crew) (k : Nat) : Crew :=
  { w with tiles := w.tiles.filter fun e => e.2.owner != some k }

/-- The flight without the arrival of a kite at an unfinished tshape.flight, or its answer (R227). -/
def Flight.leave (f : Flight) (c k : Nat) : Flight :=
  { f with tsArr := f.tsArr.each fun ps => ps.filter fun p => !(p.core == c && p.kite == k)
           tsDone := f.tsDone.each fun ps => ps.filter fun p => !(p.core == c && p.kite == k) }

/-- The kite of a land or a kill (R73, R65): it drains, and REPST and MMPROG are clear. -/
def Kite.toDraining (x : Kite) (killed : Bool) : Kite :=
  { x with st := .draining, wait := (match x.wait with | .atomicOp a => .atomicOp a | _ => .none), cause := 0, req := none
           repAct := false, repDone := 0, repCount := 0, repRun := false, mmAct := false, mmIdx := 0, mmRun := false
           waitCount := 0, killed := killed, resume := .here }

/-- land, and what land and kill share: the strip closes, an open region rewinds, and the kite drains (R73,
R292, R299); late traps that waited become further events (R73). -/
def drainKite (s : State) (c k : Nat) (killed : Bool) : State :=
  let s := closeStrip (dropFix s c k) c k
  let s := rewindHere s c k
  settleLate ((s.modKite c k fun x => x.toDraining killed).modCrew c fun w => w.dropStopped k) c k

/-- kite.kill of one kite (R65): a kite that is FLYING, WAITING or PARKED drains. -/
def killKite (s : State) (c k : Nat) : State :=
  match (s.kite c k).st with
  | .flying | .waiting | .parked =>
    (drainKite s c k true).modFlight (s.crew c).flight fun f => f.leave c k
  | _ => s

/-- kite.kill of the kites of a mask. -/
def killMask (s : State) (c m : Nat) : State :=
  iter 16 (fun k s => if bit m k then killKite s c k else s) s

/-- The mask of the kites in a state that p admits. -/
def kitesWith (s : State) (c : Nat) (p : KState → Bool) : Nat :=
  (List.range 16).foldl (fun m k => if p (s.kite c k).st then m + 2 ^ k else m) 0

/-- The effective mask of R59. -/
def effMask (s : State) (c : Nat) (x : Word) : Nat := x.toNat % 2 ^ (s.crew c).n

/-! ## The end of a crew -/

/-- Whether 30,000 ticks have passed since the request of the switch-out of a crew's flight (R99, R373). -/
def switchLate (s : State) (c : Nat) : Bool := decide ((s.flight (s.crew c).flight).since + 30000 ≤ s.cycle c)

/-- The ascent of a crew. -/
def ascentOf (s : State) (c : Nat) : Nat := (s.flight (s.crew c).flight).ascent

/-- The cause that a reel event ending a crew leaves for the completion word: the first such crew's, and among
those of one tick the lowest core's (R368). -/
def Ascent.noteCause (a : Ascent) (c cause tick : Nat) : Ascent :=
  if a.endCause.isNone || tick < a.endTick || (tick == a.endTick && c < a.endCore) then
    { a with endCause := some cause, endTick := tick, endCore := c }
  else a

/-- ascent.done begins (R356 step 1), of itself or because a reel event ends the crew (R368): every kite that
is not LANDED is killed, and the crew waits to end. -/
def startEnd (s : State) (c : Nat) (cause : Option Nat) : State :=
  if (s.crew c).ending then s
  else
    let s := killMask s c (ones 16)
    let now := s.cycle c
    let s := (s.modCrew c fun w =>
      { w with ending := true, ports := w.ports.each fun p => { p with res := [] } }).modReel c fun r => { r with wait := .crewDone }
    match cause with
    | none => s
    | some e => s.modAscent (ascentOf s c) fun a => a.noteCause c e now

/-! ## User events -/

/-- Waits that an event or a pre-emption may interrupt (R64, R77, R101, R113, R270). -/
def WaitOn.interruptible : WaitOn → Bool
  | .none | .qpush _ | .qpop _ | .sleep _ | .barArrive _ | .barWait _ | .fbar | .epush _
  | .pushRelease _ _ | .epop _ | .kites _ _ => true
  | _ => false

/-- The waits of an instruction of the reel that has had a part of its effect, which a switch-out lets end (R372,
R376). -/
def WaitOn.begun : WaitOn → Bool
  | .release | .landing _ | .tint _ | .atomicOp _ | .result _ => true
  | _ => false

/-- The event the reel takes next, by the order of R367: its own, PREEMPT, a kite's; and the crew without it. -/
def Crew.nextEvent (w : Crew) : Option (Event × Crew) :=
  match w.events.findIdx? fun e => e.agent == 16 with
  | some i => (w.events[i]?).map fun e => (e, { w with events := dropAt i w.events })
  | none =>
    if w.preempt then some ({ cause := 0x0F, agent := 16 }, { w with preempt := false })
    else match w.events with
      | e :: es => some (e, { w with events := es })
      | [] => none

/-- The taking of a user event (R367): UEVEPC at the instruction not yet executed or waiting, UEVCAUSE and
UEVKITE, and the pc at the handler. -/
def Reel.takeEvent (r : Reel) (e : Event) : Reel :=
  { r with uevEpc := r.pc / 4, uevAct := true, uevCause := e.cause, uevAddr := e.va.toNat % 2 ^ 48
           uevAgent := e.agent, uevPark := e.park, pc := r.uev * 4, wait := .none }

/-- Whether the reel may take a user event, but for its handler (R367). -/
def Crew.eventTime (w : Crew) : Bool :=
  !w.ending && !w.reel.uevAct && !w.reel.sup && w.reel.wait.interruptible

/-- What a boundary before the reel's next instruction does with posted events (R367, R368): none while ACT is
1, in supervisor mode or at an uninterruptible wait; with no handler an event of the reel's own ends the crew
and PREEMPT is dropped; otherwise the next event is taken. Whether the reel now runs its handler or ends. -/
def settleReel (s : State) (c : Nat) : State × Bool :=
  let w := s.crew c
  if !w.eventTime then (s, false)
  else if w.reel.uev = 0 then
    match w.events.find? fun e => e.agent == 16 with
    | some e => (startEnd s c (some e.cause), true)
    | none => (s.modCrew c fun w => { w with preempt := false }, false)
  else
    match w.nextEvent with
    | none => (s, false)
    | some (e, w') => (s.modCrew c fun _ => { w' with reel := w'.reel.takeEvent e }, true)

/-- An event of the reel's own (R368): QUEUE_STALL or PROMISE_MISSED. -/
def reelEvent (s : State) (c cause : Nat) (va : Word) : State :=
  let s := postEvent s c { cause := cause, va := va, agent := 16 }
  if (s.crew c).eventTime && (s.reelOf c).uev == 0 then (settleReel s c).1 else s

/-! ## Exceptions -/

/-- Entry to supervisor mode by an exception, as the privileged specification has it (R369). -/
def Reel.enterSup (r : Reel) (code : Nat) (tval : Word) : Reel :=
  { r with sepc := BitVec.ofNat 64 r.pc, scause := BitVec.ofNat 64 code, stval := tval, spp := r.sup
           spie := r.sie, sie := false, sup := true, pc := r.stvec.toNat / 4 * 4, wait := .none }

/-- TAKING AN EXCEPTION OF THE REEL, the one operation for every code (R368, R369): to supervisor mode through
stvec with SMODE or from supervisor mode, to the user-event handler otherwise; it ends the crew where no
handler takes it. The pc is that of the instruction. -/
def reelRaise (s : State) (c code : Nat) (tval : Word) : State :=
  let w := s.crew c
  let r := w.reel
  if r.sup then
    if code = 9 ∨ r.stvec.toNat / 4 = 0 then startEnd s c (some (0x40 + code))
    else s.modReel c fun r => r.enterSup code tval
  else if w.smode then s.modReel c fun r => r.enterSup code tval
  else if r.uevAct ∨ r.uev = 0 then startEnd s c (some (0x40 + code))
  else s.modReel c fun r => r.takeEvent { cause := 0x40 + code, va := tval, agent := 16 }

/-- The illegal-instruction exception of a word. -/
def reelIllegal (s : State) (c : Nat) (w : RWord) : State := reelRaise s c 2 (Config.illegalTval w)

/-! ## Access to memory -/

/-- The codes of an access of the reel: address misaligned, access fault, page fault. -/
def misCode : XAcc → Nat | .load => 4 | .fetch => 0 | _ => 6
def accCode : XAcc → Nat | .load => 5 | .fetch => 1 | _ => 7
def pageCode : XAcc → Nat | .load => 13 | .fetch => 12 | _ => 15

/-- KIND of a page request (Table 16-6). -/
def reqKind : XAcc → Nat | .load => 0 | .store => 1 | .fetch => 2 | .atomic => 3

/-- An exception before its taking: code, stval, and the state with its page request. -/
structure Exc where
  code : Nat
  tval : Word
  s    : State

/-- Translation of an access of the reel (R333, R315, R340, R387): a page fault where a leaf is absent, denies
or is malformed, or the address is not of 48 bits; an access fault for an address in no range and a peer
without a link. stval is the address. -/
def reelXlat (s : State) (c va : Nat) (acc : XAcc) : Except Exc (Xlat × State) :=
  let r := s.reelOf c
  let ctx := (s.crew c).ctx
  let tval := BitVec.ofNat 64 va
  match translate s c ctx va acc (.reel r.sup r.sum) with
  | .ok x => .ok x
  | .error (.absent span) =>
    .error { code := pageCode acc, tval := tval, s := (requestPage s ctx c 16 va (reqKind acc) span).1 }
  | .error .denied => .error { code := pageCode acc, tval := tval, s := s }
  | .error _ => .error { code := accCode acc, tval := tval, s := s }

/-- The acquires that the reel's guest-line reads respect (R307). -/
def Reel.acq (r : Reel) : Acq := { dev := r.acqDev, sys := r.acqSys }

/-- Whether the reel is an orphan (R287). -/
def reelOrphan (s : State) (c : Nat) : Bool := (s.ctx (s.crew c).ctx).orphaned (s.reelOf c).view

/-- Whether the view of an agent is being fixed, so that its accesses at the home wait (R284). -/
def viewFixing (s : State) (ctx view : Nat) : Bool :=
  let x := s.ctx ctx
  (x.tint (x.resolve view)).st == .fixing

/-- A load of the reel: n bytes at an n-byte aligned address. -/
def reelLoad (s : State) (c va n : Nat) : Except Exc (Nat × State) :=
  let tval := BitVec.ofNat 64 va
  if va % n ≠ 0 then .error { code := 4, tval := tval, s := s }
  else if reelOrphan s c then .error { code := 5, tval := tval, s := s }
  else
    match reelXlat s c va .load with
    | .error e => .error e
    | .ok (x, s) =>
      let r := s.reelOf c
      let (bs, s) := loadLine s c (s.crew c).ctx r.view r.acq x n 0 true
      .ok (ofBytes bs, s)

/-- A store of the reel, of bytes at an address aligned to their number (R279, R281, R302). A release that a
FENCE left to the next store goes with it (R305). -/
def reelStore (s : State) (c va : Nat) (bs : List Byte) : Except Exc State :=
  let tval := BitVec.ofNat 64 va
  if va % bs.length ≠ 0 then .error { code := 6, tval := tval, s := s }
  else if reelOrphan s c then .error { code := 7, tval := tval, s := s }
  else
    match reelXlat s c va .store with
    | .error e => .error e
    | .ok (x, s) =>
      let ctx := (s.crew c).ctx
      let r := s.reelOf c
      let view := (s.ctx ctx).resolve r.view
      if view ≠ 0 ∧ onModule x.a = false then .error { code := 7, tval := tval, s := s }
      else
        match reserve s ctx view [lineOf x.a] with
        | .error _ => .error { code := 7, tval := tval, s := s }
        | .ok s =>
          let ws := (wbytes x.a bs).map fun w => { w with cl := x.cl }
          let s := storeBytes s c ctx view r.relNext true ws
          .ok (s.modReel c fun r => { r with relNext := none })

/-- An acquire of the reel at a scope: the L1 (R94, R306), and the guest lines filled before (R307, R308). -/
def reelAcquire (s : State) (c scope : Nat) : State :=
  let now := s.cycle c + 1
  (acquireCore s c scope).modReel c fun r =>
    { r with acqDev := if 3 ≤ scope then now else r.acqDev, acqSys := if 4 ≤ scope then now else r.acqSys }

/-- Whether the reel's next access waits for the fix of its view (R284). -/
def reelFixing (s : State) (c : Nat) : Bool := viewFixing s (s.crew c).ctx (s.reelOf c).view

/-- The wait of the reel for the fix of its view. -/
def waitFixing (s : State) (c : Nat) : State := reelWait s c (.fixing (s.reelOf c).view)

/-- The release of the reel's earlier stores at a scope, or the wait for it (R306). -/
def reelRelease (s : State) (c scope : Nat) (k : State → State) : State :=
  let (s, done) := release s c scope
  if done then k s else reelWait s c .release

/-- A 64-byte line of code (R33, R54): committed bytes through the instruction cache of the core, whose 64 KiB
hold 1,024 lines (R17); the oldest leaves a full one (log 5). -/
def icLine (s : State) (c line : Nat) : Nat × State :=
  match (s.core c).ic.find? fun l => l.line == line with
  | some l => (l.data, s)
  | none =>
    let d := memRead s.mem (64 * line) 64
    (d, s.modCore c fun k => { k with ic := k.ic.drop (k.ic.length - 1023) ++ [{ line := line, data := d }] })

/-! ## Block buffers -/

/-- The first n Carug words of some bytes. -/
def carugWords : Nat → List Byte → List CWord
  | 0, _ => []
  | n + 1, bs => BitVec.ofNat 96 (ofBytes (bs.take 12)) :: carugWords n (bs.drop 12)

/-- A kite whose fill of a buffer has ended: one that waits for it flies (R49, R53). -/
def Kite.filled (x : Kite) (j : Nat) (b : Buf) : Kite :=
  let x := x.setBuf j b
  if x.st = .waiting ∧ x.wait = .fill j then { x with st := .flying, wait := .none } else x

/-- A block fill reads line i of buffer j (R54). DESIGN CHOICE (log 1): when each line is read is left to the moves. -/
def fillLine (s : State) (c k j i : Nat) : State :=
  let b := (s.kite c k).buf j
  match b.filling, b.got.find i, b.pas[i]? with
  | true, none, some pa =>
    let (d, s) := icLine s c (pa / 64)
    s.modKite c k fun x => x.setBuf j { b with got := b.got.set i d }
  | _, _, _ => s

/-- The last n of the 64-byte lines of a buffer, from virtual line i on, with memory as it stands (R78). -/
def refillLines (s : State) (c : Nat) (b : Buf) : Nat → Nat → Except (XErr × Nat) (List Byte × State)
  | 0, _ => .ok ([], s)
  | n + 1, i =>
    let va := max b.base (64 * i)
    match translate s c (s.crew c).ctx va .fetch .kite with
    | .error e => .error (e, va)
    | .ok (x, s) =>
      match refillLines s c b n (i + 1) with
      | .error e => .error e
      | .ok (bs, s) => .ok (toBytes 64 (memRead s.mem (x.a / 64 * 64) 64) ++ bs, s)

/-- Buffer j of a kite refilled from its BASE (R78); where a line does not translate, the fault, which strikes as
the kite's next instruction would: at once if it is FLYING or WAITING, when it issues again if it is not. -/
def refill (s : State) (c k j : Nat) : State :=
  let x := s.kite c k
  let b := x.buf j
  let first := b.base / 64
  match refillLines s c b ((b.base + 12 * b.slots - 1) / 64 + 1 - first) first with
  | .ok (bs, s) =>
    let words := carugWords b.slots (bs.drop (b.base % 64))
    s.modKite c k fun x => x.filled j { b with filling := false, refill := false, words := words, bad := [] }
  | .error (e, va) =>
    let s := s.modKite c k fun x => x.setBuf j { b with filling := false, refill := true }
    if x.st = .flying ∨ x.st = .waiting then
      let (s, t, q) := xlatTrap s c k e va 0 2
      trapKite s c k t x.keeps q
    else s

/-- The word at an address of the reel's code. -/
def icRead (s : State) (c a : Nat) : Nat × State :=
  let (d, s) := icLine s c (a / 64)
  (d >>> (8 * (a % 64)) % 2 ^ 32, s)

/-- The reel's fetch: its word, or the exception it raises. A pc that is no multiple of 4 misaligns. -/
def reelFetch (s : State) (c : Nat) : Except Exc (RWord × State) :=
  let pc := (s.reelOf c).pc
  if pc % 4 ≠ 0 then .error { code := 0, tval := BitVec.ofNat 64 pc, s := s }
  else
    match reelXlat s c pc .fetch with
    | .error e => .error e
    | .ok (x, s) =>
      let (w, s) := icRead s c x.a
      .ok (BitVec.ofNat 32 w, s)

/-- The state after an exception. -/
def raiseExc (c : Nat) (e : Exc) : State := reelRaise e.s c e.code e.tval

/-- The frame of every instruction of the reel: it runs only in a crew that is not ending, on a reel. -/
def reelRun (s : State) (body : State → Nat → Reel → State) : State :=
  match s.cur with
  | .reel c => if s.hasCrew c && !(s.crew c).ending then body s c (s.reelOf c) else s
  | .kite _ _ => s

end Sys2Proof.Machine
end

