-- ==== Sys2Proof/Machine/KiteMem.lean ====
section
/-!
DEFINITION. The accesses of a kite to memory: scalar accesses (R89, R90, R99), atomics at their home (R92 to
R96, R305), the checks and accesses of vector instructions (R207, R208, R213), and the read of a block (R72).
Open points: log 16 (DEDUCED).
-/
namespace Sys2Proof.Machine

/-! ## Failures -/

/-- Why an access of a kite does not go on: a trap with the state before it and its page request, or the wait
for a fix of its view. -/
inductive KFail where
  | trap (s : State) (t : Trap) (req : Option Nat)
  | wait (s : State) (w : WaitOn)

/-- The end of an instruction whose access failed. -/
def KFail.res : KFail → Res
  | .trap s t q => .raise s t .here q
  | .wait s w => .wait s w

/-- A trap with an address and an element index. -/
def trapAt (cause va elt : Nat) : Trap := { cause := cause, va := BitVec.ofNat 64 va, elt := BitVec.ofNat 64 elt }

/-- The ORPHAN trap of a kite whose view is a bleached tint (R287). -/
def orphanTrap (x : Kite) (va : Nat) : Trap := trapAt 0x08 va x.tintv

/-- Whether a kite is an orphan (R287). -/
def kiteOrphan (s : State) (c : Nat) (x : Kite) : Bool := (s.ctx (s.crew c).ctx).orphaned x.tintv

/-- The acquires that a kite's guest-line reads respect (R307). -/
def Kite.acq (x : Kite) : Acq := { dev := x.acqDev, sys := x.acqSys }

/-- A translation of a kite's access through the page tables (R89, R333), or its trap. -/
def kiteXlat (s : State) (c k a : Nat) (acc : XAcc) (elt : Nat) : Except KFail (Xlat × State) :=
  match translate s c (s.crew c).ctx a acc .kite with
  | .ok x => .ok x
  | .error e =>
    let (s, t, q) := xlatTrap s c k e a elt (reqKind acc)
    .error (.trap s t q)

/-! ## The strip's reads -/

/-- The record of a line joins those that the strip has met (R305). -/
def noteRead (s : State) (c k : Nat) (r : Option RelRec) : State :=
  match r with
  | none => s
  | some r => s.modKite c k fun x => if x.reads.contains r then x else { x with reads := x.reads ++ [r] }

/-- The record of a global line. -/
def lineRec (s : State) (line : Nat) : Option RelRec := s.rels.find line

/-- The record of a line of an on-chip space. -/
def spRec (s : State) (c space line : Nat) : Option RelRec :=
  (s.sprels.find? fun r => r.space == space && r.owner == spOwner s c space && r.line == line).map (·.rr)

/-! ## Scalar accesses -/

/-- The checks of a global load of n bytes at an address (R99) in order, then where they are and what the view sees there
(R89, R90). -/
def kiteRead (s : State) (c k a n rd : Nat) : Except KFail (Xlat × List Byte × State) :=
  let x := s.kite c k
  if kiteOrphan s c x then .error (.trap s (orphanTrap x a) none)
  else if a % n ≠ 0 then .error (.trap s (trapAt 0x03 a 0) none)
  else
    match kiteXlat s c k a .load 0 with
    | .error e => .error e
    | .ok (p, s) =>
      let ctx := (s.crew c).ctx
      if viewFixing s ctx x.tintv then .error (.wait s (.fixing x.tintv))
      else
        let s := noteRead s c k (lineRec s (lineOf p.a))
        let (bs, s) := loadLine s c ctx x.tintv x.acq p n rd false
        .ok (p, bs, s)

/-- A global scalar load (R89, R90). -/
def kiteLoad (s : State) (c k a n rd : Nat) : Except KFail (Nat × State) :=
  (kiteRead s c k a n rd).map fun r => (ofBytes r.2.1, r.2.2)

/-- A byte that the strip has taken ahead of program order (R213, R300). -/
def Kite.aheadOf (x : Kite) (space a : Nat) : Option Byte :=
  (x.ahead.find? fun e => e.space == space && e.addr == a).map (·.value)

/-- The bytes of a global load as the strip sees them: those that it has taken ahead, and what was read elsewhere. -/
def Kite.seen (x : Kite) (a : Nat) (bs : List Byte) : List Byte :=
  bs.zipIdx.map fun b => (x.aheadOf 0 (a + b.2)).getD b.1

/-- The load of an mrec, which takes part in the strip as a vector access does (R230, R300). -/
def recLoad (s : State) (c k a rd : Nat) : Except KFail (Nat × State) :=
  (kiteRead s c k a 32 rd).map fun r => (ofBytes ((s.kite c k).seen r.1.a r.2.1), r.2.2)

/-- The reservation of versions for a store of a kite (R279, R281): ACCESS for a tinted store off the module,
TINT_FULL with the reason of Table 13-3. `at_` gives the address and the element that a line reports. -/
def kiteReserve (s : State) (c view : Nat) (lines : List Nat) (at_ : Nat → Nat × Nat) (isVec : Bool) :
    Except KFail State :=
  let view := (s.ctx (s.crew c).ctx).resolve view
  match if view = 0 then none else lines.find? fun l => !(onModule (128 * l)) with
  | some l => .error (.trap s (trapAt 0x04 (at_ l).1 (if isVec then (at_ l).2 else 0)) none)
  | none =>
    match reserve s (s.crew c).ctx view lines with
    | .error (why, l) => .error (.trap s (trapAt 0x09 (at_ l).1 why) none)
    | .ok s => .ok s

/-- The release that a fence left to the kite's next store or atomic, taken (R305). -/
def takeRel (s : State) (c k : Nat) : Option Nat × State :=
  ((s.kite c k).relNext, s.modKite c k fun x => { x with relNext := none })

/-- A scalar store whose checks have passed: it performs, or joins the strip's stores that have not performed
(R300). -/
def scalarStore (s : State) (c k space view : Nat) (rel : Option Nat) (ws : List WByte) : State :=
  let p : PendStore := { scalar := true, space := space, bytes := ws, view := view, rel := rel }
  if s.hold then s.modKite c k fun x => { x with pend := x.pend ++ [p] } else performPend s c p

/-- A global scalar store (R89, R90) of n bytes. -/
def kiteStore (s : State) (c k a n v : Nat) : Except KFail State :=
  let x := s.kite c k
  if kiteOrphan s c x then .error (.trap s (orphanTrap x a) none)
  else if a % n ≠ 0 then .error (.trap s (trapAt 0x03 a 0) none)
  else
    match kiteXlat s c k a .store 0 with
    | .error e => .error e
    | .ok (p, s) =>
      match kiteReserve s c x.tintv [lineOf p.a] (fun _ => (a, 0)) false with
      | .error e => .error e
      | .ok s =>
        let (rel, s) := takeRel s c k
        let ws := (wbytes p.a (toBytes n v)).map fun w => { w with cl := p.cl }
        .ok (scalarStore s c k 0 x.tintv rel ws)

/-- The checks of a scalar access to an on-chip space (R89, R202). -/
def spCheck (s : State) (c space a n : Nat) : Except KFail Unit :=
  if a % n ≠ 0 then .error (.trap s (trapAt 0x03 a 0) none)
  else if extent s c space < a + n then .error (.trap s (trapAt 0x04 a 0) none)
  else .ok ()

/-- ldsp. -/
def spLoad (s : State) (c k space a n : Nat) : Except KFail (Nat × State) :=
  match spCheck s c space a n with
  | .error e => .error e
  | .ok _ => .ok (spRead s c space a n, noteRead s c k (spRec s c space (a / 64)))

/-- stsp. -/
def spStore (s : State) (c k space a n v : Nat) : Except KFail State :=
  match spCheck s c space a n with
  | .error e => .error e
  | .ok _ =>
    let (rel, s) := takeRel s c k
    .ok (scalarStore s c k space 0 rel (wbytes a (toBytes n v)))

/-! ## Atomics -/

/-- What an acquire at a scope does to a kite and its core (R94, R306, R307). -/
def kiteAcquire (s : State) (c k scope : Nat) : State :=
  let now := s.cycle c + 1
  (acquireCore s c scope).modKite c k fun x =>
    { x.readAnew with acqDev := if 3 ≤ scope then now else x.acqDev, acqSys := if 4 ≤ scope then now else x.acqSys }

/-- STATUS.SCX set where a record fails its check (R305). -/
def checkScope (s : State) (c k scope : Nat) (r : Option RelRec) : State :=
  match r with
  | none => s
  | some r => if r.passes c s.module.devnum scope then s else s.modKite c k fun x => { x with scx := true }

/-- An atomic at the home of a global address (R93, R95): on committed bytes, indivisibly; `g` gives the new
value, or none where nothing is written; `rel` the scope of a release it carries. The line leaves the core's
L1, and the guest line of the die shows what the home holds. -/
def atomicAtHome (s : State) (c a n : Nat) (g : Nat → Option Nat) (rel : Option Nat) : Nat × State :=
  let old := memRead s.mem a n
  let line := lineOf a
  let s := s.modCore c fun p => p.dropL1 fun l => l.line == line
  match g old with
  | none => (old, guestRefresh s (dieOf c) line)
  | some v =>
    let s := guestRefresh (commit s a (toBytes n v)) (dieOf c) line
    (old, match rel with
      | some sc => { s with rels := s.rels.set line { core := c, dev := s.module.devnum, scope := sc } }
      | none => s)

/-- An atomic at the bank of an on-chip space. -/
def atomicAtBank (s : State) (c space a n : Nat) (g : Nat → Option Nat) (rel : Option Nat) : Nat × State :=
  let old := spRead s c space a n
  match g old with
  | none => (old, s)
  | some v =>
    let s := spWrite s c space (wbytes a (toBytes n v))
    (old, match rel with | some sc => spRelease s c space sc [a / 64] | none => s)

/-- Where an atomic acts: an on-chip space, or a global address. -/
inductive AtomicAt where
  | bank (space a : Nat)
  | home (a : Nat)

/-- The checks of an atomic (R92, R99): alignment, then extent or translation; for host memory only the
AtomicOps of R93. -/
def atomicCheck (s : State) (c k space a n : Nat) (hostOp : Bool) : Except KFail (AtomicAt × State) :=
  if a % n ≠ 0 then .error (.trap s (trapAt 0x03 a 0) none)
  else if space ≠ 0 then
    (if extent s c space < a + n then .error (.trap s (trapAt 0x04 a 0) none) else .ok (.bank space a, s))
  else
    match kiteXlat s c k a .atomic 0 with
    | .error e => .error e
    | .ok (p, s) =>
      if pkind p.a = .host ∧ hostOp = false then .error (.trap s (trapAt 0x04 a 0) none)
      else .ok (.home p.a, s)

/-! ## Vector accesses -/

/-- An address that a vector instruction accesses for element i: its address, its width in bytes. -/
structure VAddr where
  i : Nat := 0
  a : Nat := 0
  n : Nat := 1

/-- Translation of one byte of a vector access: through the span table in the window. -/
def vecXlat (s : State) (c a : Nat) (store : Bool) : Except XErr Xlat := spanXlat s c (s.crew c).ctx a store

/-- The bytes of an element in the order of their addresses, as machine addresses: canonical global addresses
with CL and MINRD, or offsets of a space. -/
def elemBytes (s : State) (c space : Nat) (v : VAddr) (store : Bool) : Except XErr (List Xlat) :=
  if space ≠ 0 then .ok ((List.range v.n).map fun j => { a := v.a + j })
  else if !(inWindow v.a) || !(inWindow (v.a + v.n - 1)) then .error .window
  else
    match vecXlat s c v.a store with
    | .error e => .error e
    | .ok p => .ok ((List.range v.n).map fun j => { p with a := p.a + j })

/-- The checks of R207 on the elements of a list in turn; `align` is the alignment each needs. The machine
bytes of each element, or the first failure. An element within its alignment lies in one span. -/
def checkElems (s : State) (c k space align : Nat) (store : Bool) :
    List VAddr → Except KFail (List (VAddr × List Xlat))
  | [] => .ok []
  | v :: vs =>
    if v.a % align ≠ 0 then .error (.trap s (trapAt 0x03 v.a v.i) none)
    else if space ≠ 0 ∧ extent s c space < v.a + v.n then .error (.trap s (trapAt 0x04 v.a v.i) none)
    else
      match elemBytes s c space v store with
      | .error e =>
        let (s, t, q) := xlatTrap s c k e v.a v.i (if store then 1 else 0)
        .error (.trap s t q)
      | .ok bs =>
        match checkElems s c k space align store vs with
        | .error e => .error e
        | .ok r => .ok ((v, bs) :: r)

/-- The checks of R207 with the orphan check before every other. -/
def checkAll (s : State) (c k space align : Nat) (store : Bool) (vs : List VAddr) :
    Except KFail (List (VAddr × List Xlat)) :=
  let x := s.kite c k
  match vs with
  | [] => .ok []
  | v :: _ =>
    if space = 0 && kiteOrphan s c x then .error (.trap s (orphanTrap x v.a) none)
    else checkElems s c k space align store vs

/-- The bytes of an element that a vector load reads, and the state (R208): they lie in one line. -/
def vecBytes (s : State) (c k space rd : Nat) (x : Xlat) (n : Nat) : List Byte × State :=
  if space ≠ 0 then
    (memBytes (spMem s c space) x.a n, noteRead s c k (spRec s c space (x.a / 64)))
  else
    let kt := s.kite c k
    let s := noteRead s c k (lineRec s (lineOf x.a))
    loadLine s c (s.crew c).ctx kt.tintv kt.acq x n rd false

/-- The core with the re-reference value of an L1 line as it was, where it was there: a load that comes back to a line
for a further element makes no further hit (R319). -/
def Core.sameRank (k : Core) (was : Option (Nat × L1Line)) : Core :=
  match was with
  | none => k
  | some (place, l) =>
    { k with l1 := k.l1.map fun e => if e.1 = place ∧ e.2.line = l.line then (e.1, { e.2 with rrpv := l.rrpv }) else e }

/-- An element of a vector load: its bytes as the strip sees them (R213, R300), and the state; `again` where the load
has touched the line before. -/
def vecRead (s : State) (c k space rd : Nat) (again : Bool) : List Xlat → Nat × State
  | [] => (0, s)
  | x :: xs =>
    let kt := s.kite c k
    let ctx := (s.crew c).ctx
    let was := l1Find (s.core c) ctx ((s.ctx ctx).resolve kt.tintv) (lineOf x.a)
    let (bs, s) := vecBytes s c k space rd x (xs.length + 1)
    let s := if again && space == 0 then s.modCore c fun p => p.sameRank was else s
    (ofBytes ((bs.zip (x :: xs)).map fun b => (kt.aheadOf space b.2.a).getD b.1), s)

/-- The elements of a vector load, read in turn, after those of the lines `seen`. -/
def vecReadFrom (s : State) (c k space rd : Nat) (seen : List Nat) :
    List (VAddr × List Xlat) → List (Nat × Nat) × State
  | [] => ([], s)
  | (v, xs) :: r =>
    let line := lineOf (xs.headD {}).a
    let (e, s) := vecRead s c k space rd (seen.contains line) xs
    let (es, s) := vecReadFrom s c k space rd (line :: seen) r
    ((v.i, e) :: es, s)

/-- The elements of a vector load, read in turn. -/
def vecReadAll (s : State) (c k space rd : Nat) (vs : List (VAddr × List Xlat)) : List (Nat × Nat) × State :=
  vecReadFrom s c k space rd [] vs

/-- The wait of a vector load or store for a fix of the kite's view (R284), else the load goes on. -/
def vecFixing (s : State) (c k space : Nat) : Option WaitOn :=
  let x := s.kite c k
  if space = 0 && viewFixing s (s.crew c).ctx x.tintv then some (.fixing x.tintv) else none

/-- A vector store of masked bytes: each with its machine byte and its element's address and index. -/
structure VByte where
  x     : Xlat := {}
  value : Nat := 0
  mask  : Nat := 255
  va    : Nat := 0
  i     : Nat := 0

/-- The versions reserved for a vector store, in the order of its elements (R207, R281). -/
def vecReserve (s : State) (c k space : Nat) (bs : List VByte) : Except KFail State :=
  if space ≠ 0 then .ok s
  else
    kiteReserve s c (s.kite c k).tintv (distinct (bs.map fun b => lineOf b.x.a))
      (fun l => match bs.find? fun b => lineOf b.x.a == l with | some b => (b.va, b.i) | none => (0, 0)) true

/-- A byte to write that is joined to earlier ones: a later write of the same byte replaces the bits that it
writes (R209). -/
def addByte : List WByte → WByte → List WByte
  | [], w => [w]
  | u :: us, w =>
    if u.addr = w.addr then
      { u with value := (mergeByte (BitVec.ofNat 8 u.value) w).toNat, mask := u.mask ||| w.mask } :: us
    else u :: addByte us w

/-- The bytes of a vector store, each address once. -/
def VByte.join (bs : List VByte) : List WByte :=
  bs.foldl (fun ws b => addByte ws { addr := b.x.a, value := b.value, mask := b.mask, cl := b.x.cl }) []

/-- A vector store whose checks have passed joins the strip's pending stores (R300). -/
def vecStore (s : State) (c k space : Nat) (bs : List VByte) : State :=
  if bs.isEmpty then s
  else
    let (rel, s) := takeRel s c k
    s.modKite c k fun x =>
      { x with pend := x.pend ++ [{ space := space, view := x.tintv, rel := rel, bytes := VByte.join bs }] }

/-! ## Blocks -/

/-- The lines of a block from an address on, n of them, each translated for fetch: their physical addresses (R325),
or the first failure, which is at the block's own address or at the start of its second page. -/
def blockXlat {ε : Type} (s : State) (va : Nat) (t : State → Nat → Except ε (Xlat × State)) :
    Nat → Except ε (List Nat × State)
  | 0 => .ok ([], s)
  | n + 1 =>
    match t s va with
    | .error e => .error e
    | .ok (p, s) =>
      match blockXlat s (va + 64) t n with
      | .error e => .error e
      | .ok (ps, s) => .ok (p.a :: ps, s)

/-- A buffer as a fill begins (R52, R62, R72). -/
def fillingBuf (base : Nat) (pas : List Nat) : Buf :=
  { valid := true, filling := true, base := base, slots := 32, pas := pas }

end Sys2Proof.Machine
end

