-- ==== Sys2Proof/Machine/Control.lean ====
section
/-!
DEFINITION. Control flow of a kite (R70 to R76) and its control registers (R84 to R87).
Open points: log 9 (DEDUCED).
-/
namespace Sys2Proof.Machine

/-! ## Transfers of control -/

/-- The address of the slot after the current one (R71). -/
def Kite.retAddr (x : Kite) : Word := BitVec.ofNat 64 (x.addr + 12)

/-- br, R71. -/
def execBr (f : Fields) (s : State) : Host.Outcome State Fault Refusal :=
  .next (issue (.br f) s fun s _ _ x =>
    let taken := match f.a with
      | .p i => bit (x.pget i.toNat) 0
      | o => x.opd o != 0
    if taken then .jump s (x.gotoSlot x.cur (opdValue f.b)) .here else .done s)

/-- jmp.near, R71. -/
def execJmpNear (f : Fields) (s : State) : Host.Outcome State Fault Refusal :=
  .next (issue (.jmpNear f) s fun s _ _ x => .jump s (x.gotoSlot x.cur (opdValue f.b)) .here)

/-- jmp.far, R71. -/
def execJmpFar (f : Fields) (s : State) : Host.Outcome State Fault Refusal :=
  .next (issue (.jmpFar f) s fun s _ _ x => .jump s (x.gotoSlot (1 - x.cur) (opdValue f.b)) .here)

/-- jmp.reg, R71. -/
def execJmpReg (f : Fields) (s : State) : Host.Outcome State Fault Refusal :=
  .next (issue (.jmpReg f) s fun s _ _ x => .jump s (x.locate (x.opd f.b).toNat) .here)

/-- call, R71: the link is written even if the target faults, and s[B] is read before. -/
def execCall (f : Fields) (s : State) : Host.Outcome State Fault Refusal :=
  .next (issue (.call f) s fun s c k x =>
    let s := s.modKite c k fun y => y.sset (opdValue f.a) x.retAddr
    match f.b with
    | .uimm i => .jump s (x.gotoSlot x.cur i.toNat) (.slot x.cur i.toNat)
    | o => .jump s (x.locate (x.opd o).toNat) (.locate (x.opd o).toNat))

/-- ret, R71. -/
def execRet (f : Fields) (s : State) : Host.Outcome State Fault Refusal :=
  .next (issue (.ret f) s fun s _ _ x => .jump s (x.locate (x.opd f.a).toNat) .here)

/-- A queue of a core (R100). -/
def State.queueOf (s : State) (c q : Nat) : List Word := (s.crew c).q.get q

/-- The state with a queue of a core replaced. -/
def State.setQueueOf (s : State) (c q : Nat) (l : List Word) : State :=
  s.modCrew c fun w => { w with q := w.q.set q l }

/-- qbr, R71, R107: a faulting qbr has popped its entry. -/
def execQbr (f : Fields) (s : State) : Host.Outcome State Fault Refusal :=
  .next (issue (.qbr f) s fun s c k x =>
    let q := opdValue f.a
    match s.queueOf c q with
    | [] => .wait s (.qpop q)
    | w :: ws =>
      let s := (s.setQueueOf c q ws).modKite c k fun y => y.readAnew
      let j := opdValue f.b
      if bit w.toNat 0 then .jump s (x.gotoSlot x.cur j) (.slot x.cur j) else .done s)

/-- The address of a fetchb (R72). -/
def Kite.fetchbAddr (x : Kite) (f : Fields) : Nat :=
  match f.b with
  | .simm i => (BitVec.ofNat 64 (x.buf x.cur).base + 64#64 * sext i.toNat 16).toNat
  | .mem b o => x.memAddr (.mem b o)
  | o => (x.opd o).toNat

/-- fetchb, R72. -/
def execFetchb (f : Fields) (s : State) : Host.Outcome State Fault Refusal :=
  .next (issue (.fetchb f) s fun s c k x =>
    let j := opdValue f.a
    let a := x.fetchbAddr f
    if j = x.cur then .raise s (trapAt 0x01 x.addr 0) .here none
    else if a % 64 ≠ 0 then .raise s (trapAt 0x03 a 0) .here none
    else
      match blockXlat s a (fun s a => kiteXlat s c k a .fetch 0) 6 with
      | .error e => e.res
      | .ok (pas, s) => .done (s.modKite c k fun y => y.setBuf j (fillingBuf a pas)))

/-- land, R73. -/
def execLand (f : Fields) (s : State) : Host.Outcome State Fault Refusal :=
  .next (issue (.land f) s fun s c k _ => .stay (drainKite s c k false))

/-- yield, R58. -/
def execYield (f : Fields) (s : State) : Host.Outcome State Fault Refusal :=
  .next (issue (.yield f) s fun s c k _ => .stay (retire s c k true))

/-- nop, R74. -/
def execNop (f : Fields) (s : State) : Host.Outcome State Fault Refusal :=
  .next (issue (.nop f) s fun s _ _ _ => .done s)

/-- trap, R75: SW_TRAP at its own address, with the number in FAULTELT. -/
def execTrap (f : Fields) (s : State) : Host.Outcome State Fault Refusal :=
  .next (issue (.trap f) s fun s _ _ x => .raise s (trapAt 0x0E x.addr (opdValue f.a)) .after none)

/-- sleepu, R76. -/
def execSleepu (f : Fields) (s : State) : Host.Outcome State Fault Refusal :=
  .next (issue (.sleepu f) s fun s c _ x =>
    let t := (x.opd f.a).toNat
    if t ≤ s.cycle c then .done s else .wait s (.sleep t))

/-! ## Control registers -/

/-- Whether a matrix instruction can set a flag (R234, R239): a floating mma or maccrd. -/
def MatOp.setsFlags (m : MatOp) : Bool :=
  (m.op == 0x92 && m.f.ty != 0) || (m.op == 0x93 && decide (8 ≤ m.f.ty.toNat))

/-- Whether an earlier instruction of the kite that can set a flag has not completed (R87): an entry of its
vector queue that waits to run or has flags to deliver, or a floating mma or maccrd in a tile queue. -/
def flagsBusy (s : State) (c k : Nat) : Bool :=
  (s.kite c k).vq.any (fun e => e.marker.isNone && (!e.dispatched || e.flags != 0)) ||
    (s.crew c).tq.has fun q => q.any fun m => m.owner == k && m.setsFlags

/-- The value of a control register (R51, R85, R86, R118, R119, R135, R217, R379; Tables 3-3 to 3-6 and 4-3
to 4-8). -/
def csrValue (s : State) (c k n : Nat) : Word :=
  let x := s.kite c k
  match n with
  | 0x000 => BitVec.ofNat 64 k
  | 0x001 => BitVec.ofNat 64 (s.crew c).n
  | 0x002 => BitVec.ofNat 64 x.role
  | 0x003 => BitVec.ofNat 64 (2 ^ 63 * x.mvlChg.toNat + x.mvlb)
  | 0x004 => BitVec.ofNat 64 (2 ^ 16 * x.vlty + x.vlen)
  | 0x005 => BitVec.ofNat 64 (16 * x.sat.toNat + 8 * x.ftz.toNat + x.rm)
  | 0x006 => BitVec.ofNat 64 x.fpflags
  | 0x007 => BitVec.ofNat 64 x.scx.toNat
  | 0x008 => BitVec.ofNat 64 x.tintv
  | 0x009 => BitVec.ofNat 64 (2 ^ 63 * x.repAct.toNat + 2 ^ 16 * x.repDone + x.repCount)
  | 0x00A => BitVec.ofNat 64 (2 ^ 63 * x.mmAct.toNat + x.mmIdx)
  | 0x00B => BitVec.ofNat 64 x.agecap
  | 0x00C => BitVec.ofNat 64 (255 ^^^ (s.core c).laneBad % 256)
  | 0x010 => BitVec.ofNat 64 (s.cycle c)
  | 0x011 => x.seed
  | 0x020 => x.faultva
  | 0x021 => x.faultelt
  | _ => 0

/-- What reading a control register does to the kite: MVL.CHG is cleared by its read (R8, Table 6-2). -/
def Kite.csrTouch (x : Kite) (n : Nat) : Kite := if n = 0x003 then { x with mvlChg := false } else x

/-- AGECAP after a write of a field value (R51). -/
def agecapOf (v : Nat) : Nat := max 16 (min 4096 (v % 8192))

/-- The kite after a write of a control register (R9, R51, R86). -/
def Kite.csrPut (x : Kite) (n : Nat) (w : Word) : Kite :=
  let v := w.toNat
  match n with
  | 0x002 => if v % 4 = 3 then x else { x with role := v % 4 }
  | 0x005 => { x with rm := if 6 ≤ v % 8 then x.rm else v % 8, ftz := bit v 3, sat := bit v 4 }
  | 0x006 => { x with fpflags := v % 32 }
  | 0x007 => if bit v 0 then { x with scx := false } else x
  | 0x00B => { x with agecap := agecapOf v }
  | 0x011 => { x with seed := w }
  | _ => x

/-- csrr, R84, R87. -/
def execCsrr (f : Fields) (s : State) : Host.Outcome State Fault Refusal :=
  .next (issue (.csrr f) s fun s c k _ =>
    let n := opdValue f.b
    if n = 0x006 ∧ flagsBusy s c k = true then .wait s .flags
    else
      let v := csrValue s c k n
      .done (s.modKite c k fun x => (x.csrTouch n).sset (opdValue f.a) v))

/-- csrw, R84, R87. -/
def execCsrw (f : Fields) (s : State) : Host.Outcome State Fault Refusal :=
  .next (issue (.csrw f) s fun s c k x =>
    let n := opdValue f.a
    if n = 0x006 ∧ flagsBusy s c k = true then .wait s .flags
    else .done (s.modKite c k fun y => y.csrPut n (x.opd f.b)))

end Sys2Proof.Machine
end

