-- ==== Sys2Proof/Machine/Vec.lean ====
section
/-!
DEFINITION. The frame of instructions that take an entry of a kite's vector queue (R123, R126 to R129, R154):
the wait for a free entry, the holding of an instruction that the sequencer does not dispatch, the decoding of
bound sources (R215), last use, and the flags delivered at completion (R150). Length, repeat (R121, R133 to
R135) and predicates (R131, R132).
Open points: logs 9 (DEDUCED), 11 (DEDUCED), 15 (DEDUCED), 16 (DESIGN CHOICE).
-/
namespace Sys2Proof.Machine

/-! ## Bound sources -/

/-- A bound source decoded: its register and contents, its binding, and the flags of its conversions. -/
structure Decoded where
  r    : Nat
  reg  : VReg
  bind : Bind
  fl   : Nat

/-- The register with m decoded elements as its first bytes, and every validity bit set but those of blocks
that hold an element of an invalid block (R215). -/
def VReg.decoded (v : VReg) (ty : Nat) (es : List Out) : VReg :=
  let w := widthOf ty
  let d := (es.zipIdx).foldl (fun d e => setBits d (w * e.2) w e.1.v) v.data
  let bad := (es.zipIdx).foldl (fun m e => if e.1.ok then m else setBit m (e.2 / 32) true) 0
  { v with data := d, inval := bad }

/-- The flags of decoded elements: those of blocks left valid. DESIGN CHOICE (log 16): every decoded element counts,
whatever the guard and the destination of the reader are, since R215 says only that they join its flags. -/
def decodedFlags (v : VReg) (es : List Out) : Nat :=
  (es.zipIdx).foldl (fun m e => if v.valid (e.2 / 32) then m ||| e.1.fl else m) 0

/-- A vector load of a bound source: the elements, or the fault with its index. -/
def streamRead (s : State) (c k align : Nat) (vs : List VAddr) : Except KFail (List (Nat × Nat) × State) :=
  match checkAll s c k 0 align false vs with
  | .error e => .error e
  | .ok bs =>
    match vecFixing s c k 0 with
    | some w => .error (.wait s w)
    | none => .ok (vecReadAll s c k 0 0 bs)

/-- The bytes that the elements of an E2M1B stream read: each element's code byte, and the scale byte of each
block before its first element here. -/
def streamBytes (b : Bind) (m : Nat) : List VAddr :=
  (List.range m).flatMap fun i =>
    let p := b.pos + i
    let code : VAddr := { i := i, a := (b.addr + p / 2) % 2 ^ 64 }
    if i = 0 ∨ p % 32 = 0 then [code, { i := i, a := (b.aux.toNat + p / 32) % 2 ^ 64 }] else [code]

/-- What the next m elements of a stream read, in the order of their checks, and the alignment that they need (R214,
R215). -/
def Bind.addrs (b : Bind) (m : Nat) : Nat × List VAddr :=
  if b.xf = 8 then (1, streamBytes b m)
  else
    let n := widthOf b.xf / 8
    (n, (List.range m).map fun i =>
      { i := i, a := (BitVec.ofNat 64 b.addr + BitVec.ofNat 64 (b.pos + i) * b.aux).toNat, n := n })

/-- The elements of an E2M1B stream, from the bytes that `streamBytes` lists (R142, R215). -/
def decodeCodes (x : VCtx) (b : Bind) (m : Nat) (bytes : List Nat) : List Out :=
  ((List.range m).foldl (fun (r : List Out × List Nat × Nat) i =>
    let p := b.pos + i
    let (outs, bs, scale) := r
    let code := bs.headD 0 >>> (4 * (p % 2)) % 16
    let (scale, bs) := if i = 0 ∨ p % 32 = 0 then (bs.getD 1 0, bs.drop 2) else (scale, bs.drop 1)
    let (d, f0) := e2m1Value code scale 0
    let (v, fl) := roundTo (x.rounding true i) b.ty d
    (outs ++ [{ v := v, ok := scale != 255, fl := f0 ||| fl }], bs, scale)) ([], bytes, 0)).1

/-- The elements of a stream from what it read, converted to its TY (R171, R215). -/
def Bind.outs (b : Bind) (x : VCtx) (m : Nat) (es : List (Nat × Nat)) : List Out :=
  if b.xf = 8 then decodeCodes x b m (es.map (·.2))
  else es.map fun e =>
    if b.xf = b.ty then { v := e.2 }
    else
      let (v, fl) := convert (x.rounding true e.1) b.xf b.ty e.2
      { v := v, fl := fl }

/-- Bound source r decoded for a reader from what its stream read (R215): the position has moved on. -/
def Bind.decoded (b : Bind) (x : VCtx) (r : Nat) (old : VReg) (es : List (Nat × Nat)) : Decoded :=
  let m := x.count b.ty
  let outs := b.outs x m es
  let reg := old.decoded b.ty outs
  { r := r, reg := reg, bind := { b with pos := b.pos + m }, fl := decodedFlags reg outs }

/-- A bound source decoded for a reader (R215); the state is that after its reads. -/
def decodeOne (s : State) (c k : Nat) (x : VCtx) (r : Nat) (b : Bind) : Except KFail (Decoded × State) :=
  let (align, vs) := b.addrs (x.count b.ty)
  match streamRead s c k align vs with
  | .error e => .error e
  | .ok (es, s) => .ok (b.decoded x r ((s.kite c k).vget r) es, s)

/-- The bound ones among some sources, decoded one after the other. -/
def decodeAll (s : State) (c k : Nat) (x : VCtx) : List Nat → Except KFail (List Decoded × State)
  | [] => .ok ([], s)
  | r :: rs =>
    match (s.kite c k).binds.find r with
    | none => decodeAll s c k x rs
    | some b =>
      match decodeOne s c k x r b with
      | .error e => .error e
      | .ok (d, s) =>
        match decodeAll s c k x rs with
        | .error e => .error e
        | .ok (ds, s) => .ok (d :: ds, s)

/-- The kite with decoded sources in place. -/
def Kite.take (x : Kite) (ds : List Decoded) : Kite :=
  ds.foldl (fun x d => { x.vput d.r d.reg with binds := x.binds.set d.r d.bind }) x

/-- The state with a kite's decoded sources in place, if there are any. -/
def takeDecoded (s : State) (c k : Nat) : List Decoded → State
  | [] => s
  | ds => s.modKite c k fun y => y.take ds

/-- A failure with the decoded sources undone: a fault leaves the positions of streams unchanged. -/
def KFail.undo (e : KFail) (c k : Nat) (x : Kite) : KFail :=
  let back := fun s : State => s.modKite c k fun y => { y with v := x.v, binds := x.binds }
  match e with
  | .trap s t q => .trap (back s) t q
  | .wait s w => .wait (back s) w

/-! ## The vector queue -/

/-- An instruction of a kite waits undispatched in its vector queue. -/
def Kite.undispatched (x : Kite) : Bool := x.vq.any fun e => e.marker.isNone && !e.dispatched

/-- Whether an instruction has a bound source. -/
def Kite.readsBound (x : Kite) (op : Nat) (f : Fields) : Bool := (vecReads op f).any fun r => (x.binds.find r).isSome

/-- The permutes and the arithmetic of a vector destination, with no predicate operand. -/
def sequenced (op : Nat) (f : Fields) : Bool :=
  decide (0x46 ≤ op) && decide (op ≤ 0x6F) && opdClass f.a == 2 && opdClass f.b != 3 && opdClass f.c != 3

/-- The instructions that the model lets the sequencer hold: those with no bound source. -/
def holdable (op : Nat) (f : Fields) (x : Kite) : Bool := sequenced op f && !(x.readsBound op f)

/-- The vector stores. -/
def storesVec (op : Nat) : Bool := [0x71, 0x73, 0x76].contains op

/-- The readers of bound registers whose data may come after later instructions of the strip (R300, R364): permutes,
arithmetic, comparisons and vext, the nested instructions and spsrch, and one vector store at a time. The checks of an nnest and
the addresses of a vstx with a bound index need that data first. -/
def Kite.mayTrail (x : Kite) (op : Nat) (f : Fields) : Bool :=
  x.readsBound op f &&
    (sequenced op f || [0x4C, 0x5F, 0x65, 0x68, 0x80, 0x81, 0x82, 0x83, 0x86, 0x87, 0x9B].contains op ||
      (storesVec op && (op != 0x73 || (x.binds.find (opdValue f.c)).isNone) &&
        !(x.vq.any fun e => e.load.isSome && storesVec e.op)))

/-- Whether a move between a tile and a vector register waits in a tile queue of the kite (R238, R239): later
vector instructions see its result. -/
def movesQueued (s : State) (c k : Nat) : Bool :=
  (s.crew c).tq.has fun q => q.any fun m => m.owner == k && (m.op == 0x93 || m.op == 0x94)

/-- Whether the vector queue of a kite has a free entry, and an instruction that takes it may perform at once. -/
def Kite.queueOpen (x : Kite) (s : State) (c k : Nat) : Bool :=
  decide (x.vq.length < 8) && !x.undispatched && !(movesQueued s c k)

/-- The kite with an entry at the end of its vector queue. -/
def Kite.enqueue (x : Kite) (e : VqEntry) : Kite := { x with vq := x.vq ++ [e] }

/-- The kite after an instruction's last use of its sources (R127). -/
def Kite.finishLst (x : Kite) (op : Nat) (f : Fields) : Kite :=
  if f.lst then x.lastUse ((vecReads op f).filter fun r => !((vecWrites op f).contains r)) else x

/-- What a load holds of its elements while its data is under way; `ok` gives their validity. -/
def holdElems (space rd : Nat) (bs : List (VAddr × List Xlat)) (ok : Nat → Bool) : HeldLoad :=
  { space := space, rd := rd
    elems := bs.map fun b =>
      { i := b.1.i, va := b.1.a, ok := ok b.1.i, bytes := b.2.map fun x => { a := x.a, cl := x.cl, minrd := x.minrd } } }

/-- The elements of a load under way, as their reads take them. -/
def HeldLoad.reads (h : HeldLoad) : List (VAddr × List Xlat) :=
  h.elems.map fun e => ({ i := e.i, a := e.va }, e.bytes.map fun b => { a := b.a, cl := b.cl, minrd := b.minrd })

/-- The checks of R207 on what the bound ones among some sources read, one source after the other: their elements. -/
def planStreams (s : State) (c k : Nat) (x : VCtx) : List Nat → Except KFail (List (VAddr × List Xlat))
  | [] => .ok []
  | r :: rs =>
    match (s.kite c k).binds.find r with
    | none => planStreams s c k x rs
    | some b =>
      let (align, vs) := b.addrs (x.count b.ty)
      match checkAll s c k 0 align false vs with
      | .error e => .error e
      | .ok bs =>
        match planStreams s c k x rs with
        | .error e => .error e
        | .ok cs => .ok (bs ++ cs)

/-- The kite with the positions of the bound ones among some sources moved on (R215). -/
def Kite.stepStreams (x : Kite) (ctx : VCtx) (rs : List Nat) : Kite :=
  { x with binds := x.binds.map fun e =>
      if rs.contains e.1 then (e.1, { e.2 with pos := e.2.pos + ctx.count e.2.ty }) else e }

/-- The kite with those positions moved back. -/
def Kite.unstepStreams (x : Kite) (ctx : VCtx) (rs : List Nat) : Kite :=
  { x with binds := x.binds.map fun e =>
      if rs.contains e.1 then (e.1, { e.2 with pos := e.2.pos - ctx.count e.2.ty }) else e }

/-- The issue of a reader of bound registers whose data comes after later instructions of the strip (R300, R364): its
checks have passed and its streams have moved on; it performs as the data arrives. -/
def trailStreams (s : State) (c k : Nat) (op : Nat) (f : Fields) (ctx : VCtx) : Res :=
  match planStreams s c k ctx (vecReads op f) with
  | .error e => e.res
  | .ok bs =>
    match if bs.isEmpty then none else vecFixing s c k 0 with
    | some w => .wait s w
    | none =>
      .done (s.modKite c k fun y =>
        ((y.stepStreams ctx (vecReads op f)).advanceSeed f).enqueue
          { op := op, f := f, ctx := ctx, load := some (holdElems 0 0 bs fun _ => true) })

/-- The issue of a reader of bound registers that makes checks of its own or stores, whose data comes after later
instructions of the strip: `body` makes them with what the streams hold as it issues. A store is pending from now on, and
its data is late. -/
def trailChecked (s : State) (c k : Nat) (x : Kite) (op : Nat) (f : Fields) (ctx : VCtx)
    (body : State → VCtx → Except KFail (State × Nat)) : Res :=
  match decodeAll s c k ctx (vecReads op f), planStreams s c k ctx (vecReads op f) with
  | .error e, _ | _, .error e => e.res
  | .ok (ds, t), .ok bs =>
    match body (takeDecoded t c k ds) ctx with
    | .error e => (e.undo c k x).res
    | .ok (t, _) =>
      if storesVec op then
        .done (t.modKite c k fun y =>
          let late := fun (p : PendStore) => { p with late := true }
          ({ y with pend := if x.pend.length < y.pend.length then modifyAt late x.pend.length y.pend else y.pend }.advanceSeed
            f).enqueue { op := op, f := f, ctx := ctx, load := some (holdElems 0 0 bs fun _ => true) })
      else trailStreams s c k op f ctx

/-- The bound ones among some sources of a kite decoded from what their streams read, one after the other; their
positions have moved on already. -/
def decodeHeld (x : Kite) (ctx : VCtx) : List Nat → List (Nat × Nat) → List Decoded
  | [], _ => []
  | r :: rs, es =>
    match x.binds.find r with
    | none => decodeHeld x ctx rs es
    | some b =>
      let b := { b with pos := b.pos - ctx.count b.ty }
      let n := (b.addrs (ctx.count b.ty)).2.length
      b.decoded ctx r (x.vget r) (es.take n) :: decodeHeld x ctx rs (es.drop n)

/-- The issue of an instruction of the vector queue. With no free entry the kite is not ready. An instruction
behind one that waits, or behind a queued move of a tile, or that the sequencer holds, waits in the queue with what it
has captured, where it can; a reader of bound registers that the sequencer holds waits for its data alone. Any other
performs: its bound sources are decoded, `body` gives the state and the flags, and
its entry delivers the flags as it completes. -/
def vecIssue (s : State) (c k : Nat) (x : Kite) (op : Nat) (f : Fields)
    (body : State → VCtx → Except KFail (State × Nat)) : Res :=
  if 8 ≤ x.vq.length then .notReady
  else
    let ctx := x.capture f
    if x.undispatched || s.hold || movesQueued s c k then
      if holdable op f x then
        .done (s.modKite c k fun y =>
          (y.advanceSeed f).enqueue { op := op, f := f, ctx := ctx, dispatched := false })
      else if x.mayTrail op f && !x.undispatched && !(movesQueued s c k) then
        (if op ≤ 0x6F then trailStreams s c k op f ctx else trailChecked s c k x op f ctx body)
      else .notReady
    else
      match decodeAll s c k ctx (vecReads op f) with
      | .error e => e.res
      | .ok (ds, s) =>
        let fl := ds.foldl (fun m d => m ||| d.fl) 0
        match body (takeDecoded s c k ds) ctx with
        | .error e => (e.undo c k x).res
        | .ok (s, g) =>
          .done (s.modKite c k fun y =>
            ((y.finishLst op f).advanceSeed f).enqueue { op := op, f := f, flags := fl ||| g })

/-- What an instruction that only touches the kite does: the kite and its flags. -/
abbrev VBody := Kite → Fields → VCtx → Kite × Nat

/-- An instruction of the vector queue that only touches the kite's registers. -/
def runVec (i : Instr) (op : Nat) (f : Fields) (g : VBody) (s : State) : Host.Outcome State Fault Refusal :=
  .next (issue i s fun s c k x =>
    vecIssue s c k x op f fun s ctx =>
      let (y, fl) := g (s.kite c k) f ctx
      .ok (s.modKite c k fun _ => y, fl))

/-- An instruction of the vector queue that accesses memory. -/
def runVecMem (i : Instr) (op : Nat) (f : Fields)
    (g : State → Nat → Nat → VCtx → Except KFail (State × Nat)) (s : State) : Host.Outcome State Fault Refusal :=
  .next (issue i s fun s c k x => vecIssue s c k x op f fun s ctx => g s c k ctx)

/-- The issue of a vector load (R300, R364): its data may come after later instructions of the strip, once its checks
have passed. -/
def loadIssue (s : State) (c k : Nat) (x : Kite) (op : Nat) (f : Fields)
    (plan : State → Nat → Nat → VCtx → Except KFail (HeldLoad × State))
    (now : State → Nat → Nat → VCtx → Except KFail (State × Nat)) : Res :=
  if !s.hold then vecIssue s c k x op f fun s ctx => now s c k ctx
  else if 8 ≤ x.vq.length || x.undispatched || movesQueued s c k then .notReady
  else
    let ctx := x.capture f
    match decodeAll s c k ctx (vecReads op f) with
    | .error e => e.res
    | .ok (ds, s) =>
      let fl := ds.foldl (fun m d => m ||| d.fl) 0
      match plan (takeDecoded s c k ds) c k ctx with
      | .error e => (e.undo c k x).res
      | .ok (h, s) =>
        .done (s.modKite c k fun y =>
          ((y.finishLst op f).advanceSeed f).enqueue { op := op, f := f, ctx := ctx, flags := fl, load := some h })

/-- An instruction that is a vector load. -/
def runLoad (i : Instr) (op : Nat) (f : Fields)
    (plan : State → Nat → Nat → VCtx → Except KFail (HeldLoad × State))
    (now : State → Nat → Nat → VCtx → Except KFail (State × Nat)) (s : State) : Host.Outcome State Fault Refusal :=
  .next (issue i s fun s c k x => loadIssue s c k x op f plan now)

/-- The kite without an entry of its vector queue, which has completed: its flags are delivered (R123, R150). -/
def Kite.complete (x : Kite) (i : Nat) (e : VqEntry) : Kite :=
  { x with vq := dropAt i x.vq, fpflags := x.fpflags ||| e.flags }

/-! ## Length -/

/-- setvl, R121, R122: it takes an entry of the vector queue like every instruction of OP 0x40 to 0x8B. -/
def execSetvl (f : Fields) (s : State) : Host.Outcome State Fault Refusal :=
  .next (issue (.setvl f) s fun s c k x =>
    if 8 ≤ x.vq.length then .notReady
    else
      let ty := f.ty.toNat
      let n := min (x.opd f.b).toNat (capOf x.mvlb ty)
      let n := if ty = 8 ∧ n % 2 = 1 then n + 1 else n
      let s := closeStrip s c k
      .done (s.modKite c k fun y =>
        ({ y with vlen := n * widthOf ty / 8, vlty := ty }.sset (opdValue f.a) (BitVec.ofNat 64 n)).enqueue
          { op := 0x40, f := f }))

/-- getmvl, R121. -/
def execGetmvl (f : Fields) (s : State) : Host.Outcome State Fault Refusal :=
  .next (issue (.getmvl f) s fun s c k x =>
    if 8 ≤ x.vq.length then .notReady
    else
      .done (s.modKite c k fun y =>
        (y.sset (opdValue f.a) (BitVec.ofNat 64 (capOf y.mvlb f.ty.toNat))).enqueue { op := 0x41, f := f }))

/-! ## The repeat prefix -/

/-- Whether an instruction may be the target of a rep (R133): its OP, and not a rep. -/
def repTarget (i : Instr) : Bool :=
  match carugParts i with
  | some (op, _, _, _) => (0x43 ≤ op && op ≤ 0x76) || (0x80 ≤ op && op ≤ 0x8B)
  | none => false

/-- rep, R133 to R135. DESIGN CHOICE (log 9): a target that R53 does not find raises at the rep also where the rep's own
guard is false, since the rep then retires with its target and has to find it; R26 says that no trap comes of an instruction
under a false guard, R133 that the fault of the target's location raises at the rep. It names the repetition that its target, the next instruction of the kite, then executes;
with a false guard it retires with its target, and so it does where it is issued anew with no repetition left. It takes
an entry of the vector queue. -/
def execRep (f : Fields) (s : State) : Host.Outcome State Fault Refusal :=
  match s.cur with
  | .reel _ => .next s
  | .kite c k =>
    let x := s.kite c k
    let raise := fun (t : Trap) => Host.Outcome.next (trapKite s c k t .here none)
    if x.st ≠ .flying then .next s
    else if !(legalInstr (.rep f)) then raise (trapAt 0x01 x.addr 0)
    else if x.guardComes f || decide (8 ≤ x.vq.length) then .next s
    else
      match x.nextPos with
      | .error t => raise t
      | .ok p =>
        let skip := moveTo s c k p
        if !(x.guardBit f 0) then .next (retire skip c k f.yld)
        else
          let cnt := (x.opd f.a).toNat
          let b := x.buf p.1
          let known := !b.filling && !(slotLines p.2).any fun l => b.bad.contains l
          let bad := known && !((x.wordAt p).map repTarget).getD false
          if bad = true ∨ cnt = 0 ∨ 65535 < cnt then raise (trapAt 0x01 x.addr 0)
          else if cnt ≤ x.repDone then
            .next (retire ((moveTo s c k p).modKite c k fun y =>
              { y with repAct := false, repDone := 0, repCount := 0, vq := y.vq ++ [{ op := 0x42, f := f }] }) c k f.yld)
          else if b.filling then .next (waitKite s c k (.fill p.1))
          else
            .next (s.modKite c k fun y =>
              { y with repAct := true, repCount := cnt, repRun := true, repStep := x.opd f.c, waitCount := 0
                       yielded := f.yld, vq := y.vq ++ [{ op := 0x42, f := f }] })

/-! ## Predicates -/

/-- plogic: bit i of p[A] := g(b, c) for each active, guarded i (R131). -/
def plogicBody (g : Bool → Bool → Bool) : VBody := fun x f ctx =>
  let b := x.pget (opdValue f.b)
  let c := x.pget (opdValue f.c)
  (x.writePred (opdValue f.a) (ctx.count f.ty.toNat) fun i => if ctx.on i then some (g (bit b i) (bit c i)) else none, 0)

/-- plogic.and, R131. -/
def execPlogicAnd (f : Fields) (s : State) := runVec (.plogicAnd f) 0x43 f (plogicBody fun b c => b && c) s
/-- plogic.or, R131. -/
def execPlogicOr (f : Fields) (s : State) := runVec (.plogicOr f) 0x43 f (plogicBody fun b c => b || c) s
/-- plogic.xor, R131. -/
def execPlogicXor (f : Fields) (s : State) := runVec (.plogicXor f) 0x43 f (plogicBody fun b c => xor b c) s
/-- plogic.andn, R131. -/
def execPlogicAndn (f : Fields) (s : State) := runVec (.plogicAndn f) 0x43 f (plogicBody fun b c => b && !c) s
/-- plogic.not, R131. -/
def execPlogicNot (f : Fields) (s : State) := runVec (.plogicNot f) 0x43 f (plogicBody fun b _ => !b) s
/-- plogic.set, R131. -/
def execPlogicSet (f : Fields) (s : State) := runVec (.plogicSet f) 0x43 f (plogicBody fun _ _ => true) s
/-- plogic.clear, R131. -/
def execPlogicClear (f : Fields) (s : State) := runVec (.plogicClear f) 0x43 f (plogicBody fun _ _ => false) s

/-- The active, guarded i with bit i of p[B] set (R132). -/
def Kite.chosenBits (x : Kite) (f : Fields) (ctx : VCtx) : List Nat :=
  let b := x.pget (opdValue f.b)
  (List.range (ctx.count f.ty.toNat)).filter fun i => bit b i && ctx.on i

/-- pcnt, R132. -/
def pcntBody : VBody := fun x f ctx =>
  (x.sset (opdValue f.a) (BitVec.ofNat 64 (x.chosenBits f ctx).length), 0)

/-- pfirst, R132. -/
def pfirstBody : VBody := fun x f ctx =>
  (x.sset (opdValue f.a) (match x.chosenBits f ctx with | i :: _ => BitVec.ofNat 64 i | [] => BitVec.allOnes 64), 0)

/-- pcnt, R132. -/
def execPcnt (f : Fields) (s : State) := runVec (.pcnt f) 0x44 f pcntBody s
/-- pfirst, R132. -/
def execPfirst (f : Fields) (s : State) := runVec (.pfirst f) 0x45 f pfirstBody s

end Sys2Proof.Machine
end

