-- ==== Sys2Proof/Machine/VecArith.lean ====
section
/-!
DEFINITION. Vector arithmetic, comparison, special functions and conversion (R158 to R173).
Open points: log 15 (DEDUCED, DESIGN CHOICE).
-/
namespace Sys2Proof.Machine

/-! ## Elementwise forms -/

/-- An elementwise instruction: each active, guarded element i is written with `g` of the element operands b
and c at i; the link is that of the first vector source (R159, R160, R163). -/
def elemBody (g : Fields → VCtx → Nat → Nat → Nat → Nat × Nat) : VBody := fun x f ctx =>
  let ty := f.ty.toNat
  x.writeVec (opdValue f.a) ty (ctx.count ty) (x.linkOf f) (guarded ctx fun i =>
    let b := x.velem ty (opdValue f.b) i
    let c := x.celem ctx ty f.c i
    let (v, fl) := g f ctx i b.v c.v
    { v := v, ok := b.ok && c.ok, fl := fl })

/-- An arithmetic form with an integer and a floating meaning (Table 8-2). -/
def arithBody (int : Nat → Nat → Nat → Nat) (flt : Rounding → Nat → Nat → Nat → Nat × Nat) : VBody :=
  elemBody fun f ctx i b c =>
    let ty := f.ty.toNat
    if isIType ty then (int ty b c, 0) else flt (ctx.rounding false i) ty b c

/-- A form that moves or combines bits without a flag. -/
def bitsBody (g : Nat → Nat → Nat → Nat) : VBody := elemBody fun f _ _ b c => (g f.ty.toNat b c, 0)

/-- vadd, Table 8-2. -/
def vaddBody : VBody := arithBody (fun ty b c => (b + c) % 2 ^ widthOf ty) fun r ty b c => fAdd r ty false b c
/-- vsub, Table 8-2. -/
def vsubBody : VBody :=
  arithBody (fun ty b c => iOp ty (fun x y => x - y) b c) fun r ty b c => fAdd r ty true b c
/-- vmul, Table 8-2. -/
def vmulBody : VBody := arithBody (fun ty b c => (b * c) % 2 ^ widthOf ty) fun r ty b c => fMul r ty b c
/-- vdiv, Table 8-2. -/
def vdivBody : VBody := arithBody iDiv fDiv
/-- vmin, Table 8-2. -/
def vminBody : VBody := arithBody (fun ty => iOp ty min) fun r ty b c => fMinMax r ty false b c
/-- vmax, Table 8-2. -/
def vmaxBody : VBody := arithBody (fun ty => iOp ty max) fun r ty b c => fMinMax r ty true b c
/-- vsqrt, Table 8-2. -/
def vsqrtBody : VBody := elemBody fun f ctx i b _ => fSqrt (ctx.rounding false i) f.ty.toNat b

/-- |b| of R164: by signedness on an I type, the sign bit cleared on a floating one. -/
def absBits (ty b : Nat) : Nat :=
  if isIType ty then ofInt (widthOf ty) (intVal ty b).natAbs else b % 2 ^ (widthOf ty - 1)
/-- −b of R164: on a floating type the sign bit inverted. -/
def negBits (ty b : Nat) : Nat :=
  if isIType ty then ofInt (widthOf ty) (-(intVal ty b)) else b ^^^ 2 ^ (widthOf ty - 1)

/-- vabs, R164. -/
def vabsBody : VBody := bitsBody fun ty b _ => absBits ty b
/-- vneg, R164. -/
def vnegBody : VBody := bitsBody fun ty b _ => negBits ty b
/-- vand, R164. -/
def vandBody : VBody := bitsBody fun _ b c => b &&& c
/-- vor, R164. -/
def vorBody : VBody := bitsBody fun _ b c => b ||| c
/-- vxor, R164. -/
def vxorBody : VBody := bitsBody fun _ b c => b ^^^ c
/-- vshl, R165: the count is the low log2(w) bits of the C element. -/
def vshlBody : VBody := bitsBody fun ty b c => (b <<< (c % widthOf ty)) % 2 ^ widthOf ty
/-- vshr.log, R165. -/
def vshrLogBody : VBody := bitsBody fun ty b c => b >>> (c % widthOf ty)
/-- vshr.ari, R165: b read as signed on every type. -/
def vshrAriBody : VBody :=
  bitsBody fun ty b c => ofInt (widthOf ty) (toSigned (widthOf ty) b / 2 ^ (c % widthOf ty))
/-- vmulh, Table 8-2. -/
def vmulhBody : VBody := bitsBody fun ty b c => iOp ty (fun x y => x * y / 2 ^ widthOf ty) b c
/-- vsat, R166: a scalar k is clamped into 1 to w. DESIGN CHOICE (log 15): k is all 64 bits of s[C], read unsigned, where
R158 gives a scalar operand as the low bits of its element's width, under TY. -/
def vsatBody : VBody := elemBody fun f ctx _ b _ =>
  let ty := f.ty.toNat
  (iSat ty (max 1 (min (widthOf ty) ctx.sc.toNat)) b, 0)
/-- vsfn of a function number, R170. -/
def vsfnBody (fn : Nat) : VBody := elemBody fun f ctx i b _ => fSpecial (ctx.rounding false i) f.ty.toNat fn b

/-- vfma, Table 8-2: a is the old element of v[A]; XF gives the signs. -/
def vfmaBody : VBody := fun x f ctx =>
  let ty := f.ty.toNat
  let np := bit f.xf.toNat 0
  let na := bit f.xf.toNat 1
  x.writeVec (opdValue f.a) ty (ctx.count ty) (x.linkOf f) (guarded ctx fun i =>
    let a := x.velem ty (opdValue f.a) i
    let b := x.velem ty (opdValue f.b) i
    let c := x.celem ctx ty f.c i
    let (v, fl) := fFma (ctx.rounding false i) ty np na b.v c.v a.v
    { v := v, ok := a.ok && b.ok && c.ok, fl := fl })

/-- vmadd, Table 8-2: b and c are read at half width with the signedness of TY. -/
def vmaddBody : VBody := fun x f ctx =>
  let ty := f.ty.toNat
  let half := ty - 1
  x.writeVec (opdValue f.a) ty (ctx.count ty) (x.linkOf f) (guarded ctx fun i =>
    let a := x.velem ty (opdValue f.a) i
    let b := x.velem half (opdValue f.b) i
    let c := x.celem ctx half f.c i
    { v := ofInt (widthOf ty) (intVal ty a.v + intVal half b.v * intVal half c.v), ok := a.ok && b.ok && c.ok })

/-- vsel, R168: the guard selects between b and c; every active element is written. -/
def vselBody : VBody := fun x f ctx =>
  let ty := f.ty.toNat
  x.writeVec (opdValue f.a) ty (ctx.count ty) (x.linkOf f) fun i =>
    let e := if ctx.on i then x.velem ty (opdValue f.b) i else x.celem ctx ty f.c i
    some { v := e.v, ok := e.ok }

/-- vcmp, R167: an element whose source validity is 0 writes 0, and raises no flag. -/
def vcmpBody (fn : Nat) : VBody := fun x f ctx =>
  let ty := f.ty.toNat
  let n := ctx.count ty
  let test := fun i =>
    let b := x.velem ty (opdValue f.b) i
    let c := x.celem ctx ty f.c i
    if !(b.ok && c.ok) then (false, 0)
    else if isIType ty then (iCmp ty fn b.v c.v, 0)
    else fCmp ctx.ftz ty fn b.v c.v
  (x.writePred (opdValue f.a) n fun i => if ctx.on i then some (test i).1 else none,
   iter n (fun i m => if ctx.on i then m ||| (test i).2 else m) 0)

/-- vclass, R169: the stored bits are classified. -/
def vclassBody : VBody := fun x f ctx =>
  let ty := f.ty.toNat
  let mask := opdValue f.c
  (x.writePred (opdValue f.a) (ctx.count ty) fun i =>
    if ctx.on i then some (bit mask (fClass ty (x.velem ty (opdValue f.b) i).v)) else none, 0)

/-! ## Conversion -/

/-- The E2M1B element j of a register as convert reads it (R142, R171). -/
def convertCode (r : Rounding) (v : VReg) (ty j : Nat) : Nat × Nat :=
  let (d, f0) := e2m1Value (v.elem 8 j) (v.scaleAt (j / 32)) (v.spareAt (j / 32))
  let (y, fl) := roundTo r ty d
  (y, f0 ||| fl)

/-- vcvt, R171: `double` says that the offset selects the source elements, else it places the results. -/
def vcvtBody (double : Bool) : VBody := fun x f ctx =>
  let ty := f.ty.toNat
  let xf := f.xf.toNat
  let n := ctx.len * 8 / max (widthOf ty) (widthOf xf)
  let o := match f.c with | .none => 0 | _ => ctx.sc.toNat
  let cap := capOf x.mvlb ty
  let src := x.vget (opdValue f.b)
  x.writeVec (opdValue f.a) ty (min (if double then n else n + o) cap) (x.linkOf f) fun d =>
    let j := if double then d + o else d - o
    let r := ctx.rounding true d
    let inside := decide (j < capOf x.mvlb xf)
    let (v, fl) :=
      if !inside then (if isIType ty then (0, 0) else (zeroBits ty false, 0))
      else if xf = 8 then convertCode r src ty j
      else convert r xf ty (src.elem xf j)
    if (double || decide (o ≤ d)) && ctx.on d then some { v := v, ok := !inside || src.valid (j / 32), fl := fl }
    else none

/-- The nearest E2M1B magnitude code to y ≥ 0 (R172): on a tie the even code; clamped to 6. -/
def nearestCode (y : Dy) : Nat :=
  let above := fun (m : Nat) (x : Int) => Dy.lt { m := m, x := x } y
  let at_ := fun (m : Nat) (x : Int) => Dy.eq { m := m, x := x } y
  if above 5 0 then 7 else if above 7 (-1) || at_ 7 (-1) then 6 else if above 5 (-1) then 5
  else if above 7 (-2) || at_ 7 (-2) then 4 else if above 5 (-2) then 3 else if above 3 (-2) || at_ 3 (-2) then 2
  else if above 1 (-2) then 1 else 0

/-- One element of a block through vcvtq: its index, y, and the magnitude code chosen. -/
structure QElem where
  i    : Nat := 0
  y    : Dy := {}
  code : Nat := 0

/-- |y| − |q| of an element, whose sign is dropped: the error of its code. -/
def QElem.err (e : QElem) : Dy := { (Dy.add 0 { e.y with neg := false } { neg := true, m := codeTwice e.code, x := -1 }) with neg := false }

/-- The element with the largest error, the lowest index on a tie. -/
def worstOf : List QElem → Option QElem
  | [] => none
  | e :: es =>
    match worstOf es with
    | some w => if Dy.lt e.err w.err then some w else some e
    | none => some e

/-- A block of vcvtq's result: codes by index, scale, spare, validity, flags. -/
structure QBlock where
  codes : List (Nat × Nat) := []
  scale : Nat := 0
  spare : Nat := 0
  ok    : Bool := true
  fl    : Nat := 0

/-- A block through vcvtq (R172): the F32 bits of its chosen elements by index, whether the source block is
valid, and whether a spare is asked for. -/
def quantBlock (ftz spareOn srcOk : Bool) (xs : List (Nat × Nat)) : QBlock :=
  if !srcOk || xs.any fun e => isNaN 13 e.2 || isInf 13 e.2 then
    { codes := xs.map fun e => (e.1, 0), scale := 255, ok := false, fl := snanFlag 13 (xs.map (·.2)) }
  else
    let vs := xs.map fun e => (e.1, finite ftz 13 e.2)
    let tops := (vs.filter fun e => !e.2.isZero).map fun e => (Nat.log2 e.2.m : Int) + e.2.x
    let big : Int := match tops with
      | [] => -127
      | t :: ts => max (-127) (min 127 (ts.foldl max t - 2))
    let qs := vs.map fun e =>
      let y : Dy := { e.2 with x := e.2.x - big }
      ({ i := e.1, y := y, code := nearestCode { y with neg := false } } : QElem)
    let inexact := qs.any fun e => !e.err.isZero
    let signed := fun (e : QElem) => if e.y.neg && e.code != 0 then 8 + e.code else e.code
    let codes := qs.map fun e => (e.i, signed e)
    let scale := (big + 127).toNat
    match if spareOn && inexact then worstOf qs else none with
    | some w =>
      let (sp, sf) := roundTo {} 9 w.y
      let rest := qs.any fun e => e.i != w.i && !e.err.isZero
      { codes := codes.map fun e => if e.1 = w.i then (e.1, 8) else e, scale := scale, spare := sp
        fl := flagIf (rest || sf != 0) fNX }
    | none => { codes := codes, scale := scale, fl := flagIf inexact fNX }

/-- vcvtq, R172. -/
def vcvtqBody : VBody := fun x f ctx =>
  let n := ctx.len * 2
  let c := x.mvlb / 4
  let a := opdValue f.a
  let b := opdValue f.b
  let (r, fl) := (List.range (ceilDiv n 32)).foldl (fun (p : VReg × Nat) j =>
    let all := (List.range 32).map (32 * j + ·)
    let es := all.filter fun i => decide (i < n) && ctx.on i
    if es.isEmpty then p
    else
      let src := b + 32 * j / c
      let ok := (x.vget src).valid (32 * j % c / 32)
      let q := quantBlock ctx.ftz (bit f.xf.toNat 0) ok (es.map fun i => (i, (x.vget src).elem 13 (i % c)))
      let keeps := all.any fun i => decide (i < capOf x.mvlb 8) && !(es.contains i)
      let valid := q.ok && (!keeps || p.1.valid j)
      let d := q.codes.foldl (fun d e => setBits d (4 * e.1) 4 e.2) p.1.data
      ({ p.1 with data := d, scale := setBits p.1.scale (8 * j) 8 q.scale
                  spare := setBits p.1.spare (8 * j) 8 q.spare, inval := setBit p.1.inval j !valid },
       if q.ok && !valid then p.2 else p.2 ||| q.fl))
    (x.vget a, 0)
  (x.vset a { r with tag := 8, link := none }, fl)

/-! ## Block scales, spares and validity -/

/-- The blocks that vbscl acts on (R173): the guard bit of element 32b governs block b. -/
def VCtx.blocks (ctx : VCtx) (ty : Nat) : List Nat :=
  (List.range (ceilDiv (ctx.count ty) 32)).filter fun b => ctx.on (32 * b)

/-- vbscl.rdscale and rdspare: the bytes of the blocks of v[B] as bytes of v[A]; validity bits counted as N8
set, link none. -/
def rdBytesBody (g : VReg → Nat → Nat) : VBody := fun x f ctx =>
  let a := opdValue f.a
  let src := x.vget (opdValue f.b)
  let r := (ctx.blocks 8).foldl (fun (r : VReg) b => { r with data := setBits r.data (8 * b) 8 (g src b) }) (x.vget a)
  let nb := ceilDiv (ctx.count 8) 32
  let inval := iter (ceilDiv nb 32) (fun j m => setBit m j false) r.inval
  (x.vset a { r with inval := inval, tag := 8, link := none }, 0)

/-- vbscl.wrscale: a scale of 0xFF clears the block's validity; data and link kept. -/
def wrscaleBody : VBody := fun x f ctx =>
  let a := opdValue f.a
  let src := x.vget (opdValue f.b)
  let r := (ctx.blocks 8).foldl (fun (r : VReg) b =>
    let e := src.elem 0 b
    { r with scale := setBits r.scale (8 * b) 8 e, inval := if e = 255 then setBit r.inval b true else r.inval })
    (x.vget a)
  (x.vset a { r with tag := 8 }, 0)

/-- vbscl.wrspare: data, validity and link kept. -/
def wrspareBody : VBody := fun x f ctx =>
  let a := opdValue f.a
  let src := x.vget (opdValue f.b)
  let r := (ctx.blocks 8).foldl (fun (r : VReg) b => { r with spare := setBits r.spare (8 * b) 8 (src.elem 0 b) })
    (x.vget a)
  (x.vset a { r with tag := 8 }, 0)

/-- vbscl.rdvalid: the validity bits of v[B] as bits of p[A]. -/
def rdvalidBody : VBody := fun x f ctx =>
  let bs := ctx.blocks f.ty.toNat
  let src := x.vget (opdValue f.b)
  (x.writePred (opdValue f.a) (ceilDiv (ctx.count f.ty.toNat) 32) fun b => if bs.contains b then some (src.valid b) else none, 0)

/-- vbscl.wrvalid: bits of p[B] as validity bits; data, scales, spares and link kept. -/
def wrvalidBody : VBody := fun x f ctx =>
  let a := opdValue f.a
  let p := x.pget (opdValue f.b)
  let r := (ctx.blocks f.ty.toNat).foldl (fun (r : VReg) b => { r with inval := setBit r.inval b !(bit p b) }) (x.vget a)
  (x.vset a { r with tag := f.ty.toNat }, 0)

/-! ## The instructions -/

/-- vadd, R163. -/
def execVadd (f : Fields) (s : State) := runVec (.vadd f) 0x50 f vaddBody s
/-- vsub, R163. -/
def execVsub (f : Fields) (s : State) := runVec (.vsub f) 0x51 f vsubBody s
/-- vmul, R163. -/
def execVmul (f : Fields) (s : State) := runVec (.vmul f) 0x52 f vmulBody s
/-- vfma, R163. -/
def execVfma (f : Fields) (s : State) := runVec (.vfma f) 0x53 f vfmaBody s
/-- vdiv, R163. -/
def execVdiv (f : Fields) (s : State) := runVec (.vdiv f) 0x54 f vdivBody s
/-- vsqrt, R163. -/
def execVsqrt (f : Fields) (s : State) := runVec (.vsqrt f) 0x55 f vsqrtBody s
/-- vmin, R163. -/
def execVmin (f : Fields) (s : State) := runVec (.vmin f) 0x56 f vminBody s
/-- vmax, R163. -/
def execVmax (f : Fields) (s : State) := runVec (.vmax f) 0x57 f vmaxBody s
/-- vabs, R164. -/
def execVabs (f : Fields) (s : State) := runVec (.vabs f) 0x58 f vabsBody s
/-- vneg, R164. -/
def execVneg (f : Fields) (s : State) := runVec (.vneg f) 0x59 f vnegBody s
/-- vand, R164. -/
def execVand (f : Fields) (s : State) := runVec (.vand f) 0x5A f vandBody s
/-- vor, R164. -/
def execVor (f : Fields) (s : State) := runVec (.vor f) 0x5B f vorBody s
/-- vxor, R164. -/
def execVxor (f : Fields) (s : State) := runVec (.vxor f) 0x5C f vxorBody s
/-- vshl, R165. -/
def execVshl (f : Fields) (s : State) := runVec (.vshl f) 0x5D f vshlBody s
/-- vshr.log, R165. -/
def execVshrLog (f : Fields) (s : State) := runVec (.vshrLog f) 0x5E f vshrLogBody s
/-- vshr.ari, R165. -/
def execVshrAri (f : Fields) (s : State) := runVec (.vshrAri f) 0x5E f vshrAriBody s
/-- vcmp.eq, R167. -/
def execVcmpEq (f : Fields) (s : State) := runVec (.vcmpEq f) 0x5F f (vcmpBody 0) s
/-- vcmp.ne, R167. -/
def execVcmpNe (f : Fields) (s : State) := runVec (.vcmpNe f) 0x5F f (vcmpBody 1) s
/-- vcmp.lt, R167. -/
def execVcmpLt (f : Fields) (s : State) := runVec (.vcmpLt f) 0x5F f (vcmpBody 2) s
/-- vcmp.le, R167. -/
def execVcmpLe (f : Fields) (s : State) := runVec (.vcmpLe f) 0x5F f (vcmpBody 3) s
/-- vcmp.gt, R167. -/
def execVcmpGt (f : Fields) (s : State) := runVec (.vcmpGt f) 0x5F f (vcmpBody 4) s
/-- vcmp.ge, R167. -/
def execVcmpGe (f : Fields) (s : State) := runVec (.vcmpGe f) 0x5F f (vcmpBody 5) s
/-- vcmp.uo, R167. -/
def execVcmpUo (f : Fields) (s : State) := runVec (.vcmpUo f) 0x5F f (vcmpBody 6) s
/-- vcmp.ord, R167. -/
def execVcmpOrd (f : Fields) (s : State) := runVec (.vcmpOrd f) 0x5F f (vcmpBody 7) s
/-- vsel, R168. -/
def execVsel (f : Fields) (s : State) := runVec (.vsel f) 0x60 f vselBody s
/-- vmulh, R163. -/
def execVmulh (f : Fields) (s : State) := runVec (.vmulh f) 0x61 f vmulhBody s
/-- vmadd, R163. -/
def execVmadd (f : Fields) (s : State) := runVec (.vmadd f) 0x62 f vmaddBody s
/-- vsat, R166. -/
def execVsat (f : Fields) (s : State) := runVec (.vsat f) 0x63 f vsatBody s
/-- vsfn.exp2, R170. -/
def execVsfnExp2 (f : Fields) (s : State) := runVec (.vsfnExp2 f) 0x64 f (vsfnBody 0) s
/-- vsfn.log2, R170. -/
def execVsfnLog2 (f : Fields) (s : State) := runVec (.vsfnLog2 f) 0x64 f (vsfnBody 1) s
/-- vsfn.rcp, R170. -/
def execVsfnRcp (f : Fields) (s : State) := runVec (.vsfnRcp f) 0x64 f (vsfnBody 2) s
/-- vsfn.rsqrt, R170. -/
def execVsfnRsqrt (f : Fields) (s : State) := runVec (.vsfnRsqrt f) 0x64 f (vsfnBody 3) s
/-- vsfn.tanh, R170. -/
def execVsfnTanh (f : Fields) (s : State) := runVec (.vsfnTanh f) 0x64 f (vsfnBody 4) s
/-- vsfn.sigmoid, R170. -/
def execVsfnSigmoid (f : Fields) (s : State) := runVec (.vsfnSigmoid f) 0x64 f (vsfnBody 5) s
/-- vsfn.erf, R170. -/
def execVsfnErf (f : Fields) (s : State) := runVec (.vsfnErf f) 0x64 f (vsfnBody 6) s
/-- vsfn.sin, R170. -/
def execVsfnSin (f : Fields) (s : State) := runVec (.vsfnSin f) 0x64 f (vsfnBody 7) s
/-- vclass, R169. -/
def execVclass (f : Fields) (s : State) := runVec (.vclass f) 0x65 f vclassBody s
/-- vcvt.halve, R171. -/
def execVcvtHalve (f : Fields) (s : State) := runVec (.vcvtHalve f) 0x66 f (vcvtBody false) s
/-- vcvt.double, R171. -/
def execVcvtDouble (f : Fields) (s : State) := runVec (.vcvtDouble f) 0x66 f (vcvtBody true) s
/-- vcvtq, R172. -/
def execVcvtq (f : Fields) (s : State) := runVec (.vcvtq f) 0x67 f vcvtqBody s
/-- vbscl.rdscale, R173. -/
def execVbsclRdscale (f : Fields) (s : State) := runVec (.vbsclRdscale f) 0x68 f (rdBytesBody VReg.scaleAt) s
/-- vbscl.wrscale, R173. -/
def execVbsclWrscale (f : Fields) (s : State) := runVec (.vbsclWrscale f) 0x68 f wrscaleBody s
/-- vbscl.rdvalid, R173. -/
def execVbsclRdvalid (f : Fields) (s : State) := runVec (.vbsclRdvalid f) 0x68 f rdvalidBody s
/-- vbscl.wrvalid, R173. -/
def execVbsclWrvalid (f : Fields) (s : State) := runVec (.vbsclWrvalid f) 0x68 f wrvalidBody s
/-- vbscl.rdspare, R173. -/
def execVbsclRdspare (f : Fields) (s : State) := runVec (.vbsclRdspare f) 0x68 f (rdBytesBody VReg.spareAt) s
/-- vbscl.wrspare, R173. -/
def execVbsclWrspare (f : Fields) (s : State) := runVec (.vbsclWrspare f) 0x68 f wrspareBody s

end Sys2Proof.Machine
end

