-- ==== Sys2Proof/Machine/Matrix.lean ====
section
/-!
DEFINITION. The matrix array (chapter 11): tiles and their storage (R221 to R226, R399), the collective grant
(R227), operand records (R228 to R231), mma by K blocks (R232 to R237), and the moves of accumulators (R238 to
R241).
Open points: logs 19 (DEDUCED), 20 (DEDUCED, DESIGN CHOICE), 21 (DEDUCED, DESIGN CHOICE).
-/
namespace Sys2Proof.Machine

/-! ## Tiles -/

/-- Whether an accumulator is part of a granted pair tile. -/
def Crew.inPair (w : Crew) (t : Nat) : Bool :=
  let e := w.tiles.get (t / 2 * 2)
  e.pair && e.owner.isSome

/-- Whether an accumulator is the odd mate of a pair tile, which holds no grant of its own (R224). -/
def Crew.isMate (w : Crew) (t : Nat) : Bool := t % 2 == 1 && w.inPair t

/-- The accumulator that a grant naming t is held under. -/
def Crew.tileBase (w : Crew) (t : Nat) : Nat := if w.inPair t then t / 2 * 2 else t

/-- The accumulator and position that hold flat position f of a tile (R222). -/
def cellOf (t : Nat) (pair : Bool) (f : Nat) : Nat × Nat := if pair && 12288 ≤ f then (t + 1, f - 12288) else (t, f)

/-- The bits at flat position f of tile t, and its validity. -/
def Crew.cell (w : Crew) (t f : Nat) : Nat × Bool :=
  let (a, p) := cellOf t (w.tiles.get t).pair f
  let x := w.acc.get a
  (x.el.get p, !(bit x.inval p))

/-- The crew with the bits at flat position f of tile t written. -/
def Crew.putCell (w : Crew) (t f v : Nat) : Crew :=
  let (a, p) := cellOf t (w.tiles.get t).pair f
  { w with acc := w.acc.mod a fun x => { x with el := x.el.put p v } }

/-- The crew with the validity at flat position f of a tile of the given pairing set. -/
def Crew.putValid (w : Crew) (t : Nat) (pair : Bool) (f : Nat) (ok : Bool) : Crew :=
  let (a, p) := cellOf t pair f
  { w with acc := w.acc.mod a fun x => { x with inval := setBit x.inval p (!ok) } }

/-- The flat positions that validity bit (i, b) of a tile of N columns covers (R222). -/
def groupCells (n i b : Nat) : List Nat := (List.range (min 32 (n - 32 * b))).map fun j => i * n + 32 * b + j

/-- The crew with validity bit (i, b) of granted tile t set to ok. -/
def Crew.setGroup (w : Crew) (t i b : Nat) (ok : Bool) : Crew :=
  let e := w.tiles.get t
  (groupCells e.n i b).foldl (fun w f => w.putValid t e.pair f ok) w

/-- Every element of granted tile t zero and valid. -/
def Crew.clearTile (w : Crew) (t : Nat) : Crew :=
  let e := w.tiles.get t
  iter (e.m * e.n) (fun f w => (w.putCell t f 0).putValid t e.pair f true) w

/-! ## Grants -/

/-- Fields of a request or grant word (Table 11-3). -/
def reqM (q : Nat) : Nat := bits q 15 0
def reqN (q : Nat) : Nat := bits q 31 16
def reqGR (q : Nat) : Nat := bits q 35 32
def reqGC (q : Nat) : Nat := bits q 39 36
def reqPR (q : Nat) : Nat := bits q 43 40
def reqPC (q : Nat) : Nat := bits q 47 44

/-- The word of a refusal with its reason (Table 11-4). -/
def refusal (why : Nat) : Word := BitVec.ofNat 64 (2 ^ 63 + why * 2 ^ 48)

/-- The number of column groups that the crew may use (R223). -/
def Crew.groups (w : Crew) : Nat := countBelow 8 fun i => bit w.colGood i

/-- The accumulators that a tshape of kite k on accumulator b acts on (R226). -/
def Crew.tshapeParts (w : Crew) (k b : Nat) (pair : Bool) : List Nat :=
  if pair then [b, b + 1]
  else if w.inPair b && (w.tiles.get b).owner == some k then [b / 2 * 2, b / 2 * 2 + 1]
  else [b]

/-- The validity of accumulators under a new grant of M × N (R399): the earlier bits by group, and every
position outside it valid. -/
def Crew.revalidate (w : Crew) (t : Nat) (pair : Bool) (m n : Nat) : Crew :=
  let old := fun f => let (a, p) := cellOf t pair f; !(bit (w.acc.get a).inval p)
  let parts := if pair then [t, t + 1] else [t]
  let fresh := parts.foldl (fun (w : Crew) a => { w with acc := w.acc.mod a fun x => { x with inval := 0 } }) w
  iter m (fun i w => iter (ceilDiv n 32) (fun b w =>
    let cs := groupCells n i b
    if cs.all old then w else cs.foldl (fun w f => w.putValid t pair f false) w) w) fresh

/-- The crew with some accumulators released, their contents kept. -/
def Crew.releaseTiles (w : Crew) (ts : List Nat) : Crew :=
  { w with tiles := ts.foldl (fun (t : Tab Tile) a => t.del a) w.tiles }

/-- The crew with tile e granted at accumulator b, where `parts` are held by its owner: what the grant does not
cover is released (R226, R399). -/
def Crew.grant (w : Crew) (parts : List Nat) (b : Nat) (e : Tile) : Crew :=
  let w := w.releaseTiles parts
  let w := w.revalidate b e.pair e.m e.n
  let mate : Tile := { owner := e.owner, at_ := e.at_ }
  { w with tiles := if e.pair then (w.tiles.set b e).set (b + 1) mate else w.tiles.set b e }

/-- The local decision of R226 but for reason 3: a reason to refuse, or the M and N granted; 0 by 0 is a
release. -/
def Crew.decide (w : Crew) (k : Nat) (parts : List Nat) (pair : Bool) (q : Nat) : Except Nat (Nat × Nat) :=
  let other := parts.any fun a => match (w.tiles.get a).owner with | some o => o != k | none => false
  if other then .error 1
  else if reqM q = 0 ∨ reqN q = 0 then .ok (0, 0)
  else if w.groups = 0 then .error 5
  else .ok (min (reqM q) 128, min (reqN q) ((if pair then 24 else 12) * w.groups))

/-- Whether an engine command at a port acts on a tile (R241): a SAMP of the core names its accumulator. -/
def Cmd.onTile (m : Cmd) (t : Nat) : Bool :=
  (m.d.getD 0 0).toNat % 256 == 4 && (m.d.getD 5 0).toNat % 4 == t

/-- Whether an engine command in flight acts on one of some accumulators. -/
def Crew.engineOn (w : Crew) (ts : List Nat) : Bool :=
  (w.ports.get 0).cmds.any fun m => ts.any fun t => m.onTile (w.tileBase t) || m.onTile t

/-- Whether matrix instructions of kite k wait on tile t, or on any. -/
def Crew.queuedFor (w : Crew) (k : Nat) (t : Option Nat) : Bool :=
  w.tq.any fun e => (match t with | some a => e.1 == a | none => true) && e.2.any fun m => m.owner == k

/-- Whether a tshape of kite k waits on some accumulators (R226, R241). -/
def Crew.tileBusy (w : Crew) (k : Nat) (parts : List Nat) : Bool :=
  parts.any fun t => (w.tiles.get t).owner == some k && (w.queuedFor k (some t) || w.engineOn [t])

/-- tshape.core, R225, R226. -/
def execTshapeCore (f : Fields) (s : State) : Host.Outcome State Fault Refusal :=
  .next (issue (.tshapeCore f) s fun s c k x =>
    let w := s.crew c
    let b := opdValue f.b
    let pair := bit f.xf.toNat 0
    let parts := w.tshapeParts k b pair
    let q := (x.opd f.c).toNat
    let finish := fun (s : State) (v : Word) => Res.done (s.modKite c k fun y => y.sset (opdValue f.a) v)
    if w.tileBusy k parts then .wait s (.tile b)
    else if bits q 63 32 ≠ 0 then finish s (refusal 3)
    else
      match w.decide k parts pair q with
      | .error why => finish s (refusal why)
      | .ok (0, _) => finish (s.modCrew c fun w => w.releaseTiles parts) 0
      | .ok (m, n) =>
        let e : Tile := { owner := some k, m := m, n := n, at_ := f.ty.toNat, pair := pair }
        finish (s.modCrew c fun w => w.grant parts b e) (BitVec.ofNat 64 (m + n * 2 ^ 16)))

/-! ## The collective grant -/

/-- Whether a request of tshape.flight names no position of a grid of the flight: it is refused at once. -/
def badGrid (q crews : Nat) : Bool :=
  let gr := reqGR q
  let gc := reqGC q
  gr == 0 || gc == 0 || decide (4 < gr) || decide (4 < gc) || decide (crews < gr * gc) ||
    decide (gr ≤ reqPR q) || decide (gc ≤ reqPC q)

/-- The request without its position, which the participants share. -/
def sharedReq (q : Nat) : Nat := setBits q 40 8 0

/-- The answers of a collective whose participants have all arrived, in their order: to each, a refusal or the
common grant (R227). -/
def tsAnswers (ps : List TsPart) : List (TsPart × Except Nat (Nat × Nat)) :=
  let p0 := ps.headD {}
  let same := ps.all fun p => sharedReq p.req == sharedReq p0.req && p.xf == p0.xf && p.ty == p0.ty
  let refused := ps.any fun p => p.why != 0
  let m := ps.foldl (fun a p => min a p.m) (2 ^ 16)
  let n := ps.foldl (fun a p => min a p.n) (2 ^ 16)
  ps.map fun p =>
    (p, if !same then .error 2
        else if p.why ≠ 0 then .error p.why
        else if refused then .error 4
        else .ok (m, n))

/-- What an answer does at its participant: the tile granted, or what was held for it released; and the word. -/
def tsApply (s : State) (acc : Nat) (a : TsPart × Except Nat (Nat × Nat)) : State × Word :=
  let (p, r) := a
  let pair := bit p.xf 0
  let parts := (s.crew p.core).tshapeParts p.kite acc pair
  let held := parts.filter fun t => ((s.crew p.core).tiles.get t).owner == some p.kite
  match r with
  | .error why => (s.modCrew p.core fun w => if p.why = 0 then w.releaseTiles held else w, refusal why)
  | .ok (0, _) => (s.modCrew p.core fun w => w.releaseTiles held, 0)
  | .ok (m, n) =>
    let gr := reqGR p.req
    let gc := reqGC p.req
    let e : Tile := { owner := some p.kite, m := m, n := n, at_ := p.ty, pair := pair, gr := gr, gc := gc
                      pr := p.pr, pc := p.pc }
    (s.modCrew p.core fun w => w.grant held acc e,
     BitVec.ofNat 64 (m + n * 2 ^ 16 + gr * 2 ^ 32 + gc * 2 ^ 36 + p.pr * 2 ^ 40 + p.pc * 2 ^ 44))

/-- The end of a collective: every participant's answer. -/
def tsFinish (s : State) (fl acc : Nat) : State :=
  let ps := (s.flight fl).tsArr.get acc
  (tsAnswers ps).foldl (fun s a =>
    let (s, w) := tsApply s acc a
    s.modFlight fl fun f =>
      { f with tsDone := f.tsDone.mod acc fun l => l ++ [{ core := a.1.core, kite := a.1.kite, word := w }] })
    (s.modFlight fl fun f => { f with tsArr := f.tsArr.del acc })

/-- The answer that waits for a participant. -/
def tsAnswer (s : State) (c k acc : Nat) : Option Word :=
  (((s.flight (s.crew c).flight).tsDone.get acc).find? fun d => d.core == c && d.kite == k).map (·.word)

/-- The end of tshape.flight at a participant whose answer has come. -/
def tsTake (s : State) (c k acc rd : Nat) (w : Word) : State :=
  (s.modFlight (s.crew c).flight fun f =>
    { f with tsDone := f.tsDone.mod acc fun l => l.filter fun d => !(d.core == c && d.kite == k) }).modKite c k
      fun y => y.sset rd w

/-- A participant's arrival: its local decision, and the accumulators that a grant would take, held (R227). DESIGN CHOICE
(log 21): the decision stands as it was made at the arrival where the crew comes back from a switch-out with fewer column
groups, although a grant that follows may then exceed the limit of R223 there; R227 decides at arrival, and no rule decides
anew. -/
def tsArrive (s : State) (c k : Nat) (f : Fields) (q : Nat) (parts : List Nat) : State :=
  let pair := bit f.xf.toNat 0
  let local_ := if bits q 63 48 ≠ 0 then .error 3 else (s.crew c).decide k parts pair q
  let p : TsPart := { core := c, kite := k, pr := reqPR q, pc := reqPC q, req := q, xf := f.xf.toNat, ty := f.ty.toNat }
  let p := match local_ with
    | .error why => { p with why := why }
    | .ok (m, n) => { p with m := m, n := n }
  let s := match local_ with
    | .error _ => s
    | .ok _ => s.modCrew c fun w =>
        { w with tiles := parts.foldl (fun (t : Tab Tile) a => t.mod a fun e => { e with owner := some k }) w.tiles }
  s.modFlight (s.crew c).flight fun fl => { fl with tsArr := fl.tsArr.mod (opdValue f.b) fun l => l ++ [p] }

/-- tshape.flight, R225, R227. -/
def execTshapeFlight (f : Fields) (s : State) : Host.Outcome State Fault Refusal :=
  .next (issue (.tshapeFlight f) s fun s c k x =>
    let w := s.crew c
    let b := opdValue f.b
    let rd := opdValue f.a
    let fl := w.flight
    let arrived := (s.flight fl).tsArr.get b
    let parts := w.tshapeParts k b (bit f.xf.toNat 0)
    let q := (x.opd f.c).toNat
    let refuse := fun (why : Nat) => Res.done (s.modKite c k fun y => y.sset rd (refusal why))
    match tsAnswer s c k b with
    | some v => .done (tsTake s c k b rd v)
    | none =>
      if arrived.any fun p => p.core == c && p.kite == k then .wait s (.tshape b)
      else if w.tileBusy k parts then .wait s (.tile b)
      else if badGrid q (s.flight fl).cores.length then refuse 3
      else if arrived.any fun p => p.pr == reqPR q && p.pc == reqPC q then refuse 2
      else
        let s := tsArrive s c k f q parts
        let ps := (s.flight fl).tsArr.get b
        let p0 := ps.headD {}
        if ps.length < reqGR p0.req * reqGC p0.req then .wait s (.tshape b)
        else
          let s := tsFinish s fl b
          .done (tsTake s c k b rd ((tsAnswer s c k b).getD 0)))

/-! ## Operand records -/

/-- Fields of an operand record (Table 11-6). -/
def recBase (r : Nat) : Nat := bits r 255 192
def recOStr (r : Nat) : Int := toSigned 32 (bits r 191 160)
def recKStr (r : Nat) : Int := toSigned 16 (bits r 159 144)
def recOExt (r : Nat) : Nat := bits r 143 128
def recKExt (r : Nat) : Nat := bits r 127 112
def recScale (r : Nat) : Nat := bits r 111 64
def recCore (r : Nat) : Nat := bits r 55 52
def recTy (r : Nat) : Nat := bits r 47 44
def recSpace (r : Nat) : Nat := bits r 43 40
def recNsp (r : Nat) : Bool := bit r 39
def recRem (r : Nat) : Bool := bit r 38

/-- The types that a record may name. -/
def recTypes : List Nat := [0, 8, 9, 10, 11, 12]

/-- The number of the lowest bit set, below n; n if none is. -/
def lowBit (x n : Nat) : Nat := ((List.range n).find? fun i => bit x i).getD n

/-- The lowest of the bit numbers whose condition holds. -/
def lowestOf (l : List (Nat × Bool)) : Option Nat :=
  l.foldl (fun r e => if e.2 then some (match r with | some b => min b e.1 | none => e.1) else r) none

/-- The reserved bits of an operand record. -/
def recReserved : Nat := ones 38 ||| 15 <<< 48 ||| 255 <<< 56

/-- The bit number of the lowest offending field of a record, or none (R230). DESIGN CHOICE (log 20): for a reserved field
that is not zero it is that of its lowest bit set; R230 says the bit number of the lowest offending field. -/
def recBad (r : Nat) : Option Nat :=
  let ty := recTy r
  let w := if ty = 8 then 16 else widthOf ty / 8
  let known := recTypes.contains ty
  let sw := if recNsp r then 1 else 2
  lowestOf
    [ (lowBit (r &&& recReserved) 64, r &&& recReserved != 0), (44, !known), (40, decide (3 < recSpace r))
    , (38, recRem r && recSpace r != 1), (39, ty != 8 && recNsp r)
    , (64, if ty = 8 then recScale r % sw != 0 else recScale r != 0)
    , (192, known && recBase r % w != 0), (160, known && bits r 191 160 % w != 0)
    , (144, known && ty != 8 && bits r 159 144 % w != 0) ]

/-- mrec, R230: the record is in place as it retires (R231). -/
def execMrec (f : Fields) (s : State) : Host.Outcome State Fault Refusal :=
  .next (issue (.mrec f) s fun s c k x =>
    let a := x.memAddr f.b
    match recLoad s c k a f.rd.toNat with
    | .error e => e.res
    | .ok (r, s) =>
      let r := match f.c with | .s i => setBits r 192 64 (x.sget i.toNat).toNat | _ => r
      match recBad r with
      | some b => .raise s (trapAt 0x11 a b) .here none
      | none => .done (s.modCrew c fun w => { w with recs := w.recs.set (opdValue f.a) r }))

/-! ## Operand elements -/

/-- The address of element (o, k) (R229): that of its byte for E2M1B. -/
def recAddr (r o k : Nat) : Nat :=
  ofInt 64 (recBase r + o * recOStr r + (if recTy r = 8 then ((k / 2 : Nat) : Int) else k * recKStr r))

/-- The address of the scale byte of block kb at outer index o, and its width with the spare (R229). -/
def recScaleAddr (r o kb : Nat) : Nat × Nat :=
  let w := if recNsp r then 1 else 2
  ((recScale r + (o * ceilDiv (recKExt r) 32 + kb) * w) % 2 ^ 64, w)

/-- The indices k of block kb at which an operand is read: those below KEXT (R229). -/
def blockKs (r kb : Nat) : List Nat := (List.range 32).filterMap fun j => if 32 * kb + j < recKExt r then some (32 * kb + j) else none

/-- The addresses that block kb reads of an operand for `count` outer indices from o0, with their widths. -/
def blockReads (r o0 count kb : Nat) : List (Nat × Nat) :=
  let os := (List.range count).map (o0 + ·) |>.filter fun o => decide (o < recOExt r)
  let ks := blockKs r kb
  os.flatMap fun o =>
    if recTy r = 8 then
      let (a, w) := recScaleAddr r o kb
      (ks.map fun k => (recAddr r o k, 1)) ++ (List.range w).map fun j => ((a + j) % 2 ^ 64, 1)
    else ks.map fun k => (recAddr r o k, widthOf (recTy r) / 8)

/-- The core whose scratchpad a record names; none where that core runs no crew of the flight (R235). -/
def recOwner (s : State) (c r : Nat) : Option Nat :=
  if recRem r then
    let o := 16 * clusterOf c + recCore r
    if s.hasCrew o && (s.crew o).flight == (s.crew c).flight then some o else none
  else some c

/-- The check of one read (R235, R237): translation, or the extent of its space. -/
def readCheck (s : State) (c r a n : Nat) : Except XErr State :=
  if recSpace r = 0 then
    match translate s c (s.crew c).ctx a .load .engine with
    | .ok (_, s) => .ok s
    | .error e => .error e
  else
    match recOwner s c r with
    | some o => if a + n ≤ extent s o (recSpace r) then .ok s else .error .denied
    | none => .error .denied

/-- The checks of some reads of an operand: the state, and the lowest address that fails, with its error. -/
def readsCheck (s : State) (c r : Nat) (as : List (Nat × Nat)) : State × Option (Nat × XErr) :=
  as.foldl (fun (p : State × Option (Nat × XErr)) e =>
    match readCheck p.1 c r e.1 e.2 with
    | .ok s => (s, p.2)
    | .error x =>
      (p.1, match p.2 with
        | some (a, y) => if e.1 < a then some (e.1, x) else some (a, y)
        | none => some (e.1, x))) (s, none)

/-- One byte of an operand (R235). -/
def operandByte (s : State) (c view r a : Nat) : Byte :=
  if recSpace r = 0 then
    match translate s c (s.crew c).ctx a .load .engine with
    | .ok (p, _) => engineByte s c (s.crew c).ctx view p.a
    | .error _ => 0
  else memGet (spMem s ((recOwner s c r).getD c) (recSpace r)) a

/-- n bytes of an operand, as a number. -/
def operandRead (s : State) (c view r a n : Nat) : Nat :=
  ofBytes ((List.range n).map fun j => operandByte s c view r (a + j))

/-- A row of an operand block: its elements, the exponent of its scale, its validity, and the flags of its
reading. -/
structure BlockRow where
  els : List FNum
  exp : Int
  ok  : Bool
  fl  : Nat
  deriving DecidableEq, Repr

/-- The 32 elements of a block from those that were read: one at or above KEXT is zero (R229, R233). -/
def wholeBlock (es : List FNum) : List FNum := es ++ List.replicate (32 - es.length) (.num {})

/-- The elements of block kb at outer index o (R229, R234). -/
def operandRow (s : State) (c view r o kb : Nat) : BlockRow :=
  let ks := blockKs r kb
  let zeros := wholeBlock []
  if recOExt r ≤ o then { els := zeros, exp := 0, ok := true, fl := 0 }
  else if recTy r = 8 then
    let (a, _) := recScaleAddr r o kb
    let scale := operandRead s c view r a 1
    let spare := if recNsp r then 0 else operandRead s c view r ((a + 1) % 2 ^ 64) 1
    if scale = 255 then { els := zeros, exp := 0, ok := false, fl := 0 }
    else
      let es := ks.map fun k => e2m1Unscaled (operandRead s c view r (recAddr r o k) 1 >>> (4 * (k % 2)) % 16) spare
      { els := wholeBlock (es.map fun e => .num e.1), exp := scale - 127, ok := true, fl := flagIf (es.any (·.2)) fNV }
  else
    let ty := recTy r
    let raw := ks.map fun k => operandRead s c view r (recAddr r o k) (widthOf ty / 8)
    { els := wholeBlock (raw.map fun x => if ty = 0 then .num (Dy.ofInt (toSigned 8 x)) else unpack false ty x)
      exp := 0, ok := true, fl := 0 }

/-! ## Sums -/

/-- The product of two elements (R234). -/
def FNum.mul : FNum → FNum → Prod
  | .num x, .num y => .num (x.mul y)
  | .inf n, .inf m => .inf (xor n m)
  | .inf n, .num y => if y.isZero then .bad else .inf (xor n y.neg)
  | .num x, .inf m => if x.isZero then .bad else .inf (xor x.neg m)
  | _, _ => .bad

/-- The sum of two terms of a group (R234). -/
def Prod.add : Prod → Prod → Prod
  | .num x, .num y => .num (x.add 0 y)
  | .inf n, .inf m => if n = m then .inf n else .bad
  | .inf n, .num _ => .inf n
  | .num _, .inf m => .inf m
  | _, _ => .bad

/-- The exact sum of a group (R155). -/
def groupSum (xs ys : List FNum) : Prod :=
  ((xs.zip ys).map fun e => e.1.mul e.2).foldl Prod.add (.num {})

/-- A group sum times a power of two, negated with NEG. -/
def Prod.scaled (p : Prod) (x : Int) (neg : Bool) : Prod :=
  match p with
  | .num d => .num ({ d with x := d.x + x }.flip neg)
  | .inf n => .inf (xor n neg)
  | .bad => .bad

/-- combine of R233 under the cases of R234: the accumulator's bits and the flags. -/
def combine (x : Nat) (p : Prod) : Nat × Nat :=
  if isNaN 13 x then (quiet 13 x, flagIf (p == .bad || isSNaN 13 x) fNV)
  else
    match p with
    | .bad => (canonNaN 13, fNV)
    | .inf n => fAdd {} 13 false x (infBits 13 n)
    | .num d =>
      if isInf 13 x then (x, 0)
      else
        let (v, fl) := roundTo {} 13 ((finite false 13 x).add 0 d)
        (v, fl &&& fOF)

/-- The exact integer sum of a group of S8 (R155). -/
def Prod.int : Prod → Int
  | .num d => d.at 0
  | _ => 0

/-- The number of k in a group (R155). -/
def groupSize (ty : Nat) : Nat := if ty = 0 ∨ ty = 8 then 32 else if ty ≤ 10 then 16 else 8

/-- The list cut into pieces of n elements. -/
def chunks {α : Type} (n : Nat) : Nat → List α → List (List α)
  | 0, _ => []
  | fuel + 1, l => if l.isEmpty then [] else l.take n :: chunks n fuel (l.drop n)

/-- An accumulator element after a K block (R233): its bits and the flags. -/
def blockCell (ty : Nat) (neg : Bool) (a b : BlockRow) (x : Nat) : Nat × Nat :=
  let g := groupSize ty
  ((chunks g 4 a.els).zip (chunks g 4 b.els)).foldl (fun (r : Nat × Nat) e =>
    let p := groupSum e.1 e.2
    if ty = 0 then (ofInt 32 (r.1 + (if neg then -p.int else p.int)), r.2)
    else
      let (v, fl) := combine r.1 (p.scaled (a.exp + b.exp) neg)
      (v, r.2 ||| fl)) (x, 0)

/-- The crew after K block of an mma on tile t with the rows of its operands (R233, R234), and the flags. -/
def Crew.applyBlock (w : Crew) (t ty : Nat) (neg : Bool) (as bs : List BlockRow) : Crew × Nat :=
  let n := (w.tiles.get t).n
  (as.zipIdx).foldl (fun (r : Crew × Nat) ai =>
    (bs.zipIdx).foldl (fun (r : Crew × Nat) bj =>
      let (w, fl) := r
      let f := ai.2 * n + bj.2
      let (v, g) := blockCell ty neg ai.1 bj.1 (w.cell t f).1
      let w := w.putCell t f v
      (if ai.1.ok && bj.1.ok then w else w.setGroup t ai.2 (bj.2 / 32) false, fl ||| g)) r) (w, 0)

/-! ## Moves between tiles and registers -/

/-- A conversion of an accumulator element into TY (R239): the bits and the flags. -/
def accRead (r : Rounding) (at_ ty x : Nat) : Nat × Nat := convert r at_ ty x

/-- An element widened exactly into an accumulator (R239). -/
def accWrite (at_ ty x : Nat) : Nat := if ty = at_ then x else (convert {} ty at_ x).1

/-- maccrd of tile t by a kite with what it captured (R239): the kite and the flags. -/
def maccrdBody (w : Crew) (t : Nat) (x : Kite) (f : Fields) (ctx : VCtx) : Kite × Nat :=
  let e := w.tiles.get t
  let ty := f.ty.toNat
  x.writeVec (opdValue f.a) ty (ctx.count ty) none fun i =>
    let p := ctx.sc.toNat + i
    let (v, ok) := if p < e.m * e.n then w.cell t p else (0, true)
    let (r, fl) := accRead (ctx.rounding true i) e.at_ ty v
    some { v := r, ok := ok, fl := fl }

/-- Validity bit (i, b) of tile t after a maccwr of positions lo to hi − 1 from a register (R239). -/
def maccwrValid (w : Crew) (t : Nat) (v : VReg) (lo hi i b : Nat) : Bool :=
  (groupCells (w.tiles.get t).n i b).all fun p =>
    if lo ≤ p ∧ p < hi then v.valid ((p - lo) / 32) else (w.cell t p).2

/-- maccwr of tile t from a register (R239). -/
def maccwrBody (w : Crew) (t : Nat) (v : VReg) (f : Fields) (ctx : VCtx) : Crew :=
  let e := w.tiles.get t
  let ty := f.ty.toNat
  let lo := ctx.sc.toNat
  let hi := min (lo + ctx.count ty) (e.m * e.n)
  let w' := iter (hi - lo) (fun i w => w.putCell t (lo + i) (accWrite e.at_ ty (v.elem ty i))) w
  iter e.m (fun i w' => iter (ceilDiv e.n 32) (fun b w' =>
    if (groupCells e.n i b).any fun p => decide (lo ≤ p) && decide (p < hi) then
      w'.setGroup t i b (maccwrValid w t v lo hi i b)
    else w') w') w'

/-- A move of the tile queue performs: the instruction's effect on the tile and on its kite. -/
def performMove (s : State) (c t : Nat) (m : MatOp) : State :=
  let k := m.owner
  if m.op = 0x93 then
    let (y, fl) := maccrdBody (s.crew c) t (s.kite c k) m.f m.ctx
    s.modKite c k fun _ => { y with fpflags := y.fpflags ||| fl }
  else if m.op = 0x94 then
    let b := opdValue m.f.b
    let v := (s.kite c k).vget b
    (s.modCrew c fun w => maccwrBody w t v m.f m.ctx).modKite c k fun y => if m.f.lst then y.lastUse [b] else y
  else s.modCrew c fun w => w.clearTile t

/-- Performs the moves at the head of a tile queue, up to an mma (R238), while no engine command acts on the
tile (R241). -/
def drainMoves (s : State) (c t : Nat) : Nat → State
  | 0 => s
  | n + 1 =>
    match (s.crew c).tq.get t with
    | m :: ms =>
      if m.op = 0x92 || (s.crew c).engineOn [t] then s
      else drainMoves (performMove (s.modCrew c fun w => { w with tq := w.tq.set t ms }) c t m) c t n
    | [] => s

/-- Why a kite may not use the tile that an instruction names (R232 rule 1). -/
def Crew.refuses (w : Crew) (k t : Nat) : Bool := (w.tiles.get t).owner != some k || w.isMate t

/-- The refusal of a tile. -/
def tileTrap (t : Nat) : Trap := trapAt 0x12 0 t

/-- The types of Table 11-7 for an accumulator type. -/
def moveType (at_ ty : Nat) : Bool := if at_ = 13 then decide (9 ≤ ty) && decide (ty ≤ 13) else decide (ty ≤ 2)

/-- The frame of a move (R238, R239): its checks, the wait for room in the tile's queue, and its place there,
where it performs as soon as it is at the head. A maccwr of a bound register that the machine holds comes there as its
data arrives (R300). -/
def runMove (i : Instr) (op : Nat) (f : Fields) (t : Nat) (s : State) : Host.Outcome State Fault Refusal :=
  .next (issue i s fun s c k x =>
    let w := s.crew c
    let reads := if op = 0x94 then [opdValue f.b] else []
    let bound := reads.any fun r => (x.binds.find r).isSome
    if w.refuses k t then .raise s (tileTrap t) .here none
    else if op ≠ 0x95 ∧ moveType (w.tiles.get t).at_ f.ty.toNat = false then .raise s (tileTrap t) .here none
    else if x.undispatched || decide (4 ≤ (w.tq.get t).length) || w.engineOn [t] || (bound && movesQueued s c k) then
      .notReady
    else if bound && s.hold then (if 8 ≤ x.vq.length then .notReady else trailStreams s c k op f (x.capture f))
    else
      let ctx := x.capture f
      match decodeAll s c k ctx reads with
      | .error e => e.res
      | .ok (ds, s) =>
        let fl := ds.foldl (fun m d => m ||| d.fl) 0
        let s := s.modKite c k fun y =>
          let y := if op = 0x93 then (y.take ds).advanceSeed f else y.take ds
          { y with fpflags := y.fpflags ||| fl }
        let m : MatOp := { op := op, f := f, owner := k, ctx := ctx }
        .done (drainMoves (s.modCrew c fun w => { w with tq := w.tq.mod t fun q => q ++ [m] }) c t 4))

/-- The data of a maccwr arrives: it takes its place in the tile's queue. -/
def trailMove (s : State) (c k i : Nat) (e : VqEntry) (ds : List Decoded) : State :=
  let t := opdValue e.f.a
  let fl := ds.foldl (fun m d => m ||| d.fl) e.flags
  let s := s.modKite c k fun y => { y.take ds with vq := dropAt i y.vq, fpflags := y.fpflags ||| fl }
  drainMoves (s.modCrew c fun w =>
    { w with tq := w.tq.mod t fun q => q ++ [{ op := e.op, f := e.f, owner := k, ctx := e.ctx }] }) c t 4

/-- maccrd, R239. -/
def execMaccrd (f : Fields) (s : State) := runMove (.maccrd f) 0x93 f (opdValue f.b) s
/-- maccwr, R239. -/
def execMaccwr (f : Fields) (s : State) := runMove (.maccwr f) 0x94 f (opdValue f.a) s
/-- macczero, R239. -/
def execMacczero (f : Fields) (s : State) := runMove (.macczero f) 0x95 f (opdValue f.a) s

/-- mwait, R240. -/
def execMwait (f : Fields) (s : State) : Host.Outcome State Fault Refusal :=
  .next (issue (.mwait f) s fun s c k _ =>
    let w := s.crew c
    match f.a with
    | .a i =>
      let t := i.toNat
      if (w.tiles.get t).owner ≠ some k then .raise s (tileTrap t) .here none
      else if w.queuedFor k (some (w.tileBase t)) then .wait s (.mwait (some (w.tileBase t)))
      else .done s
    | _ => if w.queuedFor k none then .wait s (.mwait none) else .done s)

/-! ## Matrix multiply -/

/-- The address that an orphan's mma reports (R287): the base of its first global operand. -/
def orphanBase (l r : Nat) : Option Nat :=
  if recSpace l = 0 then some (recBase l) else if recSpace r = 0 then some (recBase r) else none

/-- The record that fails check 3 of R232: its index. -/
def recordFails (ty l r : Nat) (f : Fields) : Option Nat :=
  if recTy l ≠ ty then some (opdValue f.b)
  else if recTy r ≠ ty ∨ recKExt r ≠ recKExt l then some (opdValue f.c)
  else none

/-- mma at its issue, R231, R232: the checks in order, and its place in the tile's queue. -/
def execMma (f : Fields) (s : State) : Host.Outcome State Fault Refusal :=
  .next (issue (.mma f) s fun s c k x =>
    let w := s.crew c
    let t := opdValue f.a
    let e := w.tiles.get t
    let l := w.recs.get (opdValue f.b)
    let r := w.recs.get (opdValue f.c)
    let ty := f.ty.toNat
    match if kiteOrphan s c x then orphanBase l r else none with
    | some a => .raise s (orphanTrap x a) .here none
    | none =>
      if w.refuses k t then .raise s (tileTrap t) .here none
      else if e.at_ ≠ (if ty = 0 then 2 else 13) then .raise s (tileTrap t) .here none
      else
        match recordFails ty l r f with
        | some m => .raise s (trapAt 0x11 0 m) .here none
        | none =>
          if bit f.xf.toNat 2 && e.gr == 0 then .raise s (tileTrap t) .here none
          else if 4 ≤ (w.tq.get t).length || w.engineOn [t] then .notReady
          else
            let m : MatOp := { f := f, owner := k, l := l, r := r, view := x.tintv, since := s.cycle c }
            .done (s.modCrew c fun w => { w with tq := w.tq.mod t fun q => q ++ [m] }))

/-! ## The K block -/

/-- The number of K blocks of an mma. -/
def MatOp.blocks (m : MatOp) : Nat := ceilDiv (recKExt m.l) 32

/-- Whether an mma has a global operand. -/
def MatOp.global (m : MatOp) : Bool := recSpace m.l == 0 || recSpace m.r == 0

/-- Whether it shares lines (R236). -/
def MatOp.mcast (m : MatOp) : Bool := m.op == 0x92 && bit m.f.xf.toNat 2

/-- The head of a tile queue with a change, or the queue as it is where it is empty. -/
def Crew.modHead (w : Crew) (t : Nat) (g : MatOp → MatOp) : Crew :=
  { w with tq := w.tq.mod t fun q => modifyAt g 0 q }

/-- The cores that share lines of a core's mma on tile t: those of its grid row or column in the flight, whose
owners hold the same view (R236). -/
def sharers (s : State) (c t : Nat) (m : MatOp) : List Nat :=
  let e := (s.crew c).tiles.get t
  (s.flight (s.crew c).flight).cores.filter fun o =>
    let g := (s.crew o).tiles.get t
    o != c && g.gr == e.gr && g.gc == e.gc && (g.pr == e.pr || g.pc == e.pc) &&
      (match g.owner with | some k => (s.kite o k).tintv == m.view | none => false)

/-- Whether a core has asked for the lines of block kb of its mma on tile t. -/
def hasAsked (s : State) (t kb o : Nat) : Bool :=
  match (s.crew o).tq.get t with
  | m :: _ => m.mcast && !m.stopped && m.kb == kb
  | [] => false

/-- Whether the lines of an mma's next block may be fetched (R236). -/
def linesReady (s : State) (c t : Nat) (m : MatOp) : Bool :=
  !m.mcast || m.alone || m.shared || (sharers s c t m).all fun o => hasAsked s t m.kb o

/-- The delivery of shared lines to every sharer that has asked (R236). -/
def deliver (s : State) (c t : Nat) (m : MatOp) : State :=
  if m.mcast && !m.alone && !m.shared then
    (sharers s c t m).foldl (fun s o => s.modCrew o fun w => w.modHead t fun y => { y with shared := true }) s
  else s

/-- The flags of an mma delivered to its owner (R234). -/
def giveFlags (s : State) (c : Nat) (m : MatOp) : State :=
  s.modKite c m.owner fun x => { x with fpflags := x.fpflags ||| m.flags }

/-- The end of the mma at the head of a tile queue (R234, R238). -/
def mmaDone (s : State) (c t : Nat) (m : MatOp) : State :=
  drainMoves ((giveFlags s c m).modCrew c fun w => { w with tq := w.tq.mod t fun q => q.drop 1 }) c t 4

/-- The stop of an mma at a block (R237, R243): its flags delivered, and a late trap of its owner; where its owner
drains or has landed it is dropped with what is behind it, and no flag of it is delivered. DESIGN CHOICE (log 20): of R234,
which delivers the flags of an mma that stops, and R243, by which no flag of a dropped one reaches FPFLAGS, the model
follows R243 in that case. -/
def mmaStop (s : State) (c t : Nat) (m : MatOp) (tr : Trap) (req : Option Nat) : State :=
  let gone := match (s.kite c m.owner).st with
    | .flying | .waiting | .parked => false
    | _ => true
  let s := if gone then s else giveFlags s c m
  let s := s.modCrew c fun w =>
    if gone then { w with tq := w.tq.set t [] } else w.modHead t fun y => { y with stopped := true, flags := 0 }
  lateTrap s c m.owner tr req

/-- The lowest of two failures. -/
def lowerFail (a b : Option (Nat × XErr)) : Option (Nat × XErr) :=
  match a, b with
  | some (x, e), some (y, d) => if y < x then some (y, d) else some (x, e)
  | some p, none => some p
  | none, q => q

/-- The mma at the head of tile t's queue as its blocks begin: with NOACC the tile is cleared, once (R233). -/
def beginMma (s : State) (c t : Nat) (m : MatOp) : State × MatOp :=
  (if bit m.f.xf.toNat 1 && !m.cleared then s.modCrew c fun w => w.clearTile t else s, { m with cleared := true })

/-- The next K block of the mma at the head of tile t's queue (R233, R237, R287). -/
def runBlock (s : State) (c t : Nat) (m : MatOp) : State :=
  let (s, m) := beginMma s c t m
  if m.blocks ≤ m.kb then mmaDone s c t m
  else
    let e := (s.crew c).tiles.get t
    let lr := blockReads m.l (e.pr * e.m) e.m m.kb
    let rr := blockReads m.r (e.pc * e.n) e.n m.kb
    let orphan := (s.ctx (s.crew c).ctx).orphaned m.view
    let s := s.modCrew c fun w => w.modHead t fun _ => m
    if orphan then
      let globals := (if recSpace m.l = 0 then lr else []) ++ if recSpace m.r = 0 then rr else []
      let reads := if globals.isEmpty then lr ++ rr else globals
      let a := reads.foldl (fun a p => min a p.1) ((reads.headD (0, 0)).1)
      mmaStop s c t m (trapAt 0x08 a m.view) none
    else
      let (s, fl) := readsCheck s c m.l lr
      let (s, fr) := readsCheck s c m.r rr
      match lowerFail fl fr with
      | some (a, err) =>
        let (s, tr, q) := xlatTrap s c 20 err a (32 * m.kb) 0
        mmaStop s c t m tr q
      | none =>
        let s := deliver s c t m
        let as := (List.range e.m).map fun i => operandRow s c m.view m.l (e.pr * e.m + i) m.kb
        let bs := (List.range e.n).map fun j => operandRow s c m.view m.r (e.pc * e.n + j) m.kb
        let (w, g) := (s.crew c).applyBlock t m.f.ty.toNat (bit m.f.xf.toNat 0) as bs
        let g := (as ++ bs).foldl (fun g r => g ||| r.fl) g
        let m := { m with kb := m.kb + 1, flags := m.flags ||| g, shared := false, alone := false, since := s.cycle c }
        let s := s.modCrew c fun _ => w.modHead t fun _ => m
        if m.blocks ≤ m.kb then mmaDone s c t m else s

/-- K_BLOCK, R233: the array takes the next block of the mma at the head of the queue of tile `sub` on core
`unit`; not one that is stopped, whose tile an engine command acts on, whose view is being fixed, whose shared lines
are not there, or behind which the reads of a strip of its kite before its own still wait (R301). -/
def execKBlock (s : State) : Host.Outcome State Fault Refusal :=
  let c := s.ev.unit
  let t := s.ev.sub
  .next (match (s.crew c).tq.get t with
    | [] => s
    | m :: _ =>
      if m.op ≠ 0x92 then drainMoves s c t 4
      else if m.stopped || (s.crew c).engineOn [t] || (s.crew c).mmaLeft m.owner (m.age + 1) ||
          (m.global && viewFixing s (s.crew c).ctx m.view) || !(linesReady s c t m) then s
      else runBlock s c t m)

/-- MCAST_TIMEOUT, R236: an mma that has waited 4,096 ticks for shared lines fetches them for itself. -/
def execMcastTimeout (s : State) : Host.Outcome State Fault Refusal :=
  let c := s.ev.unit
  let t := s.ev.sub
  .next (match (s.crew c).tq.get t with
    | [] => s
    | m :: _ =>
      if m.mcast && !(linesReady s c t m) && decide (m.since + 4096 ≤ s.cycle c) then
        s.modCrew c fun w => w.modHead t fun y => { y with alone := true }
      else s)

end Sys2Proof.Machine
end

