-- ==== Sys2Proof/Machine/Pieces.lean ====
section
/-!
DEFINITION. The words that the units of engine commands write (R252, R253, R257, R258, R310): each performs on its
own, at once or later, before its command completes.
Open points: log 22 (DESIGN CHOICE).
-/
namespace Sys2Proof.Machine

/-- Word i of a command as a number, its SCOPE (Table 12-2). -/
def dw (d : List Word) (i : Nat) : Nat := (d.getD i 0).toNat
def cmdScope (d : List Word) : Nat := bits (dw d 0) 18 16

/-- A port of a crew with a change. -/
def Crew.modPort (w : Crew) (port : Nat) (g : Port → Port) : Crew := { w with ports := w.ports.mod port g }

/-- A command of a port changed, by its number. -/
def modCmd (s : State) (c port id : Nat) (g : Cmd → Cmd) : State :=
  s.modCrew c fun w => w.modPort port fun p => { p with cmds := p.cmds.map fun m => if m.id = id then g m else m }

/-- The value of a byte that a command reads under its view. -/
def engGet (s : State) (c : Nat) (m : Cmd) : ELoc → Byte
  | .sp o space a => memGet (spMem s o space) a
  | .mem a => engineByte s c (s.crew c).ctx m.view a

/-- A byte written at its bank or its home under the command's view (R253). -/
def engPut (s : State) (c : Nat) (m : Cmd) (b : Byte) : ELoc → State
  | .sp o space a => spWrite s o space [{ addr := a, value := b.toNat }]
  | .mem a =>
    let ctx := (s.crew c).ctx
    storeByteAtHome s ctx ((s.ctx ctx).resolve m.view) { addr := a, value := b.toNat }

/-- The lines of global bytes, in order of first appearance. -/
def locLines (ls : List ELoc) : List Nat := distinct (ls.filterMap fun l => match l with | .mem a => some (lineOf a) | _ => none)

/-- The guest lines of the core's die show what the homes hold. -/
def refreshLines (s : State) (c : Nat) (lines : List Nat) : State :=
  lines.foldl (fun s l => guestRefresh s (dieOf c) l) s

/-- The bytes of a piece: read as it performs, where it does not carry them. -/
def Piece.bytes (p : Piece) (s : State) (c : Nat) (m : Cmd) : List Byte :=
  match p.val with
  | some v => v
  | none => p.src.map fun l => engGet s c m l

/-- A piece performs at its bank or its home. -/
def performPiece (s : State) (c : Nat) (m : Cmd) (p : Piece) : State :=
  let s := drainHalf s c (locLines p.src)
  refreshLines ((p.dst.zip (p.bytes s c m)).foldl (fun s e => engPut s c m e.2 e.1) s) c (locLines p.dst)

/-- Some pieces perform in their order. -/
def performPieces (s : State) (c : Nat) (m : Cmd) (ps : List Piece) : State :=
  ps.foldl (fun s p => performPiece s c m p) s

/-- Whether two pieces of a command must keep their order: one writes a byte that the other reads or writes (R257). -/
def Piece.clash (p q : Piece) : Bool :=
  p.dst.any (fun l => q.dst.contains l || q.src.contains l) || p.src.any fun l => q.dst.contains l

/-- A piece of a command of CLUSTER or DIE scope performs at the L2 of its die alone, in a line that the die holds
as a guest: what it writes goes on to the home later (R306, R307, R312). -/
def nearPiece (s : State) (c : Nat) (m : Cmd) (p : Piece) : Option State :=
  let ctx := (s.crew c).ctx
  let guests := (s.die (dieOf c)).guests
  let held := p.dst.all fun l => match l with
    | .mem a => isGuest s.module (dieOf c) 0 a && guests.any fun g => g.line == lineOf a
    | _ => false
  if !held || decide (2 < cmdScope m.d) || (s.ctx ctx).resolve m.view != 0 then none
  else
    let ws := (p.dst.zip (p.bytes s c m)).filterMap fun e => match e.1 with
      | .mem a => some ({ addr := a, value := e.2.toNat } : WByte)
      | _ => none
    let i := (s.core c).wp.length
    let s := drainToDie (s.modCore c fun k => { k with wp := k.wp ++ [{ ctx := ctx, bytes := ws }] }) c i
    if ((s.core c).wp[i]?).any fun e => e.atDie != 0 then some s else none

/-- Whether the bytes of a piece can be reached: what lies at a peer, through a port that is ready (R387). -/
def Piece.linked (s : State) (p : Piece) : Bool :=
  (p.src ++ p.dst).all fun l => match l with
    | .mem a => (match pkind a with | .peer d => peerReady s.module d | _ => true)
    | _ => true

/-- Whether every piece that a command has still to perform can reach its bytes (R387). -/
def Cmd.linked (s : State) (m : Cmd) : Bool := m.todo.all (Piece.linked s)

/-- Piece n of command id of a port performs (R310), behind the earlier ones that it must follow; `near`: at the L2
of its die. -/
def enginePiece (s : State) (c port id n : Nat) (near : Bool) : State :=
  match ((s.crew c).ports.get port).cmds.find? fun m => m.id == id with
  | none => s
  | some m =>
    match m.todo[n]? with
    | none => s
    | some p =>
      if (m.todo.take n).any p.clash || !(p.linked s) then s
      else
        match if near then nearPiece s c m p else some (performPiece s c m p) with
        | none => s
        | some s => modCmd s c port id fun m => { m with todo := dropAt n m.todo }

/-- Every piece of a command performs. -/
def flushCmd (s : State) (c port : Nat) (m : Cmd) : State :=
  modCmd (performPieces s c m m.todo) c port m.id fun x => { x with todo := [] }

/-- Whether every piece of the commands of a core can reach its bytes. -/
def portsLinked (s : State) (c : Nat) : Bool := !((s.crew c).ports.has fun p => p.cmds.any fun m => !(m.linked s))

/-- Every piece of the commands of a core performs. -/
def flushPieces (s : State) (c : Nat) : State :=
  iter 3 (fun port s => (((s.crew c).ports.get port).cmds).foldl (fun s m => flushCmd s c port m) s) s

end Sys2Proof.Machine
end

