-- ==== Sys2Proof/Machine/Sampler.lean ====
section
/-!
DEFINITION. The arithmetic of the sampler (R265): every rounding is to F32 under RNE of the exact value. Where the
fields of a state block make a value that R265 does not state, it is a free value (log 2).
Open points: logs 2 (DESIGN CHOICE), 18 (DESIGN CHOICE), 26 (DEDUCED).
-/
namespace Sys2Proof.Machine

/-- The bits of −∞, and of +1, as F32. -/
def f32NegInf : Nat := 0xFF800000
def f32One : Nat := 0x3F800000

/-- round(x, F32, 0). -/
def round32 (d : Dy) : Nat := (roundTo {} 13 d).1

/-- A finite F32 as a number. -/
def val32 (x : Nat) : Dy := finite false 13 x

/-- Whether F32 bits are a finite number. -/
def isFin32 (x : Nat) : Bool := !(isNaN 13 x) && !(isInf 13 x)

/-- What g makes of a value that lies within bounds given at growing precision: certain once both ends agree. -/
def settled (g : Dy → Nat) (b : Nat → Dy × Dy) : List Nat → Nat
  | [] => 0
  | w :: ws =>
    let (lo, hi) := b w
    if g lo = g hi ∨ ws = [] then g lo else settled g b ws

/-- Bounds of 2^d, with w fraction bits of its significand. -/
def exp2Bounds (d : Dy) (w : Nat) : Dy × Dy :=
  let top : Int := (Nat.log2 d.m : Int) + d.x
  if d.isZero then ({ m := 1 }, { m := 1 })
  else if 12 ≤ top then
    (if d.neg then ({}, { m := 1, x := -4000 }) else ({ m := 1, x := 4000 }, { m := 1, x := 4000 }))
  else
    let whole := d.fix 0
    let frac := d.m - whole <<< (-d.x).toNat
    if 0 ≤ d.x ∨ frac = 0 then
      let p : Dy := { m := 1, x := if d.neg then -(whole : Int) else whole }
      (p, p)
    else
      let r := d.fix w - whole <<< w
      let r := if d.neg then 2 ^ w - r else r
      let e := fixExp w (r * fixLn2 w / 2 ^ w)
      let x : Int := (if d.neg then -(whole : Int) - 1 else whole) - w
      ({ m := e - 2 ^ 48, x := x }, { m := e + 2 ^ 48, x := x })

/-- round(a × 2^d + b). -/
def scaleAdd (a d b : Dy) : Nat :=
  settled round32 (fun w =>
    let (lo, hi) := exp2Bounds d w
    ((a.mul lo).add 0 b, (a.mul hi).add 0 b)) precisions

/-- log2 of m × 2^x > 0 in fixed point with w fraction bits. -/
def fixLog2 (w m : Nat) (x : Int) : Int :=
  let l := Nat.log2 m
  let v := fixLn w ((m <<< w) >>> l) * 2 ^ w / fixLn2 w
  ((l : Int) + x) * 2 ^ w + v

/-- −ln(n / 2^25) for an odd n below 2^25, with w fraction bits. -/
def fixNegLn (w n : Nat) : Nat :=
  let e := Nat.log2 n
  (25 - e) * fixLn2 w - fixLn w ((n <<< w) >>> e)

/-- 2^25 × u(i), an odd number (R265). -/
def drawOf (seed i : Nat) : Nat := 2 * (srsMix seed i / 256) + 1

/-- A fixed-point number as an exact value. -/
def Dy.ofFix (w : Nat) (v : Int) : Dy := { neg := decide (v < 0), m := v.natAbs, x := -(w : Int) }

/-- round(z − log2(−ln u)). -/
def gumbelKey (z n : Nat) : Nat :=
  settled round32 (fun w =>
    let l := fixLog2 w (fixNegLn w n) (-(w : Int))
    let at_ := fun (v : Int) => (val32 z).add 0 ((Dy.ofFix w v).flip true)
    (at_ (l + 2 ^ 80), at_ (l - 2 ^ 80))) precisions

/-- z of a logit, neither a NaN nor excluded: a conversion with SAT. -/
def logitZ (l cnt pres freq itemp : Nat) : Nat :=
  if isInf 13 l then maxBits 13 (signOf 13 l)
  else
    let d := (val32 l).add 0 ((if cnt = 0 then {} else val32 pres).flip true)
    let d := d.add 0 ((Dy.mul (Dy.ofInt cnt) (val32 freq)).flip true)
    (roundTo { sat := true } 13 (d.mul (val32 itemp))).1

/-- S × 2^(M − z) + 1, z above M. -/
def nextSum (s m z free : Nat) : Nat :=
  if isInf 13 m then (if isFin32 s then f32One else free)
  else if isFin32 s then scaleAdd (val32 s) ((val32 m).add 0 ((val32 z).flip true)) { m := 1 }
  else s

/-- S + 2^(z − M), z not above M. -/
def addTerm (s m z : Nat) : Nat :=
  if !(isFin32 s) ∨ isInf 13 m then s
  else scaleAdd { m := 1 } ((val32 z).add 0 ((val32 m).flip true)) (val32 s)

/-- 2^(z − M) / S as F32: the probability of a token of logit z. -/
def tokenProb (z m s free : Nat) : Nat :=
  if m = f32NegInf then 0
  else if !(isFin32 z) ∧ !(signOf 13 z) ∨ isNaN 13 s ∨ (isFin32 s ∧ (val32 s).isZero) then free
  else if isInf 13 z ∨ isInf 13 m ∨ isInf 13 s then zeroBits 13 (signOf 13 s)
  else
    settled round32 (fun w =>
      let (lo, hi) := exp2Bounds ((val32 z).add 0 ((val32 m).flip true)) w
      let q := fun (d : Dy) => if d.isZero then d else Dy.quot d (val32 s)
      (q lo, q hi)) precisions

/-- x > y as F32 numbers. -/
def above32 (x y : Nat) : Bool := !(isNaN 13 x) && !(isNaN 13 y) && fLt false 13 y x

/-- u(2^32 + DTOK) < min(1, p / q), exactly: q is 1 where Q is ±0, negative, infinite or a NaN. -/
def accepts (seed dtok p q : Nat) : Bool :=
  let q := if isNaN 13 q || isInf 13 q || signOf 13 q || (val32 q).isZero then { m := 1 } else val32 q
  let u : Dy := { m := drawOf seed (2 ^ 32 + dtok), x := -25 }
  if isNaN 13 p then false
  else if isInf 13 p then !(signOf 13 p)
  else (u.mul q).lt (val32 p)

/-- Word i of 32 bits of a state block. -/
def blockWord (b i : Nat) : Nat := b >>> (32 * i) % 2 ^ 32

end Sys2Proof.Machine
end

