-- ==== Sys2Proof/Machine/EngineOps.lean ====
section
/-!
DEFINITION. The engines (chapter 12): commands and their checks (R249, R250), the record cache (R254 to R256),
promises and the serving order (R259, R260), the push (R248, R267), and the accesses of a command (R253, R310,
R311).
Open points: logs 23 (DEDUCED, DESIGN CHOICE), 24 (DEDUCED).
-/
namespace Sys2Proof.Machine

/-! ## Commands -/

/-- The fields of D0 (Table 12-2). -/
def cmdOpc (d : List Word) : Nat := dw d 0 % 256
def cmdTag (d : List Word) : Nat := bits (dw d 0) 63 48
def cmdNores (d : List Word) : Bool := bit (dw d 0) 8
def cmdDl (d : List Word) : Bool := bit (dw d 0) 9
def cmdPmt (d : List Word) : Bool := bit (dw d 0) 10
def cmdCnt (d : List Word) : Bool := bit (dw d 0) 11
def cmdPad (d : List Word) : Bool := bit (dw d 0) 12
def cmdCpp (d : List Word) : Bool := bit (dw d 0) 13

/-- A side of a command: a space, and the core of the cluster that it names with REM. -/
structure Side where
  space : Nat := 0
  rem   : Bool := false
  core  : Nat := 0
  deriving DecidableEq, Repr

/-- The source and the destination side of a command (Table 12-2). -/
def srcSide (d : List Word) : Side := { space := bits (dw d 0) 22 20, rem := bit (dw d 0) 28, core := bits (dw d 0) 35 32 }
def dstSide (d : List Word) : Side := { space := bits (dw d 0) 26 24, rem := bit (dw d 0) 29, core := bits (dw d 0) 39 36 }

/-- The opcodes of a port (Table 12-3). -/
def portOpcs (port : Nat) : List Nat :=
  if port = 0 then [0x01, 0x02, 0x03, 0x04, 0x0F] else if port = 1 then [0x11, 0x12, 0x0F] else [0x21, 0x0F]

/-- The reserved bits of D0. -/
def d0Reserved : Nat := 255 <<< 40 ||| 3 <<< 30 ||| 1 <<< 27 ||| 1 <<< 23 ||| 1 <<< 19 ||| 3 <<< 14

/-- The reserved bits of D1 to D7 (Table 12-3). -/
def cmdReserved (opc : Nat) : List Nat :=
  let all := ones 64
  match opc with
  | 0x01 => [0, 0, 0, 0, 0, all, all]
  | 0x03 => [0, 0, 0, 0, all - ones 13, all, all]
  | 0x04 => [0, 0, 0, 0, ones 12 <<< 48 ||| ones 14 <<< 2, 0, 0]
  | 0x12 => [0, 0, 0, 0, 0, 0, ones 32 <<< 32]
  | 0x21 => [0, 0, 0, 0, all - ones 20, all, all]
  | 0x0F => [all, all, 0, 0, all, all, all]
  | _ => []

/-- The lowest offending bit of a command across its 512 bits, or none (R250). DESIGN CHOICE (log 23): LOG2PS has 4 bits
and the range 12 to 16, so 12 to 15 are accepted and 0 to 11 refused with its lowest bit, 336; D3 without DL and D4 without
CNT are refused with the lowest bit of the word, 192 and 256, whichever of its bits are set. -/
def cmdBad (port : Nat) (d : List Word) : Option Nat :=
  let opc := cmdOpc d
  let d0 := dw d 0
  let src := srcSide d
  let dst := dstSide d
  let fixed := opc == 0x02 || opc == 0x21
  let res := (cmdReserved opc).zipIdx.map fun e =>
    let x := dw d (e.2 + 1) &&& e.1
    (64 * (e.2 + 1) + lowBit x 64, x != 0)
  let it := dw d 6 >>> 32
  lowestOf (res ++
    [ (lowBit (d0 &&& d0Reserved) 64, d0 &&& d0Reserved != 0), (0, !((portOpcs port).contains opc))
    , (20, decide (4 < src.space)), (24, decide (4 < dst.space)), (16, decide (4 < cmdScope d))
    , (28, src.rem && src.space != 1), (29, dst.rem && dst.space != 1), (13, cmdCpp d && opc != 0x21)
    , (12, cmdPad d && opc != 0x02 && opc != 0x11), (192, !(cmdDl d) && dw d 3 != 0), (256, !(cmdCnt d) && dw d 4 != 0)
    , (20, fixed && src.space != 0), (24, fixed && dst.space != 0), (28, fixed && src.rem), (29, fixed && dst.rem)
    , (320, opc == 0x01 && (dw d 5 == 0 || decide (2 ^ 40 < dw d 5)))
    , (320, opc == 0x03 && (dw d 5 % 2 ^ 13 == 0 || decide (4096 < dw d 5 % 2 ^ 13)))
    , (336, opc == 0x21 && (decide (bits (dw d 5) 19 16 < 12)))
    , (416, opc == 0x04 && (!(isFin32 it) || signOf 13 it || (val32 it).isZero))
    , (448, opc == 0x04 && !(isFin32 (dw d 7 % 2 ^ 32))), (480, opc == 0x04 && !(isFin32 (dw d 7 >>> 32))) ])

/-! ## Tensor shape records -/

/-- Fields of a tensor shape record (Table 12-6). -/
def tBase (r : Nat) : Nat := bits r 63 0
def tExt (r i : Nat) : Nat := bits r (95 + 32 * i) (64 + 32 * i)
def tEsz (r : Nat) : Nat := bits r 225 224
def tRank (r : Nat) : Nat := bits r 234 232
def tSide (r : Nat) : Side := { space := bits r 238 236, core := bits r 243 240, rem := bit r 244 }
def tStride (r i : Nat) : Int := toSigned 64 (bits r (255 + 64 * i) (192 + 64 * i))

/-- The reserved bits of a tensor shape record. -/
def tReserved : Nat := ones 6 <<< 226 ||| 1 <<< 235 ||| 1 <<< 239 ||| ones 11 <<< 245

/-- The lowest offending bit of one record, or none (R256). -/
def tBad (r : Nat) : Option Nat :=
  let n := tRank r
  let okRank := decide (1 ≤ n) && decide (n ≤ 5)
  let sz := 2 ^ tEsz r
  lowestOf (((List.range 5).map fun i => (64 + 32 * i, decide (i < n) && tExt r i == 0)) ++
    ((List.range 4).map fun i => (256 + 64 * i, tStride r (i + 1) % sz != 0)) ++
    [ (lowBit (r &&& tReserved) 512, r &&& tReserved != 0), (232, !okRank), (236, decide (4 < (tSide r).space))
    , (244, (tSide r).rem && (tSide r).space != 1), (0, tBase r % sz != 0) ])

/-- ORGi and BOXi of a TENS command, and the command bits they start at. -/
def tOrg (d : List Word) (i : Nat) : Int := toSigned 16 (if i < 4 then dw d 5 >>> (16 * i) else dw d 6)
def tBox (d : List Word) (i : Nat) : Nat := (if i < 3 then dw d 6 >>> (16 * (i + 1)) else dw d 7 >>> (16 * (i - 3))) % 2 ^ 16
def tOrgBit (i : Nat) : Nat := 320 + 16 * i
def tBoxBit (i : Nat) : Nat := 400 + 16 * i

/-- The lowest offending bit of a TENS command against its records (R256 step 3). -/
def tensBad (d : List Word) (dst : Nat) : Option Nat :=
  let n := tRank dst
  lowestOf ((List.range 5).flatMap fun i =>
    if i < n then [(tBoxBit i, decide (tExt dst i < tBox d i))]
    else [(tOrgBit i, tOrg d i != 0), (tBoxBit i, tBox d i != 0)])

/-- The address of the element at some coordinates (R254). -/
def tAddr (r : Nat) (x : List Int) : Nat :=
  ofInt 64 (tBase r + (x.zipIdx).foldl (fun a e =>
    a + if e.2 = 0 then e.1 * 2 ^ tEsz r else e.1 * tStride r e.2) (0 : Int))

/-- The coordinates of position p of a box, dimension 0 fastest (R257). -/
def boxAt (box : List Nat) (p : Nat) : List Int :=
  (box.foldl (fun (r : List Int × Nat) b => (r.1 ++ [((r.2 % b : Nat) : Int)], r.2 / b)) ([], p)).1

/-- The extents of a TENS command's box. -/
def tensBox (d : List Word) (r : Nat) : List Nat := (List.range (tRank r)).map (tBox d)

/-- The number of positions of a TENS command. -/
def tensCount (d : List Word) (r : Nat) : Nat := (tensBox d r).foldl (· * ·) 1

/-! ## Refusals and the record cache -/

/-- A refused push: the state after it, the trap of R267, and its page request. -/
structure Refused where
  s   : State
  t   : Trap
  req : Option Nat := none

/-- The 64 bytes of a record through the record cache (R255). -/
def readRecord (s : State) (c port a : Nat) : Except Refused (Nat × State) :=
  let ctx := (s.crew c).ctx
  let cache := (s.core c).rcache
  if a % 64 ≠ 0 then .error { s := s, t := trapAt 0x03 a 0 }
  else
    match cache.find? fun e => e.addr == a && e.ctx == ctx with
    | some e =>
      let rest := cache.filter fun x => !(x.addr == a && x.ctx == ctx)
      .ok (e.data, s.modCore c fun p => { p with rcache := e :: rest })
    | none =>
      match translate s c ctx a .load .engine with
      | .error e =>
        let (s, t, q) := xlatTrap s c (17 + port) e a 0 0
        .error { s := s, t := t, req := q }
      | .ok (p, s) =>
        let v := ofBytes ((List.range 64).map fun j => engineByte s c ctx 0 (p.a + j))
        .ok (v, s.modCore c fun k => { k with rcache := ({ addr := a, ctx := ctx, data := v } :: k.rcache).take 32 })

/-- The refusal of a record or of a command's fields. -/
def badRecord (s : State) (va bitNo : Nat) : Refused := { s := s, t := trapAt 0x11 va bitNo }

/-- The records of a TENS command, read and checked (R255, R256). -/
def tensRecords (s : State) (c port : Nat) (d : List Word) : Except Refused (Nat × Nat × State) :=
  match readRecord s c port (dw d 1) with
  | .error e => .error e
  | .ok (src, s) =>
    match readRecord s c port (dw d 2) with
    | .error e => .error e
    | .ok (dst, s) =>
      match tBad src, tBad dst with
      | some b, _ => .error (badRecord s (dw d 1) b)
      | none, some b => .error (badRecord s (dw d 2) b)
      | none, none =>
        if tEsz src ≠ tEsz dst then .error (badRecord s (dw d 2) 224)
        else if tRank src ≠ tRank dst then .error (badRecord s (dw d 2) 232)
        else
          match tensBad d dst with
          | some b => .error (badRecord s 0 b)
          | none => .ok (src, dst, s)

/-- The untranslated physical address of a virtual one (R333), before the alias is converted. -/
def rawPa (s : State) (c va : Nat) : Option Nat :=
  let x := s.ctx (s.crew c).ctx
  match translate s c (s.crew c).ctx va .load .engine with
  | .error _ => none
  | .ok _ =>
    if slotWindow va then
      let off := va - 0x020000000000
      some (x.poolPa ((x.slots.get (off / 2 ^ 32)).pages.getD (off % 2 ^ 32 / 65536) 0) off)
    else
      match lookup s c x va with
      | .ok (t, _) => some (ptePfn t.leaf * 2 ^ 12 + (va - t.vpn * 2 ^ 12))
      | .error _ => none

/-- The offset in the channel-direct alias of a physical address, if it lies there (R263, R325). -/
def aliasOff (s : State) (pa : Nat) : Option Nat :=
  let low := pa % 2 ^ 52
  if pa / 2 ^ 52 % 64 = s.module.devnum ∧ aliasBase ≤ low ∧ low < aliasBase + 1279 * 2 ^ 29 then some (low - aliasBase)
  else none

/-- The offset in the alias that a virtual address names, if it does. -/
def aliasSide (s : State) (c va : Nat) : Option Nat := (rawPa s c va).bind (aliasOff s)

/-- The DRAM row of an alias offset. -/
def aliasRow (off : Nat) : Nat := off / 2 ^ 11 % 2 ^ 18

/-- Some banks, by channel and number, each once. -/
def distinctBanks : List (Nat × Nat) → List (Nat × Nat)
  | [] => []
  | b :: bs => b :: (distinctBanks bs).filter (· != b)

/-- The lowest offending bit of a ROWS command (R263), or none. -/
def rowsBad (s : State) (c : Nat) (d : List Word) : Option Nat :=
  lowestOf [ (20, (srcSide d).space != 0), (24, (dstSide d).space != 0), (64, dw d 1 % 2048 != 0)
           , (128, dw d 2 % 2048 != 0)
           , (64, (aliasSide s c (dw d 1)).isNone && (aliasSide s c (dw d 2)).isNone) ]

/-- Fields of a SAMP command (Table 12-3). -/
def sampAcc (d : List Word) : Nat := dw d 5 % 4
def sampF0 (d : List Word) : Nat := bits (dw d 5) 31 16
def sampCols (d : List Word) : Nat := bits (dw d 5) 47 32
def sampInit (d : List Word) : Bool := bit (dw d 5) 60
def sampMove (d : List Word) : Bool := bit (dw d 5) 61
def sampVerify (d : List Word) : Bool := bit (dw d 5) 62
def sampGreedy (d : List Word) : Bool := bit (dw d 5) 63

/-- The check of a SAMP command against its tile (R264). -/
def sampRefusal (s : State) (c agent : Nat) (d : List Word) : Option Trap :=
  let w := s.crew c
  let t := sampAcc d
  let e := w.tiles.get t
  if e.owner.isNone || w.isMate t || e.at_ != 13 then some (trapAt 0x11 0 320)
  else if e.m * e.n < sampF0 d + sampCols d then some (trapAt 0x11 0 336)
  else if agent ≠ 16 ∧ e.owner ≠ some agent then some (tileTrap t)
  else none

/-! ## Looking at memory for the model of a command -/

/-- n bytes of a side as a number, where every one is there; nothing changes. -/
def sidePeek (s : State) (c view : Nat) (sd : Side) (a n : Nat) : Option Nat :=
  let owner := if sd.rem then 16 * clusterOf c + sd.core else c
  let bs := (List.range n).map fun j =>
    if sd.space = 0 then
      match translate s c (s.crew c).ctx (a + j) .load .engine with
      | .ok (p, _) => some (engineByte s c (s.crew c).ctx view p.a)
      | .error _ => none
    else if a + j < extent s owner sd.space then some (memGet (spMem s owner sd.space) (a + j)) else none
  if bs.any (·.isNone) then none else some (ofBytes (bs.map fun b => b.getD 0))

/-- L and c of the memory of a side, c per 4 KiB (Table 12-7). -/
def sideCost (s : State) (c : Nat) (sd : Side) (a : Nat) : Nat × Nat :=
  if sd.space = 4 ∨ (sd.space = 1 ∧ (sd.rem = false ∨ sd.core = c % 16)) then (50, 8)
  else if sd.space ≠ 0 then (200, 16)
  else
    match translate s c (s.crew c).ctx a .load .engine with
    | .error (.linkDown _) => (6000, 64)
    | .error _ => (6000, 160)
    | .ok (p, _) =>
      match pkind p.a with
      | .hbm => (1500, 40)
      | .lpddr => (1500, 160)
      | .host => (4000, 160)
      | .peer _ => (6000, 64)

/-- The entries of a page list (R263) that can be read. -/
def pageEntries (s : State) (c view a n : Nat) : List Nat :=
  (List.range n).filterMap fun i => sidePeek s c view {} (a + 8 * i) 8

/-- PENADDR of the state block of a SAMP command, 0 where the block cannot be read. -/
def sampPen (s : State) (c view : Nat) (d : List Word) : Nat :=
  match sidePeek s c view (srcSide d) (dw d 1) 64 with
  | some b => bits b 191 128
  | none => 0

/-- Whether a side of a ROWS command is HBM, for which c is 20. -/
def rowsCost (s : State) (c a : Nat) : Nat × Nat :=
  let (l, k) := sideCost s c {} a
  (l, if k = 40 then 20 else k)

/-- The L and c of the memories that a command touches, before the terms of its own row (Table 12-7). -/
def memCosts (s : State) (c view : Nat) (d : List Word) (src dst : Nat) : List (Nat × Nat) :=
  match cmdOpc d with
  | 0x02 => [sideCost s c (tSide src) (tBase src), sideCost s c (tSide dst) (tBase dst)]
  | 0x03 => [rowsCost s c (dw d 1), rowsCost s c (dw d 2)]
  | 0x04 =>
    let pen := sampPen s c view d
    [sideCost s c (srcSide d) (dw d 1)] ++ (if pen = 0 then [] else [sideCost s c {} pen]) ++
      (if sampMove d then [sideCost s c (dstSide d) (dw d 2)] else [])
  | 0x11 | 0x12 =>
    [sideCost s c (srcSide d) (dw d 5), sideCost s c (srcSide d) (dw d 1), sideCost s c (dstSide d) (dw d 2)]
  | 0x21 =>
    let n := dw d 5 % 2 ^ 16
    [sideCost s c {} (dw d 1), sideCost s c {} (dw d 2)] ++
      (pageEntries s c view (dw d 1) n ++ pageEntries s c view (dw d 2) n).map fun a => sideCost s c {} a
  | _ => [sideCost s c (srcSide d) (dw d 1), sideCost s c (dstSide d) (dw d 2)]

/-- The number of units of a command (R245). -/
def cmdUnits (d : List Word) (dst : Nat) : Nat :=
  match cmdOpc d with
  | 0x01 => ceilDiv (dw d 5) 4096
  | 0x02 => ceilDiv (tensCount d dst * 2 ^ tEsz dst) 4096
  | 0x03 => ceilDiv (dw d 5 % 2 ^ 13) 2
  | 0x04 => ceilDiv (sampCols d) 256
  | 0x11 | 0x12 => ceilDiv (dw d 6 % 2 ^ 32) 64
  | _ => dw d 5 % 2 ^ 16

/-- The runs of banks on a side of a ROWS command (R327). -/
def sideRuns (s : State) (c a n : Nat) : Nat :=
  match aliasSide s c a with
  | some off => (aliasRow off % 16 + n + 15) / 16
  | none => 0

/-- L and c of a command (R259, Table 12-7, R327). -/
def cmdCost (s : State) (c view : Nat) (d : List Word) (src dst : Nat) : Nat × Nat :=
  let ms := memCosts s c view d src dst
  let l := ms.foldl (fun m e => max m e.1) 0
  let k := ms.foldl (fun m e => max m e.2) 0
  match cmdOpc d with
  | 0x03 =>
    let n := dw d 5 % 2 ^ 13
    (l + 400 * (sideRuns s c (dw d 1) n + sideRuns s c (dw d 2) n), k)
  | 0x04 => (100 + l, 64)
  | 0x11 | 0x12 => (l, k * ceilDiv (64 * (dw d 6 >>> 32)) 4096)
  | 0x21 => (l, k * 2 ^ (bits (dw d 5) 19 16 - 12))
  | _ => (l, k)

/-! ## The slot window -/

/-- The range of addresses of a tensor's elements with coordinates from lo to hi in each dimension. -/
def tRange (r : Nat) (lo hi : List Int) : Nat × Nat :=
  let ends := (lo.zip hi).zipIdx.map fun e =>
    let k := if e.2 = 0 then (2 ^ tEsz r : Int) else tStride r e.2
    (min (e.1.1 * k) (e.1.2 * k), max (e.1.1 * k) (e.1.2 * k))
  let a := ends.foldl (fun a e => a + e.1) (tBase r : Int)
  let b := ends.foldl (fun a e => a + e.2) (tBase r : Int)
  (a.toNat, (b - a).toNat + 2 ^ tEsz r)

/-- The global ranges, by first byte and length, that a command names at its push (R361). -/
def cmdRanges (s : State) (c view : Nat) (d : List Word) (src dst : Nat) : List (Nat × Nat) :=
  let onG := fun (sd : Side) (r : Nat × Nat) => if sd.space = 0 then [r] else []
  let count := dw d 6 % 2 ^ 32
  let rowb := dw d 6 >>> 32
  let limit := dw d 7 % 2 ^ 32
  let ctr := if cmdCnt d then [(dw d 4, 8)] else []
  ctr ++
  match cmdOpc d with
  | 0x01 => onG (srcSide d) (dw d 1, dw d 5) ++ onG (dstSide d) (dw d 2, dw d 5)
  | 0x02 =>
    let box := tensBox d dst
    let org := (List.range (tRank dst)).map (tOrg d)
    let zero := box.map fun _ => (0 : Int)
    let top := box.map fun b => ((b : Nat) : Int) - 1
    let lo := (org.zip zero).map fun e => max e.1 e.2
    let hi := ((org.zip top).zipIdx).map fun e => min (e.1.1 + e.1.2) ((tExt src e.2 : Int) - 1)
    onG (tSide src) (tRange src lo hi) ++ onG (tSide dst) (tRange dst zero top)
  | 0x03 => [(dw d 1, 2048 * (dw d 5 % 2 ^ 13)), (dw d 2, 2048 * (dw d 5 % 2 ^ 13))]
  | 0x04 =>
    let pen := sampPen s c view d
    onG (srcSide d) (dw d 1, 64) ++ (if sampMove d then onG (dstSide d) (dw d 2, 4 * sampCols d) else []) ++
      if pen = 0 then [] else [(pen + 2 * (dw d 6 % 2 ^ 32), 2 * sampCols d)]
  | 0x11 =>
    onG (srcSide d) (dw d 5, 4 * count) ++ onG (srcSide d) (dw d 1, limit * rowb) ++
      onG (dstSide d) (dw d 2, count * rowb)
  | 0x12 =>
    onG (srcSide d) (dw d 5, 4 * count) ++ onG (srcSide d) (dw d 1, count * rowb) ++
      onG (dstSide d) (dw d 2, limit * rowb)
  | 0x21 =>
    let n := dw d 5 % 2 ^ 16
    let sz := 2 ^ bits (dw d 5) 19 16
    [(dw d 1, 8 * n), (dw d 2, 8 * n)] ++
      (pageEntries s c view (dw d 1) n ++ pageEntries s c view (dw d 2) n).map fun a => (a, sz)
  | _ => []

/-- The pages of active slots in some ranges, captured (R361). -/
def captureSlots (x : Context) (rs : List (Nat × Nat)) : List SlotPage :=
  x.slots.flatMap fun e =>
    if e.2.active then
      (e.2.pages.zipIdx).filterMap fun p =>
        let base := 0x020000000000 + e.1 * 2 ^ 32 + p.2 * 65536
        if rs.any fun r => decide (r.1 < base + 65536) && decide (base < r.1 + r.2) then
          some { slot := e.1, gen := e.2.gen, no := p.2, page := p.1 }
        else none
    else []

/-! ## The serving order -/

/-- A command whose service moves d ticks later (R260). -/
def Cmd.later (m : Cmd) (d : Nat) : Cmd := { m with svcEnd := m.svcEnd + d, slack := m.slack - d }

/-- A command whose service moves d ticks earlier, as a command before it is cancelled. -/
def Cmd.earlier (m : Cmd) (d : Nat) : Cmd := { m with svcEnd := m.svcEnd - d, slack := m.slack + d }

/-- Where a command goes among those whose service has not ended at tick t, in their order, and the tick at
which its service starts (R260). -/
def placeAt (active : List Cmd) (t : Nat) (m : Cmd) : Nat × Nat :=
  let n := active.length
  let endOf := fun (p : Nat) => (active.getD (p - 1) {}).svcEnd
  if cmdDl m.d then
    let h := active.headD {}
    let begun := decide (h.svcEnd ≤ t + h.svc)
    let cut := if begun then t + (h.svcEnd - t) % h.per else h.svcEnd - h.svc
    let lo := if n = 0 then 0 else if begun && cut == h.svcEnd then 1 else 0
    let lo := (active.zipIdx).foldl (fun lo e =>
      if cmdDl e.1.d && decide (dw e.1.d 3 ≤ dw m.d 3) then max lo (e.2 + 1) else lo) lo
    let fits := fun (p : Nat) => (active.drop p).all fun x => decide (m.svc ≤ x.slack)
    let p := ((List.range (n + 1)).find? fun (q : Nat) => decide (lo ≤ q) && fits q).getD n
    (p, if n = 0 then t else if p = 0 then cut else endOf p)
  else (n, if n = 0 then t else endOf n)

/-- The command with the end of its service, its promise and its slack, its service starting at a tick (R259). -/
def Cmd.promised (m : Cmd) (start : Nat) : Cmd :=
  let fin := start + m.svc
  let slack := ceilDiv (m.lat + m.svc) 4
  { m with svcEnd := fin, slack := slack, promise := fin + m.lat + slack }

/-- Whether the model still has service to give a command at tick t. -/
def Cmd.active (m : Cmd) (t : Nat) : Bool := !m.finished && decide (t < m.svcEnd)

/-- The commands of e0 or e1 with a new one in its place (R260). -/
def insertCmd (cs : List Cmd) (t : Nat) (m : Cmd) : List Cmd × Cmd :=
  let act := cs.filter fun x => x.active t
  let rest := cs.filter fun x => !(x.active t)
  let (p, start) := placeAt act t m
  let m := m.promised start
  (rest ++ act.take p ++ [m] ++ (act.drop p).map fun x => x.later m.svc, m)

/-- The commands of one gondola engine of a die, each with its core, in serving order (R259). -/
def gondolaOrder (s : State) (die n : Nat) : List (Nat × Cmd) :=
  let all := s.crews.flatMap fun e =>
    if dieOf e.1 = die then ((e.2.ports.get 2).cmds.filter fun m => m.engine == n).map fun m => (e.1, m) else []
  all.foldl (fun l e => l.takeWhile (fun x => decide (x.2.svcEnd ≤ e.2.svcEnd)) ++
    [e] ++ l.dropWhile (fun x => decide (x.2.svcEnd ≤ e.2.svcEnd))) []

/-- An e2 command in the order of the engine that serves it first (R259). -/
def insertGondola (s : State) (c t : Nat) (m : Cmd) : State × Cmd :=
  let cand := fun (n : Nat) =>
    let act := ((gondolaOrder s (dieOf c) n).map (·.2)).filter fun x => x.active t
    let (p, start) := placeAt act t m
    (n, p, m.promised start)
  let best := [1, 2, 3].foldl (fun (b : Nat × Nat × Cmd) n =>
    let x := cand n
    if x.2.2.svcEnd < b.2.2.svcEnd then x else b) (cand 0)
  let (n, p, m) := best
  let m := { m with engine := n }
  let act := (gondolaOrder s (dieOf c) n).filter fun x => x.2.active t
  let s := (act.drop p).foldl (fun s e => modCmd s e.1 2 e.2.id fun x => x.later m.svc) s
  (s.modCrew c fun w => w.modPort 2 fun q => { q with cmds := q.cmds ++ [m] }, m)

/-! ## The push -/

/-- What a push does: it is refused, it waits, or it is accepted with the word that it returns. -/
inductive PushRes where
  | refused (r : Refused)
  | wait (s : State) (w : WaitOn)
  | done (s : State) (p : Word)

/-- The logits of a SAMP command, as the tile stands (R241, R265). -/
def Crew.sampLogits (w : Crew) (d : List Word) : List (Nat × Bool) :=
  (List.range (sampCols d)).map fun i => w.cell (sampAcc d) (sampF0 d + i)

/-- The command accepted at a port (R246, R253, R259, R361). -/
def accept (s : State) (c port agent view : Nat) (d : List Word) (src dst : Nat) : State × Word :=
  let (l, per) := cmdCost s c view d src dst
  let ctx := (s.crew c).ctx
  let m : Cmd :=
    { id := (s.crew c).nextCmd, d := d, agent := agent, view := view, lat := l, per := per
      svc := cmdUnits d dst * per, src := src, dst := dst
      logits := if cmdOpc d = 0x04 then (s.crew c).sampLogits d else []
      slots := captureSlots (s.ctx ctx) (cmdRanges s c view d src dst) }
  let s := s.modCrew c fun w => { w with nextCmd := w.nextCmd + 1 }
  let t := s.cycle c
  if port = 2 then
    let (s, m) := insertGondola s c t m
    (s, BitVec.ofNat 64 m.promise)
  else
    let (cs, m) := insertCmd (((s.crew c).ports.get port).cmds) t m
    (s.modCrew c fun w => w.modPort port fun p => { p with cmds := cs }, BitVec.ofNat 64 m.promise)

/-- The reading and checking of records and tile before a command is accepted (R255, R256, R263, R264). -/
def pushChecks (s : State) (c port agent : Nat) (d : List Word) : Except Refused (Nat × Nat × State) :=
  match cmdOpc d with
  | 0x02 => tensRecords s c port d
  | 0x03 => (match rowsBad s c d with | some b => .error (badRecord s 0 b) | none => .ok (0, 0, s))
  | 0x04 => (match sampRefusal s c agent d with | some t => .error { s := s, t := t } | none => .ok (0, 0, s))
  | _ => .ok (0, 0, s)

/-- A push by an agent under a view (R248, R250, R262, R267); `flush` performs the pusher's own earlier stores at
CORE scope. -/
def pushCommand (s : State) (c port agent view : Nat) (d : List Word) (flush : State → State) : PushRes :=
  match cmdBad port d with
  | some b => .refused (badRecord s 0 b)
  | none =>
    let (s, out) := release (flush s) c (cmdScope d)
    if !out then .wait s (.pushRelease port (cmdScope d))
    else if cmdOpc d = 0x0F then
      let tok : CancelTok := { port := port, agent := agent, tag := cmdTag d }
      let s := s.modCrew c fun w => { w with cancels := w.cancels ++ [tok] }
      .done { s with moves := .event .cancel { unit := c } :: s.moves } (BitVec.ofNat 64 (s.cycle c))
    else
      match pushChecks s c port agent d with
      | .error r => .refused r
      | .ok (src, dst, s) =>
        if 16 ≤ ((s.crew c).ports.get port).cmds.length then .wait s (.epush port)
        else
          let (s, p) := accept s c port agent view d src dst
          .done s p

/-! ## Results -/

/-- The words of a result (Table 12-4). -/
def resultWords (m : Cmd) (done tick late aux : Nat) : List Word :=
  let w0 := cmdTag m.d + m.stat * 2 ^ 16 + late * 2 ^ 24 + m.acpt.toNat * 2 ^ 25 + m.agent * 2 ^ 40
  [w0, done, tick, aux].map (BitVec.ofNat 64)

/-- DONE of a command (Table 12-4). -/
def Cmd.done (m : Cmd) : Nat :=
  match cmdOpc m.d with
  | 0x01 => min (4096 * m.units) (dw m.d 5)
  | 0x02 => min (4096 * m.units) (tensCount m.d m.dst * 2 ^ tEsz m.dst)
  | 0x03 => min (4096 * m.units) (2048 * (dw m.d 5 % 2 ^ 13))
  | 0x04 => min (256 * m.units) (sampCols m.d)
  | 0x11 | 0x12 => min (64 * m.units) (dw m.d 6 % 2 ^ 32)
  | _ => m.units

/-- Result entries of a port that are taken: posted, or reserved by a command that has started (R247). -/
def Port.taken (p : Port) : Nat := p.res.length + (p.cmds.filter fun m => m.started).length

/-- The command that e0 or e1 serves: the first in the order whose serving is not over (R246). -/
def Port.served (p : Port) : Option Cmd := p.cmds.find? fun m => !m.finished

/-- The commands that the engines of a port serve next: of e2, those of this core that its die's engines serve. -/
def nextServed (s : State) (c port : Nat) : List Cmd :=
  if port = 2 then
    (List.range 4).filterMap fun n =>
      match (gondolaOrder s (dieOf c) n).find? fun e => !e.2.finished with
      | some (o, m) => if o = c then some m else none
      | none => none
  else
    match ((s.crew c).ports.get port).served with
    | some m => [m]
    | none => []

/-- The status word of a port (Table 12-10). -/
def portStatus (s : State) (c port : Nat) : Word :=
  let p := (s.crew c).ports.get port
  let ms := nextServed s c port
  let hold := ms.any fun m => !m.started && decide (16 ≤ p.taken)
  BitVec.ofNat 64 (hold.toNat * 2 ^ 17 + (ms.any fun m => m.started).toNat * 2 ^ 16 + p.res.length * 2 ^ 8 +
    (16 - p.cmds.length))

/-- What the pop of a result acquires: the lines that its command wrote leave the core's L1 (R311). -/
def acquireLines (s : State) (c : Nat) (lines : List Nat) : State :=
  s.modCore c fun p => p.dropL1 fun l => lines.contains l.line

/-- The head result of a port removed, its lines acquired: the die's guest copies of them show the homes, also where
the crew has come to another die since (R311). -/
def popResult (s : State) (c port : Nat) (r : Result) : State :=
  let s := s.modCrew c fun w => w.modPort port fun p => { p with res := p.res.drop 1 }
  acquireLines (refreshLines s c r.lines) c r.lines

/-! ## Accesses of a command -/

/-- The failure of a unit: the state, STAT and AUX (R251, R252). -/
structure UFail where
  s    : State
  stat : Nat
  aux  : Nat

/-- The failure of a translation of a command (R331, R333, R340, R387). -/
def xlatFail (s : State) (c port va kind : Nat) : XErr → UFail
  | .absent span => { s := (requestPage s (s.crew c).ctx c (17 + port) va kind span).1, stat := 3, aux := va }
  | .linkDown d => { s := s, stat := 9, aux := d }
  | _ => { s := s, stat := 2, aux := va }

/-- The page of the slot window that a command captured for an address (R361). -/
def Cmd.captured (m : Cmd) (va : Nat) : Option SlotPage :=
  let off := va - 0x020000000000
  if slotWindow va then m.slots.find? fun p => p.slot == off / 2 ^ 32 && p.no == off % 2 ^ 32 / 65536 else none

/-- The offset in the alias that an address of a command names, by the pages that it captured. -/
def cmdAlias (s : State) (c : Nat) (m : Cmd) (va : Nat) : Option Nat :=
  let pa := if slotWindow va then
      (m.captured va).map fun p => (s.ctx (s.crew c).ctx).poolPa p.page (va - 0x020000000000)
    else rawPa s c va
  pa.bind (aliasOff s)

/-- Translation of an address of a command: a page of the slot window as it was captured (R361), and none that was
not there at the push. -/
def engXlat (s : State) (c : Nat) (m : Cmd) (va : Nat) (acc : XAcc) : Except XErr (Nat × State) :=
  let ctx := (s.crew c).ctx
  match m.captured va with
  | some p =>
    (match physical s ((s.ctx ctx).poolPa p.page (va - 0x020000000000)) with
      | .ok a => .ok (a, s)
      | .error e => .error e)
  | none =>
    if slotWindow va then .error .denied
    else
      match translate s c ctx va acc .engine with
      | .ok (p, s) => .ok (p.a, s)
      | .error e => .error e

/-- One byte of a side of a command, checked (R202, R250, R279, R315). -/
def engLoc (s : State) (c port : Nat) (m : Cmd) (sd : Side) (va : Nat) (write : Bool) : Except UFail (ELoc × State) :=
  if sd.space ≠ 0 then
    let o := if sd.rem then 16 * clusterOf c + sd.core else c
    let there := s.hasCrew o && (s.crew o).flight == (s.crew c).flight
    if there && decide (va < extent s o sd.space) then .ok (.sp o sd.space va, s)
    else .error { s := s, stat := 2, aux := va }
  else
    match engXlat s c m va (if write then .store else .load) with
    | .error e => .error (xlatFail s c port va (if write then 1 else 0) e)
    | .ok (a, s) =>
      let view := (s.ctx (s.crew c).ctx).resolve m.view
      if write && view != 0 && !(onModule a) then .error { s := s, stat := 2, aux := va } else .ok (.mem a, s)

/-- n bytes of a side from an address on, checked in turn. -/
def engLocs (s : State) (c port : Nat) (m : Cmd) (sd : Side) (write : Bool) :
    Nat → Nat → Except UFail (List ELoc × State)
  | 0, _ => .ok ([], s)
  | n + 1, va =>
    match engLoc s c port m sd (va % 2 ^ 64) write with
    | .error e => .error e
    | .ok (l, s) =>
      match engLocs s c port m sd write n (va + 1) with
      | .error e => .error e
      | .ok (ls, s) => .ok (l :: ls, s)

/-- A part of a unit: its source, or the bytes that fill it; and its destination. `val` gives the bytes where the
source is only checked. -/
structure CopyItem where
  src : Option (Side × Nat) := none
  val : Option (List Byte) := none
  dst : Side × Nat
  n   : Nat

/-- A part with its bytes located. -/
structure CopyLocs where
  item : CopyItem
  src  : List ELoc
  dst  : List ELoc

/-- n bytes from `at_` on cut at the aligned 8-byte words that they lie in (R310). -/
def cutWords (p : Piece) : Nat → Nat → List Piece
  | 0, _ => []
  | fuel + 1, at_ =>
    let k := 8 - at_ % 8
    if p.dst.isEmpty then []
    else { src := p.src.take k, val := p.val.map (·.take k), dst := p.dst.take k } ::
      cutWords { src := p.src.drop k, val := p.val.map (·.drop k), dst := p.dst.drop k } fuel 0

/-- The pieces of a located part, in order. -/
def CopyLocs.pieces (p : CopyLocs) : List Piece :=
  cutWords { src := p.src, val := p.item.val, dst := p.dst } (p.item.n / 8 + 2) (p.item.dst.2 % 8)

/-- The sources of some parts located, then the destinations. -/
def locateItems (s : State) (c port : Nat) (m : Cmd) : List CopyItem → Except UFail (List CopyLocs × State)
  | [] => .ok ([], s)
  | i :: is =>
    let src := match i.src with
      | some (sd, a) => engLocs s c port m sd false i.n a
      | none => .ok ([], s)
    match src with
    | .error e => .error e
    | .ok (ls, s) =>
      match engLocs s c port m i.dst.1 true i.n i.dst.2 with
      | .error e => .error e
      | .ok (ld, s) =>
        match locateItems s c port m is with
        | .error e => .error e
        | .ok (r, s) => .ok ({ item := i, src := ls, dst := ld } :: r, s)

/-- How a unit ends. -/
inductive URes where
  /-- it cannot be performed now -/
  | hold
  | fail (f : UFail)
  /-- it is performed; the global lines it writes, and the pieces of the command that have still to perform -/
  | ok (s : State) (lines : List Nat) (todo : List Piece)

/-- The address that a reserved line reports (R281): the first byte of it that the unit writes. -/
def lineAddr (ps : List CopyLocs) (line : Nat) : Nat :=
  let all := ps.flatMap fun p => (p.dst.zipIdx).filterMap fun e =>
    match e.1 with
    | .mem a => if lineOf a = line then some (p.item.dst.2 + e.2) else none
    | _ => none
  all.headD 0

/-- The first global address of some parts, for an orphan (R287). -/
def firstGlobal (is : List CopyItem) : Option Nat :=
  (is.flatMap fun i =>
    (match i.src with | some (sd, a) => if sd.space = 0 then [a] else [] | none => []) ++
      if i.dst.1.space = 0 then [i.dst.2] else []).head?

/-- Whether a command's view is a bleached tint (R287), or is being fixed (R284). -/
def cmdOrphan (s : State) (c : Nat) (m : Cmd) : Bool := (s.ctx (s.crew c).ctx).orphaned m.view
def cmdFixing (s : State) (c : Nat) (m : Cmd) : Bool := viewFixing s (s.crew c).ctx m.view

/-- The writes of a unit let in: versions reserved, and earlier stores of the core to their lines performed at
the home (R281, R310). -/
def admitWrites (s : State) (c : Nat) (m : Cmd) (dst : List ELoc) (addr : Nat → Nat) : URes :=
  let ctx := (s.crew c).ctx
  let lines := locLines dst
  match reserve s ctx ((s.ctx ctx).resolve m.view) lines with
  | .error (_, l) => .fail { s := s, stat := 7, aux := addr l }
  | .ok s =>
    let s := clearLines s c lines
    if wpHas s c lines then .hold else .ok s lines []

/-- Whether the unit that an event performs only takes its place, its pieces performing later (R310). -/
def unitHeld (s : State) : Bool := s.ev.sub == 1

/-- A unit of copies (R252, R253, R281, R284, R287): every byte is checked and every version reserved before
anything is written; its pieces come behind those that the command has still to perform. -/
def runItems (s : State) (c port : Nat) (m : Cmd) (is : List CopyItem) : URes :=
  if cmdOrphan s c m then .fail { s := s, stat := 8, aux := (firstGlobal is).getD 0 }
  else if cmdFixing s c m && (firstGlobal is).isSome then .hold
  else
    match locateItems s c port m is with
    | .error e => .fail e
    | .ok (ps, s) =>
      match admitWrites s c m (ps.flatMap (·.dst)) (lineAddr ps) with
      | .ok s lines _ =>
        let todo := m.todo ++ ps.flatMap CopyLocs.pieces
        if unitHeld s || !(todo.all (Piece.linked s)) then .ok s lines todo else .ok (performPieces s c m todo) lines []
      | r => r

/-- Bytes that a unit reads from a side, under the same checks. -/
def readSide (s : State) (c port : Nat) (m : Cmd) (sd : Side) (a n : Nat) : Except UFail (Nat × State) :=
  match engLocs s c port m sd false n a with
  | .error e => .error e
  | .ok (ls, s) => .ok (ofBytes (ls.map fun l => engGet s c m l), s)

end Sys2Proof.Machine
end

