-- ==== Sys2Proof/Machine/Shapes.lean ====
section
/-!
DEFINITION. Shape registers and their checks (R174 to R179), shape images and windows (R195, R196), and the
tree of R156 with carries (R180 to R183, R188).
Open points: logs 17 (DEDUCED, DESIGN CHOICE), 18 (DESIGN CHOICE).
-/
namespace Sys2Proof.Machine

/-! ## Shapes -/

/-- D of a shape. -/
def Shape.depth (h : Shape) : Nat := h.lv.length

/-- The offsets of level L, 1 to D. -/
def Shape.level (h : Shape) (l : Nat) : List Nat := h.lv.getD (l - 1) []

/-- The segment count of level L. -/
def Shape.count (h : Shape) (l : Nat) : Nat := (h.level l).length - 1

/-- The extent T (R175). -/
def Shape.extent (h : Shape) : Nat := (h.lv.getLast?.getD []).getLast?.getD 0

/-- el of R176 through the given deeper levels. -/
def flatThrough (deeper : List (List Nat)) (u : Nat) : Nat := deeper.foldl (fun u o => o.getD u 0) u

/-- The pairs of neighbours in a list. -/
def neighbours : List Nat → List (Nat × Nat)
  | a :: b :: l => (a, b) :: neighbours (b :: l)
  | _ => []

/-- The flat ranges of the segments of level L ≥ 1 (R176). -/
def Shape.ranges (h : Shape) (l : Nat) : List (Nat × Nat) :=
  neighbours ((h.level l).map (flatThrough (h.lv.drop l)))

/-- The flat ranges of depth L: the whole strip at depth 0. -/
def Shape.segments (h : Shape) (l n : Nat) : List (Nat × Nat) := if l = 0 then [(0, n)] else h.ranges l

/-- The shape linked to v[r]: a link to an empty shape is none (R177). -/
def Kite.linked (x : Kite) (r : Nat) : Option Shape :=
  match (x.vget r).link with
  | some i => if (x.h.get i).depth = 0 then none else some (x.h.get i)
  | none => none

/-- Levels 1 to dp − 1 of a shape, with OPEN bits 0 to dp − 1; empty for dp ≤ 1. -/
def Shape.upper (h : Shape) (dp : Nat) : Shape :=
  if dp ≤ 1 then {} else { lv := h.lv.take (dp - 1), openIn := h.openIn % 2 ^ dp, openOut := h.openOut % 2 ^ dp }

/-- The shape with its innermost offsets changed. -/
def Shape.mapInner (h : Shape) (g : Nat → Nat) : Shape :=
  { h with lv := h.lv.dropLast ++ (match h.lv.getLast? with | some o => [o.map g] | none => []) }

/-! ## SHAPE_OVF -/

/-- SHAPE_OVF with its reason and value (R178). -/
def shapeTrap (va reason value : Nat) : Trap := trapAt 0x0A va (2 ^ 32 * reason + value % 2 ^ 32)

/-- The capacity of a level (R174). -/
def Kite.levelCap (x : Kite) : Nat := x.mvlb / 4

/-- The first of some levels that holds more segments than a level may (reason 1). -/
def levelOver (cap : Nat) (lvs : List (List Nat)) : Option Nat :=
  (lvs.map fun o => o.length - 1).find? fun n => decide (cap < n)

/-- Conditions in the order of their reporting: the first that holds raises (R178). -/
def firstOvf (va : Nat) : List (Bool × Nat × Nat) → Option Trap
  | [] => none
  | (b, reason, value) :: l => if b then some (shapeTrap va reason value) else firstOvf va l

/-- Reason 1 of the levels of a source shape, as a condition. -/
def overCond (cap : Nat) (lvs : List (List Nat)) : Bool × Nat × Nat :=
  ((levelOver cap lvs).isSome, 1, (levelOver cap lvs).getD 0)

/-- A shape trap of an instruction as its failure. -/
def shapeFail (s : State) (t : Trap) : KFail := .trap s t none

/-! ## Images -/

/-- The header of Table 9-1. -/
def Shape.header (h : Shape) : Nat :=
  h.depth + 2 ^ 8 * (h.openIn % 16) + 2 ^ 12 * (h.openOut % 16) +
    (h.lv.zipIdx).foldl (fun a o => a + 2 ^ (16 * (o.2 + 1)) * (o.1.length - 1)) 0

/-- The image of a shape (R195). -/
def Shape.image (h : Shape) : List Byte := toBytes 8 h.header ++ h.lv.flatMap fun o => o.flatMap (toBytes 2)

/-- The count of level L in a header. -/
def headerCount (hd l : Nat) : Nat := hd >>> (16 * l) % 2 ^ 16

/-- The bytes of an image after its header. -/
def imageRest (hd : Nat) : Nat :=
  ((List.range (hd % 4)).map fun l => 2 * (headerCount hd (l + 1) + 1)).foldl (· + ·) 0

/-- The halfwords of a list of bytes. -/
def halfwords : List Byte → List Nat
  | a :: b :: l => (a.toNat + 256 * b.toNat) :: halfwords l
  | _ => []

/-- The first bad offset of a level that begins at byte `pos`, with `prev` the offset before it. -/
def badOffset (pos : Nat) (prev : Option Nat) : List Nat → Option Nat
  | [] => none
  | o :: l =>
    if (match prev with | none => o != 0 | some p => decide (o < p)) then some pos else badOffset (pos + 2) (some o) l

/-- The levels of an image from its halfwords, or the byte of the first bad field (R195). -/
def parseLevels (hd pos : Nat) : Nat → Nat → List Nat → Except Nat (List (List Nat))
  | 0, _, _ => .ok []
  | n + 1, l, ws =>
    let o := ws.take (headerCount hd l + 1)
    let last := pos + 2 * headerCount hd l
    match badOffset pos none o with
    | some p => .error p
    | none =>
      if n ≠ 0 ∧ o.getLastD 0 ≠ headerCount hd (l + 1) then .error last
      else
        match parseLevels hd (last + 2) n (l + 1) (ws.drop (headerCount hd l + 1)) with
        | .error e => .error e
        | .ok ls => .ok (o :: ls)

/-- The shape of an image, or the byte offset of its first bad field (R195); of one that a window is taken from, every
OPEN bit must be zero (R196). -/
def parseImage (window : Bool) (hd : Nat) (rest : List Byte) : Except Nat Shape :=
  let d := hd % 4
  if d = 0 ∨ bits hd 7 2 ≠ 0 then .error 0
  else if window && bits hd 15 8 != 0 then .error 1
  else if (List.range d).any fun l => headerCount hd (l + 1) == 0 && (bit hd (9 + l) || bit hd (13 + l)) then .error 1
  else if d < 2 ∧ headerCount hd 2 ≠ 0 then .error 4
  else if d < 3 ∧ headerCount hd 3 ≠ 0 then .error 6
  else
    match parseLevels hd 8 d 1 (halfwords rest) with
    | .error e => .error e
    | .ok lv => .ok { lv := lv, openIn := bits hd 11 8, openOut := bits hd 15 12 }

/-! ## Windows -/

/-- Whether a segment of level 1 lies in the window (R196). -/
def keepsFirst (s e t : Nat) (r : Nat × Nat) : Bool :=
  (decide (r.1 < e) && decide (s < r.2)) || (r.1 == r.2 && ((decide (s ≤ r.1) && decide (r.1 < e)) || (r.1 == e && e == t)))

/-- Whether a segment of a deeper level lies in the window, its parent being kept and ending at `pe`. -/
def keepsChild (s e t pe : Nat) (r : Nat × Nat) : Bool :=
  (decide (r.1 < e) && decide (s < r.2)) ||
    (r.1 == r.2 && ((decide (s ≤ r.1) && decide (r.1 < e)) || (r.1 == e && (e == t || pe == e))))

/-- The kept segments of level L, from those of the level above. -/
def Shape.keptAt (h : Shape) (s e l : Nat) (above : List Nat) : List Nat :=
  let t := h.extent
  let r := h.ranges l
  if l = 1 then (List.range r.length).filter fun j => keepsFirst s e t (r.getD j (0, 0))
  else
    let o := h.level (l - 1)
    let pr := h.ranges (l - 1)
    above.flatMap fun p =>
      ((List.range (o.getD (p + 1) 0)).filter fun j => decide (o.getD p 0 ≤ j)).filter fun j =>
        keepsChild s e t (pr.getD p (0, 0)).2 (r.getD j (0, 0))

/-- The kept segments of each level. -/
def Shape.kept (h : Shape) (s e : Nat) : List (List Nat) :=
  ((List.range h.depth).foldl (fun (acc : List (List Nat)) l => acc ++ [h.keptAt s e (l + 1) (acc.getLastD [])]) [])

/-- An offset clipped to the window and lowered by s. -/
def clip (s e u : Nat) : Nat := min (max u s) e - s

/-- The offsets of level L in the window. -/
def Shape.windowLevel (h : Shape) (s e l : Nat) (kept : List (List Nat)) : List Nat :=
  let kp := kept.getD (l - 1) []
  let o := h.level l
  match kp with
  | [] => [0]
  | j0 :: _ =>
    let place := fun (u : Nat) =>
      if l = h.depth then clip s e u else ((kept.getD l []).filter fun j => decide (j < u)).length
    place (o.getD j0 0) :: kp.map fun j => place (o.getD (j + 1) 0)

/-- The window of a shape from s to e (R196). -/
def Shape.window (h : Shape) (s e : Nat) : Shape :=
  let kept := h.kept s e
  let openAt := fun (g : Nat → List Nat → Bool) =>
    (List.range h.depth).foldl (fun m l => if g (l + 1) (kept.getD l []) then m + 2 ^ (l + 1) else m) 0
  { lv := (List.range h.depth).map fun l => h.windowLevel s e (l + 1) kept
    openIn := (decide (0 < s)).toNat + openAt fun l kp =>
      match kp with | j :: _ => decide (((h.ranges l).getD j (0, 0)).1 < s) | [] => false
    openOut := (decide (e < h.extent)).toNat + openAt fun l kp =>
      match kp.getLast? with | some j => decide (e < ((h.ranges l).getD j (0, 0)).2) | none => false }

/-! ## The tree of R156 -/

/-- A present value in the tree: its bits, the lowest index it combines, its validity, and the flags of its
roundings. -/
structure Node where
  v  : Nat := 0
  i  : Nat := 0
  ok : Bool := true
  fl : Nat := 0
  deriving DecidableEq, Repr

/-- Two nodes combined by `g`, which takes the index for SRS; a missing one passes the other. DESIGN CHOICE
(log 18): a signalling NaN that is the only present element of its segment passes unquieted and raises no flag, as R156
passes a lone child unchanged. -/
def joinNodes (g : Nat → Nat → Nat → Nat × Nat) : Option Node → Option Node → Option Node
  | some a, some b =>
    let (v, fl) := g a.i a.v b.v
    some { v := v, i := a.i, ok := a.ok && b.ok, fl := a.fl ||| b.fl ||| fl }
  | some a, none => some a
  | none, b => b

/-- The node of 2^m leaves from leaf i. -/
def treeNode (g : Nat → Nat → Nat → Nat × Nat) (leaf : Nat → Option Node) : Nat → Nat → Option Node
  | 0, i => leaf i
  | m + 1, i => joinNodes g (treeNode g leaf m i) (treeNode g leaf m (i + 2 ^ m))

/-- The m with 2^m the least power of two not below n. -/
def treeHeight (n : Nat) : Nat := if n ≤ 1 then 0 else Nat.log2 (n - 1) + 1

/-- A reducing function of nred, nscan (Table 9-6). -/
inductive RedFn where | add | min | max | and | or | xor
  deriving DecidableEq, Repr

/-- The identities of Table 9-4. -/
def RedFn.identity (g : RedFn) (ty : Nat) : Nat :=
  let w := widthOf ty
  match g with
  | .add | .or | .xor => 0
  | .and => ones w
  | .min => if isIType ty then ofInt w (intMax ty) else infBits ty false
  | .max => if isIType ty then ofInt w (intMin ty) else infBits ty true

/-- Two elements combined, the first first; i is the index for SRS (R146, R156, R188). -/
def RedFn.join (g : RedFn) (ty : Nat) (ctx : VCtx) (i b c : Nat) : Nat × Nat :=
  if isIType ty then
    (match g with
      | .add => ((b + c) % 2 ^ widthOf ty, 0)
      | .min => (iOp ty Min.min b c, 0)
      | .max => (iOp ty Max.max b c, 0)
      | .and => (b &&& c, 0)
      | .or => (b ||| c, 0)
      | .xor => (b ^^^ c, 0))
  else
    match g with
    | .min => fMinMax (ctx.rounding false i) ty false b c
    | .max => fMinMax (ctx.rounding false i) ty true b c
    | _ => fAdd (ctx.rounding false i) ty false b c

/-- The root over the present elements from lo up to hi of v[r], of n active ones. -/
def segRoot (x : Kite) (ctx : VCtx) (g : RedFn) (ty r n lo hi : Nat) : Option Node :=
  let leaf := fun i =>
    if lo ≤ i ∧ i < hi ∧ i < n ∧ ctx.on i = true then
      let e := x.velem ty r i
      some { v := if isIType ty then e.v else flush ctx.ftz ty e.v, i := i, ok := e.ok }
    else none
  treeNode (g.join ty ctx) leaf (treeHeight n) 0

/-- The number of present elements of a segment. -/
def presentIn (ctx : VCtx) (n lo hi : Nat) : Nat := countBelow (min hi n) fun i => decide (lo ≤ i) && ctx.on i

/-- The carry that a first segment takes up (R182), as a node at its first element. DESIGN CHOICE (log 18): VALUE bits
above the width of the type are dropped, also where the carry passes through. -/
def Carry.node (k : Carry) (ty lo : Nat) : Node := { v := k.value % 2 ^ widthOf ty, i := lo, ok := !k.bad }

end Sys2Proof.Machine
end

