-- ==== Sys2Proof/Machine/Nested.lean ====
section
/-!
DEFINITION. The nested instructions (R185 to R199).
Open points: logs 11 (DEDUCED), 17 (DEDUCED, DESIGN CHOICE).
-/
namespace Sys2Proof.Machine

/-! ## Reduce and scan -/

/-- The checks of nred and nscan in the order of R178: the link and the depth, the levels, the results, T. DESIGN
CHOICE (log 17): reason 1 looks at every level of the link whatever the depth is, and reports the count of a level before
the number of results, where both exceed what they may be. -/
def redCheck (x : Kite) (sh : Option Shape) (dp n results cap : Nat) : Option Trap :=
  let h := sh.getD {}
  let reads := sh.isSome || dp != 0
  firstOvf 0
    [(reads && (sh.isNone || decide (h.depth < dp)), 2, dp), overCond x.levelCap h.lv,
     (decide (cap < results), 1, results), (reads && h.extent != n, 3, h.extent)]

/-- The OPEN bits of a depth (R180): from the shape, or unlinked at depth 0 from k0. -/
def openBits (x : Kite) (sh : Option Shape) (dp : Nat) : Bool × Bool :=
  match sh with
  | some h => (bit h.openIn dp, bit h.openOut dp)
  | none => (dp == 0 && (x.k.get 0).opn, false)

/-- What nred and nscan work on: the source, its segments and OPEN bits, and the carry of the depth. -/
structure Red where
  g    : RedFn
  ty   : Nat
  b    : Nat
  n    : Nat
  segs : List (Nat × Nat)
  oin  : Bool
  oout : Bool
  k    : Carry

/-- The fold of segment j, of its elements below `hi`, with the carry that the first one takes up. -/
def Red.fold (r : Red) (x : Kite) (ctx : VCtx) (j lo hi : Nat) : Option Node :=
  let root := segRoot x ctx r.g r.ty r.b r.n lo hi
  if j = 0 ∧ r.oin = true ∧ r.k.opn = true then joinNodes (r.g.join r.ty ctx) (some (r.k.node r.ty lo)) root else root

/-- A fold, or the identity where it is empty. -/
def Red.value (r : Red) (o : Option Node) : Node := o.getD { v := r.g.identity r.ty }

/-- The carry that the last segment leaves, or none. -/
def Red.carryOut (r : Red) (x : Kite) (ctx : VCtx) : Carry × Nat :=
  if !r.oout then ({}, 0)
  else
    let j := r.segs.length - 1
    let (lo, hi) := r.segs.getD j (0, 0)
    let v := r.value (r.fold x ctx j lo hi)
    let old := if j = 0 ∧ r.oin = true ∧ r.k.opn = true then r.k.count else 0
    ({ value := v.v, opn := true, bad := !v.ok, count := min (old + presentIn ctx r.n lo hi) (2 ^ 32 - 1) },
     if v.ok then v.fl else 0)

/-- The value of a node as a written element. -/
def Node.out (v : Node) : Out := { v := v.v, ok := v.ok, fl := v.fl }

/-- What nred and nscan work on. -/
def redOf (g : RedFn) (f : Fields) (x : Kite) (ctx : VCtx) : Red :=
  let ty := f.ty.toNat
  let dp := f.dp.toNat
  let b := opdValue f.b
  let sh := x.linked b
  let segs := (sh.getD {}).segments dp (ctx.count ty)
  let (oin, oout) := openBits x sh dp
  { g := g, ty := ty, b := b, n := ctx.count ty, segs := segs, oin := oin, oout := oout && !segs.isEmpty, k := x.k.get dp }

/-- nred, R186. -/
def nredMem (g : RedFn) (f : Fields) (s : State) (c k : Nat) (ctx : VCtx) : Except KFail (State × Nat) :=
  let x := s.kite c k
  let r := redOf g f x ctx
  let dp := f.dp.toNat
  let sh := x.linked r.b
  let results := r.segs.length - r.oout.toNat
  match redCheck x sh dp r.n results (capOf x.mvlb r.ty) with
  | some t => .error (shapeFail s t)
  | none =>
    let (y, fl) := x.writeVec (opdValue f.a) r.ty results (if 2 ≤ dp then some (opdValue f.c) else none) fun j =>
      let (lo, hi) := r.segs.getD j (0, 0)
      some (r.value (r.fold x ctx j lo hi)).out
    let (kc, fk) := r.carryOut x ctx
    let y := { y with k := y.k.set dp kc }
    let y := match f.c with
      | .h i => { y with h := y.h.set i.toNat (((sh.getD {}).upper dp).mapInner (min results)) }
      | _ => y
    .ok (s.modKite c k fun _ => y, fl ||| fk)

/-- The segment that holds element i, and its first element. -/
def segmentOf (segs : List (Nat × Nat)) (i : Nat) : Option (Nat × Nat) :=
  (segs.zipIdx.find? fun e => decide (e.1.1 ≤ i) && decide (i < e.1.2)).map fun e => (e.2, e.1.1)

/-- nscan, R187. -/
def nscanMem (g : RedFn) (f : Fields) (s : State) (c k : Nat) (ctx : VCtx) : Except KFail (State × Nat) :=
  let x := s.kite c k
  let r := redOf g f x ctx
  let dp := f.dp.toNat
  let sh := x.linked r.b
  match redCheck x sh dp r.n 0 0 with
  | some t => .error (shapeFail s t)
  | none =>
    let excl := bit f.xf.toNat 0
    let (y, fl) := x.writeVec (opdValue f.a) r.ty r.n (x.vget r.b).link fun i =>
      if !(ctx.on i) then none
      else (segmentOf r.segs i).map fun e => (r.value (r.fold x ctx e.1 e.2 (if excl then i else i + 1))).out
    let (kc, fk) := r.carryOut x ctx
    .ok (s.modKite c k fun _ => { y with k := y.k.set dp kc }, fl ||| fk)

/-! ## Distribute, pack, lengths, nest, flatten -/

/-- ndist, R189. DESIGN CHOICE (log 17): reason 1 looks at every level of h[C], also those above DP, and reports the count
of a level before nDP > cap(TY). -/
def ndistMem (f : Fields) (s : State) (c k : Nat) (ctx : VCtx) : Except KFail (State × Nat) :=
  let x := s.kite c k
  let ty := f.ty.toNat
  let dp := f.dp.toNat
  let n := ctx.count ty
  let h := x.h.get (opdValue f.c)
  let segs := h.segments dp n
  match firstOvf 0
      [(dp != 0 && decide (h.depth < dp), 2, dp),
       (if dp = 0 then (false, 1, 0) else overCond x.levelCap h.lv),
       (decide (capOf x.mvlb ty < segs.length), 1, segs.length), (dp != 0 && h.extent != n, 3, h.extent)] with
  | some t => .error (shapeFail s t)
  | none =>
    let (y, fl) := x.writeVec (opdValue f.a) ty n (some (opdValue f.c)) fun i =>
      if !(ctx.on i) then none
      else (segmentOf segs i).map fun e =>
        let v := x.velem ty (opdValue f.b) e.1
        { v := v.v, ok := v.ok }
    .ok (s.modKite c k fun _ => y, fl)

/-- npack, R190. -/
def npackMem (f : Fields) (s : State) (c k : Nat) (ctx : VCtx) : Except KFail (State × Nat) :=
  let x := s.kite c k
  let ty := f.ty.toNat
  let n := ctx.count ty
  let b := opdValue f.b
  let sh := x.linked b
  let h := sh.getD {}
  match firstOvf 0 [overCond x.levelCap h.lv, (sh.isSome && h.extent != n, 3, h.extent)] with
  | some t => .error (shapeFail s t)
  | none =>
    let kept := (List.range n).filter ctx.on
    let (y, fl) := x.writeVec (opdValue f.a) ty n (sh.map fun _ => opdValue f.c) fun i =>
      match kept[i]? with
      | some j =>
        let v := x.velem ty b j
        some { v := v.v, ok := v.ok }
      | none => some { v := 0 }
    let packed := h.mapInner fun u => (kept.filter fun j => decide (j < u)).length
    .ok (s.modKite c k fun _ => { y with h := y.h.set (opdValue f.c) packed }, fl)

/-- nlen, R191. -/
def nlenMem (f : Fields) (s : State) (c k : Nat) (ctx : VCtx) : Except KFail (State × Nat) :=
  let x := s.kite c k
  let ty := f.ty.toNat
  let dp := f.dp.toNat
  let h := x.h.get (opdValue f.b)
  let n := h.count dp
  match firstOvf 0
      [(decide (h.depth < dp), 2, dp), overCond x.levelCap (h.lv.take dp), (decide (capOf x.mvlb ty < n), 1, n)] with
  | some t => .error (shapeFail s t)
  | none =>
    let o := h.level dp
    let link := match f.c with | .h i => some i.toNat | _ => none
    let (y, fl) := x.writeVec (opdValue f.a) ty n link fun j =>
      if ctx.on j then some { v := (o.getD (j + 1) 0 - o.getD j 0) % 2 ^ widthOf ty } else none
    let y := match f.c with | .h i => { y with h := y.h.set i.toNat (h.upper dp) } | _ => y
    .ok (s.modKite c k fun _ => y, fl)

/-- The running sums of some lengths, from 0. -/
def runningSums : Nat → List Nat → List Nat
  | q, [] => [q]
  | q, l :: ls => q :: runningSums (q + l) ls

/-- nnest, R192. -/
def nnestMem (f : Fields) (s : State) (c k : Nat) (ctx : VCtx) : Except KFail (State × Nat) :=
  let x := s.kite c k
  let ty := f.ty.toNat
  let n := ctx.count ty
  let h := match f.c with | .h i => x.h.get i.toNat | _ => {}
  let q := runningSums 0 ((List.range n).map fun i => if ctx.on i then (x.velem ty (opdValue f.b) i).v else 0)
  let total := q.getLastD 0
  match firstOvf 0
      [(h.depth == 3, 2, 4), (decide (x.levelCap < n), 1, n), overCond x.levelCap h.lv,
       (decide (65535 < total), 3, total), (h.depth != 0 && h.extent != n, 3, h.extent)] with
  | some t => .error (shapeFail s t)
  | none =>
    let new : Shape :=
      if h.depth = 0 then { lv := [q] }
      else
        { lv := h.lv ++ [q], openIn := setBit h.openIn (h.depth + 1) false
          openOut := setBit h.openOut (h.depth + 1) false }
    .ok (s.modKite c k fun y => { y with h := y.h.set (opdValue f.a) new }, 0)

/-- A shape without level l ≥ 1 (R193). -/
def Shape.without (h : Shape) (l : Nat) : Shape :=
  let joined := (h.level (l - 1)).map fun u => (h.level l).getD u 0
  let bitsOf := fun (m : Nat) => (m % 2 ^ l + (m >>> (l + 1)) * 2 ^ l) % 16
  if h.depth ≤ 1 then {}
  else
    { lv := (if 2 ≤ l then h.lv.take (l - 2) ++ [joined] else []) ++ h.lv.drop l
      openIn := bitsOf h.openIn, openOut := bitsOf h.openOut }

/-- nflat, R193. -/
def nflatMem (f : Fields) (s : State) (c k : Nat) (ctx : VCtx) : Except KFail (State × Nat) :=
  let x := s.kite c k
  let ty := f.ty.toNat
  let dp := f.dp.toNat
  let n := ctx.count ty
  let b := opdValue f.b
  let sh := x.linked b
  let h := sh.getD {}
  match if dp = 0 then none else redCheck x sh dp n 0 0 with
  | some t => .error (shapeFail s t)
  | none =>
    let new := h.without dp
    let link := if dp = 0 ∨ new.depth ≠ 0 then some (opdValue f.c) else none
    let (y, fl) := x.writeVec (opdValue f.a) ty n link (guarded ctx fun i =>
      let e := x.velem ty b i
      { v := e.v, ok := e.ok })
    let y := if dp = 0 then y else { y with h := y.h.set (opdValue f.c) new }
    .ok (s.modKite c k fun _ => y, fl)

/-! ## Sort -/

/-- The sort key of an element (R194): by signedness, or by totalOrder. -/
def sortKey (ty v : Nat) : Int :=
  if isIType ty then intVal ty v
  else
    let mag : Int := ((v % 2 ^ (widthOf ty - 1) : Nat) : Int)
    if signOf ty v then -1 - mag else mag

/-- An element put into a sorted list, behind those that it does not precede. -/
def insertBy (before : Nat → Nat → Bool) (e : Nat) : List Nat → List Nat
  | [] => [e]
  | x :: l => if before e x then e :: x :: l else x :: insertBy before e l

/-- The indices of a list in stable order. -/
def sortBy (before : Nat → Nat → Bool) (l : List Nat) : List Nat := l.foldl (fun r e => insertBy before e r) []

/-- Where each chosen element of the segments comes from: pairs of a position and its source (R194). -/
def sortMoves (before : Nat → Nat → Bool) (on : Nat → Bool) (n : Nat) (segs : List (Nat × Nat)) : List (Nat × Nat) :=
  segs.flatMap fun e =>
    let places := (List.range (min e.2 n)).filter fun i => decide (e.1 ≤ i) && on i
    places.zip (sortBy before places)

/-- nsort, R194. DESIGN CHOICE (log 17): where the guard bit is 0 v[A] keeps its own old element, as under R160; that such
elements keep their positions and values may also mean that v[B]'s element is copied. -/
def nsortMem (f : Fields) (s : State) (c k : Nat) (ctx : VCtx) : Except KFail (State × Nat) :=
  let x := s.kite c k
  let ty := f.ty.toNat
  let dp := f.dp.toNat
  let n := ctx.count ty
  let b := opdValue f.b
  let sh := x.linked b
  match if dp = 0 then none else redCheck x sh dp n 0 0 with
  | some t => .error (shapeFail s t)
  | none =>
    let key := fun i => sortKey ty (x.velem ty b i).v
    let before := fun i j => if bit f.xf.toNat 0 then decide (key j < key i) else decide (key i < key j)
    let moves := sortMoves before ctx.on n ((sh.getD {}).segments dp n)
    let from_ := fun (r i : Nat) => (moves.find? fun e => e.1 == i).map fun e =>
      let v := x.velem ty r e.2
      ({ v := v.v, ok := v.ok } : Out)
    let (y, _) := x.writeVec (opdValue f.a) ty n (x.vget b).link (from_ b)
    let y := match f.c with
      | .v r => (y.writeVec r.toNat ty n (x.vget r.toNat).link (from_ r.toNat)).1
      | _ => y
    .ok (s.modKite c k fun _ => y, 0)

/-! ## Shape loads and stores, carries -/

/-- The machine bytes of n pieces of 2 bytes of an image from an address on (R195): a translation fault at any of them
is that of the image. -/
def imageUnits (s : State) (c k : Nat) : Nat → Nat → Except KFail (List (VAddr × List Xlat) × State)
  | 0, _ => .ok ([], s)
  | n + 1, a =>
    match kiteXlat s c k a .load 0 with
    | .error e => .error e
    | .ok (p, s) =>
      match imageUnits s c k n (a + 2) with
      | .error e => .error e
      | .ok (r, s) => .ok (({ a := a, n := 2 }, [p, { p with a := p.a + 1 }]) :: r, s)

/-- The bytes of an image that were read in pieces of 2. -/
def imageBytes (vs : List Nat) : List Byte := vs.flatMap fun v => toBytes 2 v

/-- The checks of an image address before its bytes (R195, R287). -/
def imageCheck (s : State) (c k a : Nat) : Option KFail :=
  let x := s.kite c k
  if kiteOrphan s c x then some (.trap s (orphanTrap x a) none)
  else if a % 8 ≠ 0 then some (.trap s (trapAt 0x03 a 0) none)
  else none

/-- The shape that nshld loads from an image: the whole, or the window of n elements from s[C] (R195, R196). -/
def loadedShape (cap va hd : Nat) (rest : List Byte) (win : Option (Nat × Nat)) : Except Trap Shape :=
  match parseImage win.isSome hd rest with
  | .error p => .error (shapeTrap va 4 p)
  | .ok h =>
    match win with
    | none => (match firstOvf va [overCond cap h.lv] with | some t => .error t | none => .ok h)
    | some (from_, n) =>
      let e := from_ + n
      let w := h.window from_ e
      match firstOvf va
          [overCond cap w.lv, (decide (h.extent < e), 3, e)] with
      | some t => .error t
      | none => .ok w

/-- The window that an nshld asks for: its first element and how many (R196). -/
def nshldWindow (f : Fields) (ctx : VCtx) : Option (Nat × Nat) :=
  match f.c with | .none => none | _ => some (ctx.sc.toNat, ctx.count f.ty.toNat)

/-- The shape that an nshld makes of what it read of the image at an address, or the trap of its checks. -/
def Kite.imageShape (x : Kite) (f : Fields) (ctx : VCtx) (a : Nat) (vs : List Nat) : Except Trap Shape :=
  loadedShape x.levelCap a (ofBytes (imageBytes (vs.take 4))) (imageBytes (vs.drop 4)) (nshldWindow f ctx)

/-- The bytes of an image read as the strip sees them (R198, R300), once its header has said how many they are; or the
fault or the wait. -/
def readImageAt (s : State) (c k rd a : Nat) : Except KFail (List (VAddr × List Xlat) × List Nat × State) :=
  match imageCheck s c k a with
  | some e => .error e
  | none =>
    match imageUnits s c k 4 a with
    | .error e => .error e
    | .ok (hu, s) =>
      match vecFixing s c k 0 with
      | some w => .error (.wait s w)
      | none =>
        let (hv, s) := vecReadAll s c k 0 rd hu
        let hv := hv.map (·.2)
        match imageUnits s c k (imageRest (ofBytes (imageBytes hv)) / 2) (a + 8) with
        | .error e => .error e
        | .ok (ru, s) =>
          let (rv, s) := vecReadFrom s c k 0 rd (hu.map fun u => lineOf (u.2.headD {}).a) ru
          .ok (hu ++ ru, hv ++ rv.map (·.2), s)

/-- nshld, R195, R196. -/
def nshldMem (f : Fields) (s : State) (c k : Nat) (ctx : VCtx) : Except KFail (State × Nat) :=
  let a := (s.kite c k).memAddr f.b
  match readImageAt s c k f.rd.toNat a with
  | .error e => .error e
  | .ok (_, vs, s) =>
    match (s.kite c k).imageShape f ctx a vs with
    | .error t => .error (shapeFail s t)
    | .ok h => .ok (s.modKite c k fun y => { y with h := y.h.set (opdValue f.a) h }, 0)

/-- nshld whose data comes later: its checks have passed on what it read as it issued. -/
def nshldPlan (f : Fields) (s : State) (c k : Nat) (ctx : VCtx) : Except KFail (HeldLoad × State) :=
  let a := (s.kite c k).memAddr f.b
  match readImageAt s c k f.rd.toNat a with
  | .error e => .error e
  | .ok (us, vs, s) =>
    match (s.kite c k).imageShape f ctx a vs with
    | .error t => .error (shapeFail s t)
    | .ok _ => .ok ({ holdElems 0 f.rd.toNat us (fun _ => true) with was := vs }, s)

/-- The data of an nshld under way arrives (R198, R300): the image as it reads then, where that is one of the same length
that passes the checks, which have been made; the image that passed them otherwise. DEDUCED (log 11). -/
def Kite.takeImage (x : Kite) (e : VqEntry) (h : HeldLoad) (vs : List Nat) : Kite :=
  let same := imageRest (ofBytes (imageBytes (vs.take 4))) == imageRest (ofBytes (imageBytes (h.was.take 4)))
  let shape := fun (vs : List Nat) => x.imageShape e.f e.ctx 0 vs
  match if same then shape vs else shape h.was, shape h.was with
  | .ok h, _ | .error _, .ok h => { x with h := x.h.set (opdValue e.f.a) h }
  | _, _ => x

/-- The machine bytes of an image that nshst writes, two at a time. -/
def imageXlat (s : State) (c k : Nat) : Nat → List Byte → Except KFail (List VByte × State)
  | a, b0 :: b1 :: bs =>
    match kiteXlat s c k a .store 0 with
    | .error e => .error e
    | .ok (p, s) =>
      match imageXlat s c k (a + 2) bs with
      | .error e => .error e
      | .ok (r, s) =>
        .ok ({ x := p, value := b0.toNat, va := a } :: { x := { p with a := p.a + 1 }, value := b1.toNat, va := a + 1 } :: r, s)
  | _, _ => .ok ([], s)

/-- nshst, R178, R197, R198: a level that a smaller grant no longer holds raises (R179). -/
def nshstMem (f : Fields) (s : State) (c k : Nat) (_ : VCtx) : Except KFail (State × Nat) :=
  let x := s.kite c k
  let a := x.memAddr f.a
  let h := x.h.get (opdValue f.b)
  match imageCheck s c k a with
  | some e => .error e
  | none =>
    match firstOvf 0 [overCond x.levelCap h.lv] with
    | some t => .error (shapeFail s t)
    | none =>
      match imageXlat s c k a h.image with
      | .error e => .error e
      | .ok (ws, s) =>
        match vecReserve s c k 0 ws with
        | .error e => .error e
        | .ok s => .ok (vecStore s c k 0 ws, 0)

/-- The status word of a carry (Table 9-3). -/
def Carry.status (k : Carry) : Nat := 2 ^ 63 * k.opn.toNat + 2 ^ 62 * k.bad.toNat + k.count

/-- nkrd, R199. -/
def nkrdBody : VBody := fun x f _ =>
  let k := x.k.get (opdValue f.b)
  (x.sset (opdValue f.a) (BitVec.ofNat 64 (if opdValue f.c = 0 then k.value else k.status)), 0)

/-- nkwr, R199: reserved bits are ignored. -/
def nkwrBody : VBody := fun x f ctx =>
  let w := ctx.sb.toNat
  let k := x.k.get (opdValue f.a)
  let k := if opdValue f.c = 0 then { k with value := w }
           else { k with opn := bit w 63, bad := bit w 62, count := w % 2 ^ 32 }
  ({ x with k := x.k.set (opdValue f.a) k }, 0)

/-! ## The instructions -/

/-- nred.add, R186. -/
def execNredAdd (f : Fields) (s : State) := runVecMem (.nredAdd f) 0x80 f (nredMem .add f) s
/-- nred.min, R186. -/
def execNredMin (f : Fields) (s : State) := runVecMem (.nredMin f) 0x80 f (nredMem .min f) s
/-- nred.max, R186. -/
def execNredMax (f : Fields) (s : State) := runVecMem (.nredMax f) 0x80 f (nredMem .max f) s
/-- nred.and, R186. -/
def execNredAnd (f : Fields) (s : State) := runVecMem (.nredAnd f) 0x80 f (nredMem .and f) s
/-- nred.or, R186. -/
def execNredOr (f : Fields) (s : State) := runVecMem (.nredOr f) 0x80 f (nredMem .or f) s
/-- nred.xor, R186. -/
def execNredXor (f : Fields) (s : State) := runVecMem (.nredXor f) 0x80 f (nredMem .xor f) s
/-- nscan.add, R187. -/
def execNscanAdd (f : Fields) (s : State) := runVecMem (.nscanAdd f) 0x81 f (nscanMem .add f) s
/-- nscan.min, R187. -/
def execNscanMin (f : Fields) (s : State) := runVecMem (.nscanMin f) 0x81 f (nscanMem .min f) s
/-- nscan.max, R187. -/
def execNscanMax (f : Fields) (s : State) := runVecMem (.nscanMax f) 0x81 f (nscanMem .max f) s
/-- nscan.and, R187. -/
def execNscanAnd (f : Fields) (s : State) := runVecMem (.nscanAnd f) 0x81 f (nscanMem .and f) s
/-- nscan.or, R187. -/
def execNscanOr (f : Fields) (s : State) := runVecMem (.nscanOr f) 0x81 f (nscanMem .or f) s
/-- nscan.xor, R187. -/
def execNscanXor (f : Fields) (s : State) := runVecMem (.nscanXor f) 0x81 f (nscanMem .xor f) s
/-- npack, R190. -/
def execNpack (f : Fields) (s : State) := runVecMem (.npack f) 0x82 f (npackMem f) s
/-- ndist, R189. -/
def execNdist (f : Fields) (s : State) := runVecMem (.ndist f) 0x83 f (ndistMem f) s
/-- nlen, R191. -/
def execNlen (f : Fields) (s : State) := runVecMem (.nlen f) 0x84 f (nlenMem f) s
/-- nnest, R192. -/
def execNnest (f : Fields) (s : State) := runVecMem (.nnest f) 0x85 f (nnestMem f) s
/-- nflat, R193. -/
def execNflat (f : Fields) (s : State) := runVecMem (.nflat f) 0x86 f (nflatMem f) s
/-- nsort, R194. -/
def execNsort (f : Fields) (s : State) := runVecMem (.nsort f) 0x87 f (nsortMem f) s
/-- nshld, R195, R196. -/
def execNshld (f : Fields) (s : State) := runLoad (.nshld f) 0x88 f (nshldPlan f) (nshldMem f) s
/-- nshst, R197. -/
def execNshst (f : Fields) (s : State) := runVecMem (.nshst f) 0x89 f (nshstMem f) s
/-- nkrd, R199. -/
def execNkrd (f : Fields) (s : State) := runVec (.nkrd f) 0x8A f nkrdBody s
/-- nkwr, R199. -/
def execNkwr (f : Fields) (s : State) := runVec (.nkwr f) 0x8B f nkwrBody s

end Sys2Proof.Machine
end

