-- ==== Sys2Proof/Machine/Engines.lean ====
section
/-!
DEFINITION. The engine instructions of a kite (R266 to R269), expert routing (R271 to R273), and the steps of the
engines (R246, R247, R252, R257, R261 to R265, R312, R326).
Open points: logs 22 (DESIGN CHOICE), 23 (DESIGN CHOICE), 25 (DEDUCED), 26 (DEDUCED, DESIGN CHOICE).
-/
namespace Sys2Proof.Machine

/-! ## Instructions of a kite -/

/-- epush, R267. -/
def execEpush (f : Fields) (s : State) : Host.Outcome State Fault Refusal :=
  .next (issue (.epush f) s fun s c k x =>
    if kiteOrphan s c x then .raise s (orphanTrap x 0) .here none
    else
      let d := (List.range 8).map fun i => x.sget (opdValue f.c + i)
      match pushCommand s c (opdValue f.b) k x.tintv d (fun s => flushPend s c k) with
      | .refused r => .raise r.s r.t .here r.req
      | .wait s w => .wait s w
      | .done s p => .done ((closeStrip s c k).modKite c k fun y => y.sset (opdValue f.a) p))

/-- epop, R268, R311. -/
def execEpop (f : Fields) (s : State) : Host.Outcome State Fault Refusal :=
  .next (issue (.epop f) s fun s c k _ =>
    let port := opdValue f.b
    match ((s.crew c).ports.get port).res with
    | [] => .wait s (.epop port)
    | r :: _ =>
      .done ((popResult s c port r).modKite c k fun y =>
        (r.w.zipIdx).foldl (fun y e => y.sset (opdValue f.a + e.2) e.1) y.readAnew))

/-- estat, R268. -/
def execEstat (f : Fields) (s : State) : Host.Outcome State Fault Refusal :=
  .next (issue (.estat f) s fun s c k _ =>
    .done (s.modKite c k fun y => y.sset (opdValue f.a) (portStatus s c (opdValue f.b))))

/-- rcfence.all, R269. -/
def execRcfenceAll (f : Fields) (s : State) : Host.Outcome State Fault Refusal :=
  .next (issue (.rcfenceAll f) s fun s c _ _ => .done (s.modCore c fun p => { p with rcache := [] }))

/-- rcfence.addr, R269. -/
def execRcfenceAddr (f : Fields) (s : State) : Host.Outcome State Fault Refusal :=
  .next (issue (.rcfenceAddr f) s fun s c _ x =>
    let a := x.memAddr f.a
    if a % 64 ≠ 0 then .raise s (trapAt 0x03 a 0) .here none
    else .done (s.modCore c fun p => { p with rcache := p.rcache.filter fun e => e.addr != a }))

/-! ## Routing -/

/-- The sum of a score and a bias, exactly; none for a NaN (R272). -/
def routeKey (a b : FNum) : Option FNum :=
  match a, b with
  | .num x, .num y => some (.num (x.add 0 y))
  | .inf n, .inf m => if n = m then some (.inf n) else none
  | .inf n, .num _ => some (.inf n)
  | .num _, .inf m => some (.inf m)
  | _, _ => none

/-- Whether a key is larger than another. -/
def keyAbove : FNum → FNum → Bool
  | .num x, .num y => y.lt x
  | .inf n, .inf m => !n && m
  | .inf n, _ => !n
  | _, .inf m => m
  | _, _ => false

/-- An expert placed among experts ranked by key, behind those whose keys are not smaller. -/
def rankInsert (e : Nat × FNum) : List (Nat × FNum) → List (Nat × FNum)
  | [] => [e]
  | x :: xs => if keyAbove e.2 x.2 then e :: x :: xs else x :: rankInsert e xs

/-- The experts of a row in order of rank (R272). -/
def rankRow (x : Kite) (f : Fields) (ctx : VCtx) (lo hi : Nat) : List Nat :=
  let ty := f.ty.toNat
  let cap := capOf x.mvlb ty
  let num := fun (v : Nat) => unpack ctx.ftz ty v
  let keyed := (List.range (hi - lo)).filterMap fun e =>
    let v := x.velem ty (opdValue f.b) (lo + e)
    let bias := if e < cap then num ((x.vget (opdValue f.c)).elem ty e) else .num {}
    if ctx.on (lo + e) && v.ok then (routeKey (num v.v) bias).map fun k => (e, k) else none
  (keyed.foldl (fun l e => rankInsert e l) []).map (·.1)

/-- The slots of a row's first n experts (R272): what v[A] and v[A + 1] receive, and the counters after. -/
def rowSlots (ctr : Tab Nat) (par : Bool) (n : Nat) (ranked : List Nat) : List (Nat × Nat) × Tab Nat :=
  (List.range n).foldl (fun (r : List (Nat × Nat) × Tab Nat) t =>
    match ranked[t]? with
    | none => (r.1 ++ [(2 ^ 32 - 1, 2 ^ 32 - 1)], r.2)
    | some e =>
      let k := r.2.get e
      let full := k == 65535
      (r.1 ++ [(e, k + 2 ^ 30 * full.toNat + 2 ^ 31 * par.toNat)], if full then r.2 else r.2.set e (k + 1)))
    ([], ctr)

/-- The rows of an spsrch, or the trap of its checks (R272). -/
def spsrchRows (f : Fields) (x : Kite) (ctx : VCtx) : Except Trap (List (Nat × Nat)) :=
  let n := f.xf.toNat % 8 + 1
  let sh := x.linked (opdValue f.b)
  let h := sh.getD {}
  let rows := h.ranges 1
  let long := (rows.find? fun r => decide (r.1 + 64 < r.2)).map fun r => r.2 - r.1
  match firstOvf 0
      [(sh.isNone, 2, f.dp.toNat), (h.depth != 1, 2, h.depth), overCond x.levelCap h.lv, (long.isSome, 1, long.getD 0),
       (decide (capOf x.mvlb 6 < rows.length * n), 1, rows.length * n),
       (h.openIn != 0 || h.openOut != 0 || h.extent != ctx.count f.ty.toNat, 3, h.extent)] with
  | some t => .error t
  | none => .ok rows

/-- What one row of an spsrch gives v[A] and v[A + 1], and the counters and the crew after it (R271, R272). -/
def spsrchRow (f : Fields) (s : State) (c k : Nat) (ctx : VCtx) (row : Nat × Nat) : List (Nat × Nat) × State :=
  let w := s.crew c
  let (l, ctr) := rowSlots w.ctr w.par (f.xf.toNat % 8 + 1) (rankRow (s.kite c k) f ctx row.1 row.2)
  (l, s.modCrew c fun w => { w with ctr := ctr })

/-- The destinations of an spsrch written with what its rows gave (R272): elements of N32, under the tag of its own TY
(R115). -/
def Kite.putSlots (x : Kite) (f : Fields) (slots : List (Nat × Nat)) : Kite :=
  let put := fun (x : Kite) (r : Nat) (g : Nat × Nat → Nat) =>
    let y := (x.writeVec r 6 slots.length none fun i => some { v := g (slots.getD i (0, 0)) }).1
    y.vset r { y.vget r with tag := f.ty.toNat }
  put (put x (opdValue f.a) (·.1)) (opdValue f.a + 1) (·.2)

/-- spsrch, R272. DESIGN CHOICE (log 26): no score, bias or key raises a flag, a signalling NaN or opposite infinities
among them, since R272 says nothing of flags. -/
def spsrchMem (f : Fields) (s : State) (c k : Nat) (ctx : VCtx) : Except KFail (State × Nat) :=
  match spsrchRows f (s.kite c k) ctx with
  | .error t => .error (shapeFail s t)
  | .ok rows =>
    let (slots, s) := rows.foldl (fun (r : List (Nat × Nat) × State) row =>
      let (l, s) := spsrchRow f r.2 c k ctx row
      (r.1 ++ l, s)) ([], s)
    .ok (s.modKite c k fun y => y.putSlots f slots, 0)

/-- An spsrch that the gather engine has taken and not performed whole (R271): entry i of the queue, whose next row is
applied; after the last its destinations are written. -/
def spsrchNext (s : State) (c k i : Nat) (e : VqEntry) : State :=
  match spsrchRows e.f (s.kite c k) e.ctx with
  | .error _ => s
  | .ok rows =>
    match rows[e.slots.length / (e.f.xf.toNat % 8 + 1)]? with
    | some row =>
      let (l, s) := spsrchRow e.f s c k e.ctx row
      s.modKite c k fun y => { y with vq := modifyAt (fun e => { e with slots := e.slots ++ l }) i y.vq }
    | none =>
      s.modKite c k fun y =>
        let y := (y.putSlots e.f e.slots).finishLst 0x9B e.f
        { y with vq := modifyAt (fun e => { e with dispatched := true, slots := [] }) i y.vq, dispWait := 0 }

/-- spsrch, R271, R272; held, it takes its place in the vector queue, and its rows are applied one by one. -/
def execSpsrch (f : Fields) (s : State) : Host.Outcome State Fault Refusal :=
  .next (issue (.spsrch f) s fun s c k x =>
    let ctx := x.capture f
    if s.hold then
      (if 8 ≤ x.vq.length || x.undispatched || movesQueued s c k ||
          !((vecReads 0x9B f).all fun r => (x.binds.find r).isNone) then .notReady
       else
        match spsrchRows f x ctx with
        | .error t => (shapeFail s t).res
        | .ok _ => .done (s.modKite c k fun y => y.enqueue { op := 0x9B, f := f, ctx := ctx, dispatched := false }))
    else vecIssue s c k x 0x9B f fun s ctx => spsrchMem f s c k ctx)

/-- The counters as N16 elements. -/
def counterBits (ctr : Tab Nat) : Nat := (List.range 64).foldl (fun d i => setBits d (16 * i) 16 (ctr.get i)) 0

/-- rcsnap, R273. -/
def rcsnapMem (f : Fields) (s : State) (c k : Nat) (_ : VCtx) : Except KFail (State × Nat) :=
  let w := s.crew c
  let s := s.modKite c k fun y =>
    let r := y.vget (opdValue f.a)
    y.vset (opdValue f.a)
      { r with data := setBits r.data 0 1024 (counterBits w.ctr), tag := 0, link := none, inval := setBits r.inval 0 2 0 }
  .ok (s.modCrew c fun w => { w with ctr := [], par := !w.par }, 0)

/-- rcsnap, R273. -/
def execRcsnap (f : Fields) (s : State) : Host.Outcome State Fault Refusal :=
  runVecMem (.rcsnap f) 0x9C f (rcsnapMem f) s

/-! ## The units of a command -/

/-- A byte of a side of a command as it stands, 0 where it cannot be read; nothing changes. -/
def peekByte (s : State) (c port : Nat) (m : Cmd) (sd : Side) (va : Nat) : Byte :=
  match engLoc s c port m sd va false with
  | .ok (l, s') => engGet s' c m l
  | .error _ => 0

/-- The old bytes that an overlapping LIN may keep, by position in the range (R263): the source bytes that lie in
the destination range, where they can be read. -/
def linOverlap (d : List Word) : Bool :=
  srcSide d == dstSide d && decide (dw d 1 < dw d 2 + dw d 5) && decide (dw d 2 < dw d 1 + dw d 5)

/-- The start of a command: what it reads once, and its alignment (R263, R264, R265). Checked before its first
unit. DESIGN CHOICE (log 23): a misaligned list or index array ends the command with MISALIGNED also where its view is a
bleached tint, since neither R263 nor R287 orders the two. -/
def startCmd (s : State) (c port : Nat) (m : Cmd) : Except UFail (State × Cmd) :=
  let fail := fun (stat aux : Nat) => (.error { s := s, stat := stat, aux := aux } : Except UFail (State × Cmd))
  match cmdOpc m.d with
  | 0x01 =>
    if linOverlap m.d then
      let snap := (List.range (dw m.d 5)).map fun i =>
        peekByte s c port m (srcSide m.d) ((dw m.d 1 + i) % 2 ^ 64)
      .ok ({ s with draws := s.draws + dw m.d 5 }, { m with snap := snap, draw := s.draws })
    else .ok (s, m)
  | 0x11 | 0x12 => if dw m.d 5 % 4 ≠ 0 then fail 4 (dw m.d 5) else .ok (s, m)
  | 0x21 =>
    if dw m.d 1 % 8 ≠ 0 then fail 4 (dw m.d 1) else if dw m.d 2 % 8 ≠ 0 then fail 4 (dw m.d 2) else .ok (s, m)
  | 0x04 =>
    if cmdOrphan s c m then fail 8 (if (srcSide m.d).space = 0 then dw m.d 1 else 0)
    else
      match readSide s c port m (srcSide m.d) (dw m.d 1) 64 with
      | .error e => .error e
      | .ok (b, s) =>
        let w := blockWord b
        let init := sampInit m.d
        let nan := [0, 1, 2, 10, 11].any fun i => isNaN 13 (w i)
        if b >>> 384 ≠ 0 ∨ (init = false ∧ nan = true) then .error { s := s, stat := 6, aux := 0 }
        else
          let keep : Samp := { penaddr := bits b 191 128, dtok := w 6, q := w 7, seed := bits b 319 256 }
          let sm : Samp :=
            if init then { keep with m := f32NegInf, key := f32NegInf, tok := 2 ^ 32 - 1, zt := f32NegInf, zd := f32NegInf }
            else { keep with m := w 0, s := w 1, key := w 2, tok := w 3, zt := w 10, zd := w 11 }
          .ok (s, { m with samp := sm })
  | _ => .ok (s, m)

/-- Byte i of an overlapping LIN (R263): its source byte's old value, or the value that the command copied into
that byte, by free choices. `step` is the distance from the source range to the destination range. -/
def linByte (m : Cmd) (free : Nat → Nat) (step : Int) : Nat → Nat → Byte
  | 0, i => m.snap.getD i 0
  | fuel + 1, i =>
    let j : Int := (i : Int) - step
    if 0 ≤ j ∧ j < m.snap.length ∧ step ≠ 0 ∧ free (m.draw + i) % 2 = 1 then linByte m free step fuel j.toNat
    else m.snap.getD i 0

/-- Unit u of LIN (R263). -/
def linItems (m : Cmd) (u : Nat) : List CopyItem :=
  let lo := 4096 * u
  let n := min 4096 (dw m.d 5 - lo)
  let val := if linOverlap m.d then
      some ((List.range n).map fun i =>
        linByte m Config.freeNat ((dw m.d 2 : Int) - dw m.d 1) m.snap.length (lo + i))
    else none
  [{ src := some (srcSide m.d, dw m.d 1 + lo), val := val, dst := (dstSide m.d, dw m.d 2 + lo), n := n }]

/-- The FILL bytes of n bytes (R257, R263). -/
def fillBytes (fill n : Nat) : List Byte := (List.range n).map fun j => BitVec.ofNat 8 (fill >>> (8 * (j % 4)))

/-- Position p of a TENS command's box (R257, R258): nothing for a pad with SKIP. -/
def tensItem (m : Cmd) (p : Nat) : List CopyItem :=
  let n := 2 ^ tEsz m.dst
  let at_ := boxAt (tensBox m.d m.dst) p
  let x := (at_.zipIdx).map fun e => e.1 + tOrg m.d e.2
  let dst := (tSide m.dst, tAddr m.dst at_)
  if (x.zipIdx).all fun e => decide (0 ≤ e.1) && decide (e.1 < tExt m.src e.2) then
    [{ src := some (tSide m.src, tAddr m.src x), dst := dst, n := n }]
  else if cmdPad m.d then []
  else [{ val := some (fillBytes (dw m.d 7 >>> 32) n), dst := dst, n := n }]

/-- Unit u of TENS. -/
def tensItems (m : Cmd) (u : Nat) : List CopyItem :=
  let per := 4096 / 2 ^ tEsz m.dst
  let n := min per (tensCount m.d m.dst - per * u)
  (List.range n).flatMap fun i => tensItem m (per * u + i)

/-- Unit u of ROWS: two rows. -/
def rowsItems (m : Cmd) (u : Nat) : List CopyItem :=
  let lo := 4096 * u
  let n := min 4096 (2048 * (dw m.d 5 % 2 ^ 13) - lo)
  [{ src := some ({}, dw m.d 1 + lo), dst := ({}, dw m.d 2 + lo), n := n }]

/-- Row k of GATH or SCAT with its index (R263). -/
def rowItem (m : Cmd) (scat : Bool) (k x : Nat) : List CopyItem :=
  let n := dw m.d 6 >>> 32
  let inside := decide (x < dw m.d 7 % 2 ^ 32)
  if scat then
    (if inside then [{ src := some (srcSide m.d, dw m.d 1 + k * n), dst := (dstSide m.d, dw m.d 2 + x * n), n := n }]
     else [])
  else if inside then [{ src := some (srcSide m.d, dw m.d 1 + x * n), dst := (dstSide m.d, dw m.d 2 + k * n), n := n }]
  else if cmdPad m.d then []
  else [{ val := some (fillBytes (dw m.d 7 >>> 32) n), dst := (dstSide m.d, dw m.d 2 + k * n), n := n }]

/-- The parts of a unit, or why it has none now. -/
inductive UItems where
  | hold
  | fail (f : UFail)
  | ok (s : State) (is : List CopyItem)

/-- A unit of some parts. -/
def runParts (c port : Nat) (m : Cmd) : UItems → URes
  | .hold => .hold
  | .fail f => .fail f
  | .ok s is => runItems s c port m is

/-- The indices of unit u of GATH or SCAT. -/
def readIndices (s : State) (c port : Nat) (m : Cmd) (lo : Nat) : Nat → Except UFail (List Nat × State)
  | 0 => .ok ([], s)
  | n + 1 =>
    match readSide s c port m (srcSide m.d) (dw m.d 5 + 4 * lo) 4 with
    | .error e => .error e
    | .ok (x, s) =>
      match readIndices s c port m (lo + 1) n with
      | .error e => .error e
      | .ok (xs, s) => .ok (x :: xs, s)

/-- The parts of unit u of GATH or SCAT. -/
def gatherItems (s : State) (c port : Nat) (m : Cmd) (scat : Bool) (u : Nat) : UItems :=
  let lo := 64 * u
  let n := min 64 (dw m.d 6 % 2 ^ 32 - lo)
  if cmdOrphan s c m then .fail { s := s, stat := 8, aux := if (srcSide m.d).space = 0 then dw m.d 5 + 4 * lo else 0 }
  else if cmdFixing s c m then .hold
  else
    match readIndices s c port m lo n with
    | .error e => .fail e
    | .ok (xs, s) => .ok s ((xs.zipIdx).flatMap fun e => rowItem m scat (lo + e.2) e.1)

/-- Unit u of GATH or SCAT. -/
def gatherUnit (s : State) (c port : Nat) (m : Cmd) (scat : Bool) (u : Nat) : URes :=
  runParts c port m (gatherItems s c port m scat u)

/-- The parts of page i of PAGE (R263). -/
def pageItems (s : State) (c port : Nat) (m : Cmd) (i : Nat) : UItems :=
  let sz := 2 ^ bits (dw m.d 5) 19 16
  if cmdOrphan s c m then .fail { s := s, stat := 8, aux := dw m.d 1 + 8 * i }
  else if cmdFixing s c m then .hold
  else
    match readSide s c port m {} (dw m.d 1 + 8 * i) 8 with
    | .error e => .fail e
    | .ok (a, s) =>
      match readSide s c port m {} (dw m.d 2 + 8 * i) 8 with
      | .error e => .fail e
      | .ok (b, s) =>
        if a % sz ≠ 0 ∨ b % sz ≠ 0 then .fail { s := s, stat := 6, aux := 0 }
        else .ok s [{ src := some ({}, a), dst := ({}, b), n := sz }]

/-- Page i of PAGE (R263). -/
def pageUnit (s : State) (c port : Nat) (m : Cmd) (i : Nat) : URes := runParts c port m (pageItems s c port m i)

/-! ## The sampler -/

/-- One logit taken by the sampler (R265): its bits, its token and its count. -/
def sampTake (d : List Word) (sm : Samp) (l t cnt free : Nat) : Samp :=
  let z := logitZ l cnt (dw d 7 % 2 ^ 32) (dw d 7 >>> 32) (dw d 6 >>> 32)
  let sm := if above32 z sm.m then { sm with s := nextSum sm.s sm.m z free, m := z } else { sm with s := addTerm sm.s sm.m z }
  let key := if sampGreedy d then z else gumbelKey z (drawOf sm.seed t)
  let sm := if above32 key sm.key then { sm with key := key, tok := t % 2 ^ 32, zt := z } else sm
  if t = sm.dtok then { sm with zd := z } else sm

/-- The end of a SAMP command (R265): the state, P, and whether the draft was accepted. -/
def sampEnd (d : List Word) (sm : Samp) (free : Nat) : Samp × Nat × Bool :=
  let p := tokenProb sm.zt sm.m sm.s free
  if sampVerify d then
    let pd := tokenProb sm.zd sm.m sm.s free
    if accepts sm.seed sm.dtok pd sm.q then ({ sm with tok := sm.dtok }, pd, true) else (sm, p, false)
  else (sm, p, false)

/-- The 64 bytes of a state block (Table 12-8). -/
def Samp.block (sm : Samp) : Nat :=
  sm.m + sm.s * 2 ^ 32 + sm.key * 2 ^ 64 + sm.tok * 2 ^ 96 + sm.penaddr * 2 ^ 128 + sm.dtok * 2 ^ 192 +
    sm.q * 2 ^ 224 + sm.seed * 2 ^ 256 + sm.zt * 2 ^ 320 + sm.zd * 2 ^ 352

/-- Whether a logit takes part (R265): its validity bit is set, and it is no NaN. -/
def taken (e : Nat × Bool) : Bool := e.2 && !(isNaN 13 e.1)

/-- The occurrence counts of some logits from token t on, of which only those that take part are read; or the failure
of their reading. -/
def readCounts (s : State) (c port : Nat) (m : Cmd) : Nat → List (Nat × Bool) → Except UFail (List Nat × State)
  | _, [] => .ok ([], s)
  | t, l :: ls =>
    let here : Except UFail (Nat × State) :=
      if m.samp.penaddr = 0 ∨ taken l = false then .ok (0, s) else readSide s c port m {} (m.samp.penaddr + 2 * t) 2
    match here with
    | .error e => .error e
    | .ok (x, s) =>
      match readCounts s c port m (t + 1) ls with
      | .error e => .error e
      | .ok (xs, s) => .ok (x :: xs, s)

/-- The logits of unit u of SAMP. -/
def unitLogits (m : Cmd) (u : Nat) : List (Nat × Bool) := (m.logits.drop (256 * u)).take 256

/-- The moved logits of unit u of SAMP (R265). -/
def sampMoves (m : Cmd) (u : Nat) : List CopyItem :=
  if sampMove m.d then
    ((unitLogits m u).zipIdx).map fun e =>
      { val := some (toBytes 4 e.1.1), dst := (dstSide m.d, dw m.d 2 + 4 * (256 * u + e.2)), n := 4 }
  else []

/-- The sampler's state after the logits of unit u, with their counts. -/
def sampRun (m : Cmd) (u free : Nat) (cnts : List Nat) : Samp :=
  (((unitLogits m u).zip cnts).zipIdx).foldl (fun sm e =>
    let l := e.1.1
    if !(taken l) then sm else sampTake m.d sm l.1 (dw m.d 6 % 2 ^ 32 + 256 * u + e.2) e.1.2 free) m.samp

/-- Unit u of SAMP (R265). -/
def sampUnit (s : State) (c port : Nat) (m : Cmd) (u : Nat) : URes × Cmd :=
  if cmdOrphan s c m then (.fail { s := s, stat := 8, aux := if (srcSide m.d).space = 0 then dw m.d 1 else 0 }, m)
  else if cmdFixing s c m then (.hold, m)
  else
    match readCounts s c port m (dw m.d 6 % 2 ^ 32 + 256 * u) (unitLogits m u) with
    | .error e => (.fail e, m)
    | .ok (cnts, s) =>
      let (free, s) := s.draw fun i => Config.freeNat i % 2 ^ 32
      match runItems s c port m (sampMoves m u) with
      | .ok s ls todo => (.ok s ls todo, { m with samp := sampRun m u free cnts })
      | r => (r, m)

/-- The completion of a SAMP command: the block written back, and what its result reports. -/
def sampFinish (s : State) (c port : Nat) (m : Cmd) : URes × Cmd :=
  let (free, s) := s.draw fun i => Config.freeNat i % 2 ^ 32
  let (sm, p, acc) := sampEnd m.d m.samp free
  let item : CopyItem := { val := some (toBytes 64 sm.block), dst := (srcSide m.d, dw m.d 1), n := 64 }
  (runItems s c port m [item], { m with samp := sm, aux := sm.tok + p * 2 ^ 32, acpt := acc })

/-! ## Serving -/

/-- A command replaced in its port. -/
def putCmd (s : State) (c port : Nat) (m : Cmd) : State := modCmd s c port m.id fun _ => m

/-- The stop of a command that fails (R252); a bank that it has reserved is released. -/
def failCmd (c port : Nat) (m : Cmd) (f : UFail) : State :=
  putCmd f.s c port { m with finished := true, stat := f.stat, aux := f.aux, banks := [] }

/-- The logical channel and the bank of the row at an offset of the alias (R325, R326). -/
def rowBank (off : Nat) : Nat × Nat := (off / 2 ^ 29, aliasRow off / 16 % 32)

/-- The banks of the n rows of a side of a command from an address on, those that lie in the alias (R326). -/
def sideBanks (s : State) (c : Nat) (m : Cmd) (a n : Nat) : List (Nat × Nat) :=
  (List.range n).filterMap fun i => (cmdAlias s c m (a + 2048 * i)).map rowBank

/-- The banks that a ROWS command reserves for unit u, on each of its alias sides (R326): a run that goes on keeps its
reservation, and that of a new run begins now. -/
def rowsBanks (s : State) (c : Nat) (m : Cmd) (u : Nat) : Cmd :=
  let n := min 2 (dw m.d 5 % 2 ^ 13 - 2 * u)
  let side := fun (a : Nat) => sideBanks s c m (a + 4096 * u) n
  let held := fun (b : Nat × Nat) => (m.banks.find? fun h => h.ch == b.1 && h.bank == b.2).getD
    { ch := b.1, bank := b.2, at_ := s.cycle c }
  { m with banks := (distinctBanks (side (dw m.d 1) ++ side (dw m.d 2))).map held }

/-- A command with a unit performed: counted, the lines it wrote and the pieces still to perform noted. -/
def Cmd.performed (m : Cmd) (lines : List Nat) (todo : List Piece) : Cmd :=
  { m with wrote := distinct (m.wrote ++ lines), todo := todo }

/-- The end of a SAMP command's serving, its block written back. -/
def sampClose (s : State) (c port : Nat) (m : Cmd) : State :=
  match sampFinish s c port m with
  | (.hold, _) => putCmd s c port m
  | (.fail f, _) => failCmd c port m f
  | (.ok s lines todo, m) => putCmd s c port { m.performed lines todo with finished := true }

/-- A unit that has been performed: counted, and the command's serving over after the last. -/
def unitDone (s : State) (c port : Nat) (m : Cmd) (lines : List Nat) (todo : List Piece) : State :=
  let m := { m.performed lines todo with units := m.units + 1 }
  if m.units < cmdUnits m.d m.dst then putCmd s c port m
  else if cmdOpc m.d = 0x04 then sampClose s c port m
  else putCmd s c port { m with finished := true, banks := [] }

/-- The next unit of a started command (R245). -/
def nextUnit (s : State) (c port : Nat) (m : Cmd) : URes × Cmd :=
  let u := m.units
  match cmdOpc m.d with
  | 0x01 => (runItems s c port m (linItems m u), m)
  | 0x02 => (runItems s c port m (tensItems m u), m)
  | 0x03 => (runItems s c port m (rowsItems m u), rowsBanks s c m u)
  | 0x04 => sampUnit s c port m u
  | 0x11 => (gatherUnit s c port m false u, m)
  | _ => (gatherUnit s c port m true u, m)

/-- A started command with nothing left but its completion. -/
def finishIdle (s : State) (c port : Nat) (m : Cmd) : State :=
  if cmdOpc m.d = 0x04 then sampClose s c port m else putCmd s c port { m with finished := true }

/-- The next unit of the command that e0 or e1 serves, where its opcode is the given one (R246, R247): a command
starts once a result entry is free for it. -/
def runUnit (s : State) (c port opc : Nat) : State :=
  match ((s.crew c).ports.get port).served with
  | none => s
  | some m =>
    if cmdOpc m.d ≠ opc then s
    else if !m.started then
      (if 16 ≤ ((s.crew c).ports.get port).taken then s
       else if cmdOpc m.d = 0x04 && cmdFixing s c m then s
       else match startCmd s c port m with
         | .error f => failCmd c port { m with started := true } f
         | .ok (s, m) => putCmd s c port { m with started := true })
    else if cmdUnits m.d m.dst ≤ m.units then finishIdle s c port m
    else
      match nextUnit s c port m with
      | (.hold, _) => s
      | (.fail f, m) => failCmd c port m f
      | (.ok s lines todo, m) => unitDone s c port m lines todo

/-- The frame of the unit events of e0 and e1, on core `unit`. -/
def runUnitEvent (port opc : Nat) (s : State) : Host.Outcome State Fault Refusal := .next (runUnit s s.ev.unit port opc)

/-- LIN, R263. -/
def execLin (s : State) := runUnitEvent 0 0x01 s
/-- TENS, R257. -/
def execTens (s : State) := runUnitEvent 0 0x02 s
/-- ROWS, R263, R326. -/
def execRows (s : State) := runUnitEvent 0 0x03 s
/-- SAMP, R265. -/
def execSamp (s : State) := runUnitEvent 0 0x04 s
/-- GATH, R263. -/
def execGath (s : State) := runUnitEvent 1 0x11 s
/-- SCAT, R263. -/
def execScat (s : State) := runUnitEvent 1 0x12 s

/-- The e2 command that a gondola engine serves, where it is that of the event: its core and number. -/
def servedPage (s : State) (c id : Nat) : Option Cmd :=
  match (((s.crew c).ports.get 2).cmds.find? fun m => m.id == id) with
  | none => none
  | some m =>
    match (gondolaOrder s (dieOf c) m.engine).find? fun e => !e.2.finished with
    | some (o, x) => if o = c ∧ x.id = id then some m else none
    | none => none

/-- PAGE, R263: page `item` of command `value` of core `unit`. -/
def execPage (s : State) : Host.Outcome State Fault Refusal :=
  let c := s.ev.unit
  let i := s.ev.item
  .next (match servedPage s c s.ev.value with
    | none => s
    | some m =>
      if !m.started then
        (if 16 ≤ ((s.crew c).ports.get 2).taken then s
         else match startCmd s c 2 m with
           | .error f => failCmd c 2 { m with started := true } f
           | .ok (s, m) => putCmd s c 2 { m with started := true })
      else if cmdUnits m.d m.dst ≤ m.units then finishIdle s c 2 m
      else if m.pages.contains i || decide (cmdUnits m.d m.dst ≤ i) then s
      else
        match pageUnit s c 2 m i with
        | .hold => s
        | .fail f => failCmd c 2 m f
        | .ok s lines todo => unitDone s c 2 { m with pages := m.pages ++ [i] } lines todo)

/-- BANK_RESERVATION_LIMIT, R326: a reservation of 200 ticks ends, and the run goes on under a fresh one. -/
def execBankReservationLimit (s : State) : Host.Outcome State Fault Refusal :=
  let c := s.ev.unit
  .next (match ((s.crew c).ports.get 0).served with
    | some m =>
      let now := s.cycle c
      modCmd s c 0 m.id fun x =>
        { x with banks := x.banks.map fun h => if h.at_ + 200 ≤ now then { h with at_ := now } else h }
    | none => s)

/-! ## Cancellation, promises, counters, completion -/

/-- The command that a CANCEL acts on (R262): the oldest uncompleted one of the port, TAG and agent that no
earlier CANCEL has stopped. -/
def cancelTarget (cs : List Cmd) (t : CancelTok) : Option Cmd :=
  cs.foldl (fun r m =>
    if cmdTag m.d = t.tag ∧ m.agent = t.agent ∧ m.stat ≠ 1 then
      (match r with | some x => if m.id < x.id then some m else r | none => some m)
    else r) none

/-- The service that the model still has to give a command at tick t. -/
def Cmd.left (m : Cmd) (t : Nat) : Nat := if m.finished then 0 else min m.svc (m.svcEnd - t)

/-- A command cancelled (R262): its serving is over, and what it had left of service falls to those behind it. -/
def cancelCmd (s : State) (c port : Nat) (m : Cmd) : State :=
  let t := s.cycle c
  let d := m.left t
  let s := if port = 2 then
      ((gondolaOrder s (dieOf c) m.engine).filter fun e => decide (m.svcEnd < e.2.svcEnd) && e.2.active t).foldl
        (fun s e => modCmd s e.1 2 e.2.id fun x => x.earlier d) s
    else s.modCrew c fun w => w.modPort port fun p =>
      { p with cmds := p.cmds.map fun x => if m.svcEnd < x.svcEnd && x.active t then x.earlier d else x }
  modCmd s c port m.id fun x => { x with finished := true, stat := if x.stat = 0 then 1 else x.stat, banks := [] }

/-- CANCEL, R262: the oldest CANCEL pushed on core `unit` acts. -/
def execCancel (s : State) : Host.Outcome State Fault Refusal :=
  let c := s.ev.unit
  .next (match (s.crew c).cancels with
    | [] => s
    | t :: ts =>
      let s := s.modCrew c fun w => { w with cancels := ts }
      match cancelTarget ((s.crew c).ports.get t.port).cmds t with
      | none => s
      | some m => if 0 < m.counted && !(cmdCpp m.d) then s else cancelCmd s c t.port m)

/-- A missed promise (R261): LATE, and with PMT the trap or the event of the pusher, once. -/
def missPromise (s : State) (c port : Nat) (m : Cmd) : State :=
  if m.missed then s
  else
    let s := modCmd s c port m.id fun x => { x with missed := true }
    if !(cmdPmt m.d) then s
    else if m.agent = 16 then reelEvent s c 0x07 (BitVec.ofNat 64 (cmdTag m.d))
    else lateTrap s c m.agent (trapAt 0x07 0 (cmdTag m.d)) none

/-- A command of a port by its number. -/
def findCmd (s : State) (c port id : Nat) : Option Cmd := ((s.crew c).ports.get port).cmds.find? fun m => m.id == id

/-- PROMISE_MISSED, R261: command `item` of port `sub` on core `unit`. -/
def execPromiseMissed (s : State) : Host.Outcome State Fault Refusal :=
  let c := s.ev.unit
  .next (match findCmd s c s.ev.sub s.ev.item with
    | some m => if m.promise < s.cycle c then missPromise s c s.ev.sub m else s
    | none => s)

/-- The increment of the counter at D4 (R312): the state, or the failure that the command posts. -/
def incrementCounter (s : State) (c port : Nat) (m : Cmd) : URes :=
  let a := dw m.d 4
  if a % 8 ≠ 0 then .fail { s := s, stat := 4, aux := a }
  else
    match engXlat s c m a .atomic with
    | .error e =>
      let f := xlatFail s c port a 3 e
      .fail { f with aux := a }
    | .ok (p, s) =>
      let s := clearLine s c (lineOf p)
      if lineBusy s c [lineOf p] then .hold
      else .ok (atomicAtHome s c p 8 (fun v => some ((v + 1) % 2 ^ 64)) (some (cmdScope m.d))).2 [] []

/-- The increments that a command has still to make (R249, R312): one as it completes; with CPP one for each
page. -/
def Cmd.dueCounts (m : Cmd) : Nat :=
  if !(cmdCnt m.d) || m.stat != 0 then 0
  else if cmdCpp m.d then m.pages.length - m.counted
  else if m.finished then 1 - m.counted else 0

/-- ARRIVAL_COUNTER_INCREMENT, R312: command `item` of port `sub` on core `unit`, what it has counted performed. A
counter that faults gives the command its status, and its units go on. -/
def execArrivalCounterIncrement (s : State) : Host.Outcome State Fault Refusal :=
  let c := s.ev.unit
  let port := s.ev.sub
  .next (match findCmd s c port s.ev.item with
    | none => s
    | some m =>
      if m.dueCounts = 0 ∨ m.linked s = false then s
      else
        let s := flushCmd s c port m
        match incrementCounter s c port m with
        | .hold => s
        | .fail f => modCmd f.s c port m.id fun x => { x with stat := f.stat, aux := f.aux }
        | .ok s _ _ => modCmd s c port m.id fun x => { x with counted := x.counted + 1 })

/-- The result of a command that completes now (Table 12-4). -/
def resultOf (s : State) (c : Nat) (m : Cmd) (late : Bool) : Result :=
  let aux := if m.stat = 1 ∨ m.stat = 6 then 0 else if m.stat = 0 ∧ cmdOpc m.d ≠ 0x04 then 0 else m.aux
  { w := resultWords m m.done (s.cycle c) late.toNat aux, lines := m.wrote }

/-- COMMAND_COMPLETE, R247, R251, R252, R261, R262: command `item` of port `sub` on core `unit` completes once its
serving is over and its counter incremented; one that has not started waits for a free entry. The result of a crew that
ends is discarded (R356). -/
def execCommandComplete (s : State) : Host.Outcome State Fault Refusal :=
  let c := s.ev.unit
  let port := s.ev.sub
  .next (match findCmd s c port s.ev.item with
    | none => s
    | some m =>
      if !m.finished || m.dueCounts != 0 || !(m.linked s) || (!m.started && decide (16 ≤ ((s.crew c).ports.get port).taken)) then s
      else
        let s := flushCmd s c port m
        let late := m.missed || decide (m.promise < s.cycle c)
        let s := if late then missPromise s c port m else s
        let post := !((m.stat == 0 && cmdNores m.d) || (s.crew c).ending)
        let s := s.modCrew c fun w => w.modPort port fun p =>
          { cmds := p.cmds.filter fun x => x.id != m.id
            res := if post then p.res ++ [resultOf s c m late] else p.res }
        if cmdOpc m.d = 0x04 then drainMoves s c (sampAcc m.d) 4 else s)

end Sys2Proof.Machine
end

