-- ==== Sys2Proof/Machine/Permute.lean ====
section
/-!
DEFINITION. The permutes (R136, R137).
Open points: log 15 (DEDUCED).
-/
namespace Sys2Proof.Machine

/-- An element moved or set. -/
def Elem.out (e : Elem) : Out := { v := e.v, ok := e.ok }

/-- An element set to zero: it is valid (R136). -/
def zeroOut : Out := { v := 0 }

/-- Element j of v[r] if j < n, else zero. -/
def Kite.pick (x : Kite) (ty n r j : Nat) : Out := if j < n then (x.velem ty r j).out else zeroOut

/-- The C value of a permute: a scalar or a zero-extended immediate. -/
def VCtx.cval (ctx : VCtx) : Nat := ctx.sc.toNat

/-- A permute of one destination: each active, guarded element i that `g` gives is written; link none. -/
def permBody (g : Kite → Fields → VCtx → Nat → Nat → Option Out) : VBody := fun x f ctx =>
  let ty := f.ty.toNat
  let n := ctx.count ty
  x.writeVec (opdValue f.a) ty n none fun i => if ctx.on i then g x f ctx n i else none

/-- vperm, R137. -/
def vpermBody : VBody := permBody fun x f _ n i =>
  let j := x.velem f.ty.toNat (opdValue f.c) i
  let o := x.pick f.ty.toNat n (opdValue f.b) j.v
  some (if j.v < n then { o with ok := o.ok && j.ok } else o)

/-- vslide.up, R137: elements below the offset are kept. -/
def vslideUpBody : VBody := permBody fun x f ctx n i =>
  if ctx.cval ≤ i then some (x.pick f.ty.toNat n (opdValue f.b) (i - ctx.cval)) else none

/-- vslide.down, R137. -/
def vslideDownBody : VBody := permBody fun x f ctx n i =>
  some (x.pick f.ty.toNat n (opdValue f.b) (i + ctx.cval))

/-- A permute of several destinations: destination d, an offset from A, takes for its element i what `g` gives;
every source is read from the registers before it. -/
def permMany (count : Nat) (g : Kite → Fields → VCtx → Nat → Nat → Nat → Option Out) : VBody := fun x f ctx =>
  let ty := f.ty.toNat
  let n := ctx.count ty
  ((List.range count).foldl (fun (p : Kite × Nat) d =>
    let (y, fl) := p.1.writeVec (opdValue f.a + d) ty n none fun i => if ctx.on i then g x f ctx n d i else none
    (y, p.2 ||| fl)) (x, 0))

/-- vtrans8, R137: each 8 × 8 tile transposes on its own. -/
def vtrans8Body : VBody := permMany 8 fun x f _ n d i =>
  let c := i / 8
  if 8 * c + d < n then some (x.pick f.ty.toNat n (opdValue f.b + i % 8) (8 * c + d)) else none

/-- vzip.zip, R137: v[A] takes the first n elements of the interleaving, v[A + 1] the rest. -/
def vzipBody : VBody := permMany 2 fun x f _ n d i =>
  let k := d * n + i
  some (x.pick f.ty.toNat n (if k % 2 = 0 then opdValue f.b else opdValue f.c) (k / 2))

/-- vzip.unzip, R137: v[A] takes the even elements of cat(v[B], v[C]), v[A + 1] the odd ones. -/
def vunzipBody : VBody := permMany 2 fun x f _ n d i =>
  let k := 2 * i + d
  some (if k < n then x.pick f.ty.toNat n (opdValue f.b) k else x.pick f.ty.toNat n (opdValue f.c) (k - n))

/-- vbcast, R137: of an element of v[B], or of a scalar. -/
def vbcastBody : VBody := permBody fun x f ctx n _ =>
  match f.b with
  | .v r => some (x.pick f.ty.toNat n r.toNat ctx.cval)
  | _ => some (scalarElem f.ty.toNat ctx.sb).out

/-- viota, R137: the index, or the number of bits of p[B] set below it. -/
def viotaBody : VBody := permBody fun x f _ _ i =>
  let v := match f.b with | .p r => countBelow i (bit (x.pget r.toNat)) | _ => i
  some { v := v % 2 ^ widthOf f.ty.toNat }

/-- vext, R137: one element to a scalar, under the guard bit of its index. -/
def vextBody : VBody := fun x f ctx =>
  let ty := f.ty.toNat
  let j := ctx.cval
  let e := (x.pick ty (ctx.count ty) (opdValue f.b) j).v
  if x.guardBit f j then (x.sset (opdValue f.a) (if isSType ty then sext e (widthOf ty) else BitVec.ofNat 64 e), 0)
  else (x, 0)

/-- vins, R137: a scalar to one element; the link of v[A] is kept (R136). -/
def vinsBody : VBody := fun x f ctx =>
  let ty := f.ty.toNat
  let j := ctx.cval
  x.writeVec (opdValue f.a) ty (ctx.count ty) (x.vget (opdValue f.a)).link fun i =>
    if i = j ∧ ctx.on i = true then some (scalarElem ty ctx.sb).out else none

/-- vperm, R137. -/
def execVperm (f : Fields) (s : State) := runVec (.vperm f) 0x46 f vpermBody s
/-- vslide.up, R137. -/
def execVslideUp (f : Fields) (s : State) := runVec (.vslideUp f) 0x47 f vslideUpBody s
/-- vslide.down, R137. -/
def execVslideDown (f : Fields) (s : State) := runVec (.vslideDown f) 0x47 f vslideDownBody s
/-- vtrans8, R137. -/
def execVtrans8 (f : Fields) (s : State) := runVec (.vtrans8 f) 0x48 f vtrans8Body s
/-- vzip.zip, R137. -/
def execVzipZip (f : Fields) (s : State) := runVec (.vzipZip f) 0x49 f vzipBody s
/-- vzip.unzip, R137. -/
def execVzipUnzip (f : Fields) (s : State) := runVec (.vzipUnzip f) 0x49 f vunzipBody s
/-- vbcast, R137. -/
def execVbcast (f : Fields) (s : State) := runVec (.vbcast f) 0x4A f vbcastBody s
/-- viota, R137. -/
def execViota (f : Fields) (s : State) := runVec (.viota f) 0x4B f viotaBody s
/-- vext, R137. -/
def execVext (f : Fields) (s : State) := runVec (.vext f) 0x4C f vextBody s
/-- vins, R137. -/
def execVins (f : Fields) (s : State) := runVec (.vins f) 0x4D f vinsBody s

end Sys2Proof.Machine
end

