-- ==== Sys2Proof/Machine/Queues.lean ====
section
/-!
DEFINITION. Queues and tethers (R100 to R107), and the flight's barrier units (R109 to R112).
Open points: log 12 (DESIGN CHOICE).
-/
namespace Sys2Proof.Machine

/-! ## Queues -/

/-- qpush, R107. Earlier scalar stores and stores of earlier strips have performed at CORE scope (R102; `afterStores`). -/
def execQpush (f : Fields) (s : State) : Host.Outcome State Fault Refusal :=
  .next (issue (.qpush f) s fun s c _ x =>
    let q := opdValue f.a
    let l := s.queueOf c q
    if 16 ≤ l.length then .wait s (.qpush q) else .done (s.setQueueOf c q (l ++ [x.opd f.b])))

/-- qpop, R107. -/
def execQpop (f : Fields) (s : State) : Host.Outcome State Fault Refusal :=
  .next (issue (.qpop f) s fun s c k _ =>
    let q := opdValue f.b
    match s.queueOf c q with
    | [] => .wait s (.qpop q)
    | w :: ws => .done ((s.setQueueOf c q ws).modKite c k fun x => x.readAnew.sset (opdValue f.a) w))

/-- qpeek, R107. -/
def execQpeek (f : Fields) (s : State) : Host.Outcome State Fault Refusal :=
  .next (issue (.qpeek f) s fun s c k _ =>
    let l := s.queueOf c (opdValue f.b)
    .done (s.modKite c k fun x =>
      let x := x.sset (opdValue f.a) (l.headD 0)
      match f.c with
      | .p i => x.pfill i.toNat !l.isEmpty
      | _ => x))

/-! ## Tethers -/

/-- An inbound port of a kite (R104). -/
def Kite.port (x : Kite) (t : Nat) : List Word := if t = 0 then x.t0 else x.t1

/-- The kite with an inbound port replaced. -/
def Kite.setPort (x : Kite) (t : Nat) (l : List Word) : Kite :=
  if t = 0 then { x with t0 := l } else { x with t1 := l }

/-- The kite and port that a tsend reaches (R104, R107): d is 0 to the left, 1 to the right. -/
def tetherTarget (n k d : Nat) : Nat × Nat := if d = 0 then ((k + n - 1) % n, 1) else ((k + 1) % n, 0)

/-- tsend in direction d. -/
def runTsend (i : Instr) (f : Fields) (d : Nat) (s : State) : Host.Outcome State Fault Refusal :=
  .next (issue i s fun s c k x =>
    let (j, t) := tetherTarget (s.crew c).n k d
    let l := (s.kite c j).port t
    if 4 ≤ l.length then .wait s (.tsend d)
    else .done (s.modKite c j fun y => y.setPort t (l ++ [x.opd f.b])))

/-- tsend.left, R107. -/
def execTsendLeft (f : Fields) (s : State) := runTsend (.tsendLeft f) f 0 s
/-- tsend.right, R107. -/
def execTsendRight (f : Fields) (s : State) := runTsend (.tsendRight f) f 1 s

/-- trecv, R107. -/
def execTrecv (f : Fields) (s : State) : Host.Outcome State Fault Refusal :=
  .next (issue (.trecv f) s fun s c k x =>
    let t := opdValue f.b
    match x.port t with
    | [] => .wait s (.trecv t)
    | w :: ws => .done (s.modKite c k fun y => (y.readAnew.setPort t ws).sset (opdValue f.a) w))

/-! ## Barrier units -/

/-- The number of crews of the flight of a crew. -/
def flightSize (s : State) (c : Nat) : Nat := (s.flight (s.crew c).flight).cores.length

/-- A barrier unit of the flight of a crew. -/
def barUnit (s : State) (c u : Nat) : BarUnit := (s.flight (s.crew c).flight).bars.get u

/-- Whether the phase of an agent's latest arrival at a unit has not completed (R110): `arr` holds the phases
of the agent's arrivals by unit. -/
def outstanding (s : State) (c u : Nat) (arr : Tab Nat) : Bool :=
  match arr.find u with
  | some p => decide ((barUnit s c u).phase ≤ p)
  | none => false

/-- An arrival that reaches the unit (R110): the first of a phase sets N, and the N-th completes the phase. -/
def BarUnit.arrive (b : BarUnit) (core count scope : Nat) : BarUnit :=
  let n := if b.arr.isEmpty then count else b.n
  let arr := b.arr ++ [(core, scope)]
  if n ≤ arr.length then { phase := b.phase + 1, n := 0, arr := [], past := b.past.set b.phase arr }
  else { b with n := n, arr := arr }

/-- The state after an arrival of an agent of a core counts. -/
def countArrival (s : State) (c u count scope : Nat) : State :=
  s.modFlight (s.crew c).flight fun f => { f with bars := f.bars.mod u fun b => b.arrive c count scope }

/-- The arrival of a marker, in the phase that it was placed for (R114): the current one, or one that other arrivals
have completed since, whose record it joins. -/
def markerArrives (s : State) (c : Nat) (m : Marker) : State :=
  if m.phase = (barUnit s c m.unit).phase then countArrival s c m.unit m.count m.scope
  else s.modFlight (s.crew c).flight fun f =>
    { f with bars := f.bars.mod m.unit fun b => { b with past := b.past.mod m.phase fun l => l ++ [(c, m.scope)] } }

/-- Whether a waiter's acquire meets every arrival of its phase (R112). -/
def phaseMatches (s : State) (c scope phase : Nat) (b : BarUnit) : Bool :=
  let d := s.module.devnum
  (b.past.get phase).all fun e => includes c d scope e.1 d && includes e.1 d e.2 c d

/-- The unit number of a bar.arrive or bar.wait, immediate or register. -/
def Kite.barUnitNo (x : Kite) (f : Fields) : Nat := (x.opd f.a).toNat

/-- The trap of a unit number out of range (R111). -/
def barTrap (u : Nat) : Trap := trapAt 0x04 u 0

/-- bar.arrive, R111: the marker takes an entry of the vector queue (R123). -/
def execBarArrive (f : Fields) (s : State) : Host.Outcome State Fault Refusal :=
  .next (issue (.barArrive f) s fun s c k x =>
    let u := x.barUnitNo f
    if 2 * flightSize s c ≤ u then .raise s (barTrap u) .here none
    else
      let s := closeStrip s c k
      let x := s.kite c k
      if outstanding s c u x.arr then .wait s (.barArrive u)
      else if 8 ≤ x.vq.length then .notReady
      else
        let count := match f.c with | .uimm n => n.toNat | _ => flightSize s c * (s.crew c).n
        let phase := (barUnit s c u).phase
        let m : Marker := { unit := u, phase := phase, count := count, scope := opdValue f.b }
        .done (s.modKite c k fun y =>
          { y with vq := y.vq ++ [{ dispatched := false, marker := some m }], arr := y.arr.set u phase }))

/-- bar.wait, R111, R112. DESIGN CHOICE (log 12): the wait uses up the arrival, so a second bar.wait on the same phase
makes no test of the scope and sets no SCX; the rules say neither. -/
def execBarWait (f : Fields) (s : State) : Host.Outcome State Fault Refusal :=
  .next (issue (.barWait f) s fun s c k x =>
    let u := x.barUnitNo f
    let scope := opdValue f.b
    if 2 * flightSize s c ≤ u then .raise s (barTrap u) .here none
    else if outstanding s c u x.arr then .wait s (.barWait u)
    else
      let bad := match x.arr.find u with
        | some p => !(phaseMatches s c scope p (barUnit s c u))
        | none => false
      let s := s.modKite c k fun y => { y.readAnew with arr := y.arr.del u, scx := y.scx || bad }
      .done (if scope = 1 then kiteAcquire s c k 1 else s))

end Sys2Proof.Machine
end

