-- ==== Sys2Proof/Machine/ReelKites.lean ====
section
/-!
DEFINITION. The instructions of the reel that act on kites (R59 to R69), on the timebase (R77), on the queues
(R108) and on the barrier units (R113).
Open points: logs 12 (DESIGN CHOICE), 13 (DEDUCED).
-/
namespace Sys2Proof.Machine

/-! ## Kites -/

/-- 2^63 + n: what a failing instruction of the reel writes (R63, R270, R289, R362, R370). -/
def failWord (n : Nat) : Word := BitVec.ofNat 64 (2 ^ 63 + n)

/-- The kites of a mask that are not LANDED (R60). -/
def busyKites (s : State) (c m : Nat) : Nat := m &&& kitesWith s c fun st => st != .landed

/-- A change of every kite of a mask. -/
def changeKites (s : State) (c m : Nat) (g : Kite → Kite) : State :=
  iter 16 (fun k s => if bit m k then s.modKite c k g else s) s

/-- The common form of R60: rd receives the busy kites of the effective mask, or 0 once every kite of it is
changed. -/
def onLanded (s : State) (c : Nat) (rd : BitVec 5) (mask : Word) (g : Kite → Kite) : State :=
  let m := effMask s c mask
  let busy := busyKites s c m
  if busy ≠ 0 then reelWrite s c rd (BitVec.ofNat 64 busy) else reelWrite (changeKites s c m g) c rd 0

/-- Whether the leaf of a page grants fetches (R333). -/
def pageX (s : State) (c va : Nat) : Bool :=
  !(slotWindow va) &&
    match lookup s c (s.ctx (s.crew c).ctx) va with
    | .ok (t, _) => pteX t.leaf
    | .error _ => false

/-- The part of a bridle from an address on: n bytes, in one line, as a load of committed bytes (R33, R61). -/
def bridlePart (s : State) (c va n : Nat) : Except Exc (List Byte × State) :=
  match reelXlat s c va .load with
  | .error e => .error e
  | .ok (x, s) =>
    if !(pageX s c va) then .error { code := 13, tval := BitVec.ofNat 64 va, s := s }
    else .ok (loadLine s c (s.crew c).ctx 0 (s.reelOf c).acq x n 0 true)

/-- The 96 bytes of a bridle. -/
def bridleBytes (s : State) (c va : Nat) : Except Exc (List Byte × State) :=
  let n := min 96 (128 - va % 128)
  match bridlePart s c va n with
  | .error e => .error e
  | .ok (bs, s) =>
    if n = 96 then .ok (bs, s)
    else
      match bridlePart s c (va + n) (96 - n) with
      | .error e => .error e
      | .ok (bs', s) => .ok (bs ++ bs', s)

/-- The buffer of a bridle (R61). -/
def bridleBuf (base : Nat) (bs : List Byte) : Buf :=
  { valid := true, base := base, slots := 8, words := carugWords 8 bs }

/-- A kite that kite.bridle or kite.fly starts (R61, R62): it reads memory anew (R69, R298). -/
def Kite.start (x : Kite) (b : Buf) (idx : Nat) : Kite :=
  { x with buf0 := b, cur := 0, idx := idx, waitCount := 0, yielded := false, killed := false, resume := .here, ahead := []
           st := if b.filling then .waiting else .flying, wait := if b.filling then .fill 0 else .none }

/-- kite.bridle, R60, R61. -/
def execKiteBridle (rd rs1 rs2 : BitVec 5) (s : State) : Host.Outcome State Fault Refusal :=
  .next (reelRun s fun s c r =>
    let va := (r.xget rs1.toNat).toNat
    if va % 32 ≠ 0 then reelRaise s c 4 (BitVec.ofNat 64 va)
    else
      match bridleBytes s c va with
      | .error e => raiseExc c e
      | .ok (bs, s) => onLanded s c rd (r.xget rs2.toNat) fun x => x.start (bridleBuf va bs) 0)

/-- The translation of a page of the block of a kite.fly (R62, R333): fetched by kites, failing as a fetch of
the reel fails. -/
def flyXlat (c : Nat) (s : State) (va : Nat) : Except Exc (Xlat × State) :=
  let ctx := (s.crew c).ctx
  let tval := BitVec.ofNat 64 va
  match translate s c ctx va .fetch .kite with
  | .ok x => .ok x
  | .error (.absent span) => .error { code := 12, tval := tval, s := (requestPage s ctx c 16 va 2 span).1 }
  | .error .denied => .error { code := 12, tval := tval, s := s }
  | .error _ => .error { code := 1, tval := tval, s := s }

/-- kite.fly, R60, R62. -/
def execKiteFly (rd rs1 rs2 : BitVec 5) (s : State) : Host.Outcome State Fault Refusal :=
  .next (reelRun s fun s c r =>
    let e := (r.xget rs1.toNat).toNat
    let base := e / 64 * 64
    if bit e 5 then reelRaise s c 0 (BitVec.ofNat 64 e)
    else
      match blockXlat s base (flyXlat c) 6 with
      | .error err => raiseExc c err
      | .ok (pas, s) =>
        onLanded s c rd (r.xget rs2.toNat) fun x => x.start (fillingBuf base pas) (e % 32))

/-- Whether a kite.wait ends: every kite of its mask landed or parked, or its deadline reached (R64). -/
def waitOver (s : State) (c m deadline : Nat) : Bool :=
  (m &&& kitesWith s c fun st => st != .landed && st != .parked) == 0 ||
    (deadline != 0 && decide (deadline ≤ s.cycle c))

/-- What a kite.wait writes (R64). -/
def waitWord (s : State) (c m : Nat) : Word :=
  let landed := m &&& kitesWith s c fun st => st == .landed
  let parked := m &&& kitesWith s c fun st => st == .parked
  let rest := m &&& kitesWith s c fun st => st != .landed && st != .parked
  BitVec.ofNat 64 (landed + 2 ^ 16 * parked + 2 ^ 63 * (rest != 0).toNat)

/-- The stores of the parked kites of a mask perform at CORE scope before they are reported (R69). -/
def settleParked (s : State) (c m : Nat) : State :=
  iter 16 (fun k s => if bit m k && (s.kite c k).st == .parked then flushPend s c k else s) s

/-- The body of kite.wait. -/
def kiteWaitBody (rd rs1 rs2 : BitVec 5) (s : State) (c : Nat) (r : Reel) : State :=
  let m := effMask s c (r.xget rs1.toNat)
  let deadline := (r.xget rs2.toNat).toNat
  if waitOver s c m deadline then reelWrite (settleParked s c m) c rd (waitWord s c m)
  else reelWait s c (.kites m deadline)

/-- kite.wait, R64. -/
def execKiteWait (rd rs1 rs2 : BitVec 5) (s : State) : Host.Outcome State Fault Refusal :=
  .next (reelRun s (kiteWaitBody rd rs1 rs2))

/-- kite.kill, R65: the kites it moves drain, and it returns once they have landed. -/
def execKiteKill (rd rs1 : BitVec 5) (s : State) : Host.Outcome State Fault Refusal :=
  .next (reelRun s fun s c r =>
    match r.wait with
    | .landing m =>
      if (m &&& kitesWith s c fun st => st != .landed) = 0 then reelWrite s c rd (BitVec.ofNat 64 m) else s
    | _ =>
      let m := effMask s c (r.xget rs1.toNat) &&&
        kitesWith s c fun st => st == .flying || st == .waiting || st == .parked
      if m = 0 then reelWrite s c rd 0 else reelWait (killMask s c m) c (.landing m))

/-- kite.role, R66. -/
def execKiteRole (rd rs1 rs2 : BitVec 5) (s : State) : Host.Outcome State Fault Refusal :=
  .next (reelRun s fun s c r =>
    let v := (r.xget rs1.toNat).toNat
    if 2 < v then reelWrite s c rd (BitVec.ofNat 64 (ones 64))
    else reelWrite (changeKites s c (effMask s c (r.xget rs2.toNat)) fun x => { x with role := v }) c rd 0)

/-- The state word of kite.stat, Table 3-10. -/
def Kite.statWord (x : Kite) : Word :=
  BitVec.ofNat 64 (2 ^ 32 * (if x.st = .parked then x.cause else 0) + 2 ^ 16 * min 65535 x.waitCount +
    2 ^ 10 * x.cur + 2 ^ 5 * x.idx + 2 ^ 3 * x.role + x.st.code)

/-- kite.stat, R67. -/
def execKiteStat (rd rs1 : BitVec 5) (s : State) : Host.Outcome State Fault Refusal :=
  .next (reelRun s fun s c r =>
    let k := (r.xget rs1.toNat).toNat
    reelWrite s c rd (if 15 < k ∨ (s.crew c).n ≤ k then 0 else (s.kite c k).statWord))

/-- kite.tint, R60, R63. -/
def execKiteTint (rd rs1 rs2 : BitVec 5) (s : State) : Host.Outcome State Fault Refusal :=
  .next (reelRun s fun s c r =>
    let t := (r.xget rs1.toNat).toNat
    if 1023 < t ∨ (s.ctx (s.crew c).ctx).isLive t = false then reelWrite s c rd (failWord 0)
    else onLanded s c rd (r.xget rs2.toNat) fun x => { x with tintv := t })

/-- kite.mvl, R68. -/
def execKiteMvl (rd : BitVec 5) (s : State) : Host.Outcome State Fault Refusal :=
  .next (reelRun s fun s c _ => reelWrite s c rd (BitVec.ofNat 64 (s.crew c).mvlb))

/-! ## The timebase -/

/-- cyc, R77. -/
def execCyc (rd : BitVec 5) (s : State) : Host.Outcome State Fault Refusal :=
  .next (reelRun s fun s c _ => reelWrite s c rd (BitVec.ofNat 64 (s.cycle c)))

/-- The body of the reel's sleepu. -/
def reelSleepBody (rs1 : BitVec 5) (s : State) (c : Nat) (r : Reel) : State :=
  let t := (r.xget rs1.toNat).toNat
  if t ≤ s.cycle c then reelNext s c else reelWait s c (.sleep t)

/-- sleepu of the reel, R77. -/
def execReelSleepu (rs1 : BitVec 5) (s : State) : Host.Outcome State Fault Refusal :=
  .next (reelRun s (reelSleepBody rs1))

/-! ## Queues -/

/-- q.push, R108. Every earlier store of the reel has performed at CORE scope (R102, R302). -/
def execQPush (q : BitVec 3) (rs1 : BitVec 5) (s : State) : Host.Outcome State Fault Refusal :=
  .next (reelRun s fun s c r =>
    let l := s.queueOf c q.toNat
    if 16 ≤ l.length then reelWait s c (.qpush q.toNat)
    else reelNext (s.setQueueOf c q.toNat (l ++ [r.xget rs1.toNat])) c)

/-- q.pop, R108. -/
def execQPop (q : BitVec 3) (rd : BitVec 5) (s : State) : Host.Outcome State Fault Refusal :=
  .next (reelRun s fun s c _ =>
    match s.queueOf c q.toNat with
    | [] => reelWait s c (.qpop q.toNat)
    | w :: ws => reelWrite (s.setQueueOf c q.toNat ws) c rd w)

/-- q.peek, R108. -/
def execQPeek (q : BitVec 3) (rd : BitVec 5) (s : State) : Host.Outcome State Fault Refusal :=
  .next (reelRun s fun s c _ => reelWrite s c rd (BitVec.ofNat 64 (s.queueOf c q.toNat).length))

/-! ## Barrier units -/

/-- Whether x[rs2] of an fbar.arrive is in range: a count of 0 to 256, a scope of 0 or 1, nothing above. -/
def arriveArgOk (v : Nat) : Bool := decide (v % 2 ^ 16 ≤ 256) && decide (v / 2 ^ 16 ≤ 1)

/-- The agent's arrival at a unit, which counts at once (R110, R113). -/
def reelArrive (s : State) (c u count scope : Nat) : State :=
  let phase := (barUnit s c u).phase
  (countArrival s c u count scope).modReel c fun r => { r with arr := r.arr.set u phase }

/-- fbar.arrive, R113. -/
def execFbarArrive (rd rs1 rs2 : BitVec 5) (s : State) : Host.Outcome State Fault Refusal :=
  .next (reelRun s fun s c r =>
    let u := (r.xget rs1.toNat).toNat
    let v := (r.xget rs2.toNat).toNat
    let scope := v / 2 ^ 16
    if 2 * flightSize s c ≤ u ∨ arriveArgOk v = false then reelWrite s c rd (BitVec.ofNat 64 (ones 64))
    else if outstanding s c u r.arr then reelWait s c (.barArrive u)
    else
      let count := if v % 2 ^ 16 = 0 then flightSize s c * (s.crew c).n else v % 2 ^ 16
      let (s, done) := release s c scope
      if done then reelWrite (reelArrive s c u count scope) c rd 0 else reelWait s c .fbar)

/-- fbar.wait, R112, R113. DESIGN CHOICE (log 12): the wait uses up the reel's arrival, so a second fbar.wait on the same
phase makes no test of the scope and writes 0; the rules say neither. -/
def execFbarWait (rd rs1 rs2 : BitVec 5) (s : State) : Host.Outcome State Fault Refusal :=
  .next (reelRun s fun s c r =>
    let u := (r.xget rs1.toNat).toNat
    let scope := (r.xget rs2.toNat).toNat
    if 2 * flightSize s c ≤ u ∨ 1 < scope then reelWrite s c rd (BitVec.ofNat 64 (ones 64))
    else if outstanding s c u r.arr then reelWait s c (.barWait u)
    else
      let bad := match r.arr.find u with
        | some p => !(phaseMatches s c scope p (barUnit s c u))
        | none => false
      let s := s.modReel c fun r => { r with arr := r.arr.del u }
      let s := if scope = 1 then reelAcquire s c 1 else s
      reelWrite s c rd (BitVec.ofNat 64 bad.toNat))

end Sys2Proof.Machine
end

