-- ==== Sys2Proof/Machine/ReelCrew.lean ====
section
/-!
DEFINITION. The instructions of the reel on the engines (R270), on hypotheses (R289), on the error queue
(R371), on batch slots and parameters (R360 to R362), and on its own crew and user events (R356, R370).
Open points: log 13 (DEDUCED).
-/
namespace Sys2Proof.Machine

/-! ## Engines -/

/-- What a refused push writes to rd (R270). -/
def refusalWord (t : Trap) : Word := BitVec.ofNat 64 (2 ^ 63 + t.cause * 2 ^ 16 + t.elt.toNat % 2 ^ 16)

/-- The eight words of a command in memory. -/
def commandWords (v : Nat) : List Word := (List.range 8).map fun i => BitVec.ofNat 64 (v >>> (64 * i))

/-- e.push, R270. -/
def execEPush (e : BitVec 3) (rd rs1 : BitVec 5) (s : State) : Host.Outcome State Fault Refusal :=
  .next (reelRun s fun s c r =>
    if reelFixing s c then waitFixing s c
    else match reelLoad s c (r.xget rs1.toNat).toNat 64 with
    | .error x => raiseExc c x
    | .ok (v, s) =>
      match pushCommand s c e.toNat 16 r.view (commandWords v) id with
      | .refused f => reelWrite f.s c rd (refusalWord f.t)
      | .wait s w => reelWait s c w
      | .done s p => reelWrite s c rd p)

/-- The 32 bytes of a result. -/
def resultBytes (w : List Word) : List Byte := w.flatMap fun x => toBytes 8 x.toNat

/-- e.pop, R270, R311. -/
def execEPop (e : BitVec 3) (rd rs1 : BitVec 5) (s : State) : Host.Outcome State Fault Refusal :=
  .next (reelRun s fun s c r =>
    match ((s.crew c).ports.get e.toNat).res with
    | [] => reelWait s c (.epop e.toNat)
    | x :: _ =>
      match reelStore s c (r.xget rs1.toNat).toNat (toBytes 32 (ofBytes (resultBytes x.w))) with
      | .error err => raiseExc c err
      | .ok s => reelWrite (popResult s c e.toNat x) c rd (x.w.headD 0))

/-- e.stat, R270. -/
def execEStat (e : BitVec 3) (rd : BitVec 5) (s : State) : Host.Outcome State Fault Refusal :=
  .next (reelRun s fun s c _ => reelWrite s c rd (portStatus s c e.toNat))

/-! ## Hypotheses -/

/-- hyp.open, R289: the reasons in the order 2, 1, 4, 3. -/
def execHypOpen (rd rs1 : BitVec 5) (s : State) : Host.Outcome State Fault Refusal :=
  .next (reelRun s fun s c r =>
    let p := (r.xget rs1.toNat).toNat
    let ctx := (s.crew c).ctx
    let x := s.ctx ctx
    if 1023 < p then reelWrite s c rd (failWord 2)
    else if x.isLive p = false then reelWrite s c rd (failWord 1)
    else if (x.tint p).depth = 16 then reelWrite s c rd (failWord 4)
    else
      match x.freeTint with
      | none => reelWrite s c rd (failWord 3)
      | some n => reelWrite (s.modCtx ctx fun y => y.open_ n p) c rd (BitVec.ofNat 64 n))

/-- The request of a fix or a bleach by the reel (R277, R289): it waits until the operation completes. -/
def requestTop (s : State) (c t : Nat) (bleach : Bool) : State :=
  let op : TintOp := { bleach := bleach, tint := t, core := c, agent := 16 }
  reelWait (s.modCtx (s.crew c).ctx fun y => { y with tops := y.tops ++ [op] }) c (.tint t)

/-- hyp.fix or hyp.bleach: the reasons in the order 2, 1; then the request and the wait for its result. -/
def hypTop (s : State) (c : Nat) (r : Reel) (rd rs1 : BitVec 5) (bleach : Bool) : State :=
  let t := (r.xget rs1.toNat).toNat
  match r.wait with
  | .tint _ => s
  | .result v => reelWrite s c rd v
  | _ =>
    if 1023 < t ∨ t = 0 then reelWrite s c rd (failWord 2)
    else if (s.ctx (s.crew c).ctx).isLive t = false then reelWrite s c rd (failWord 1)
    else if bleach then requestTop s c t true
    else reelRelease s c 3 fun s => requestTop s c t false

/-- hyp.fix, R284, R285, R289. -/
def execHypFix (rd rs1 : BitVec 5) (s : State) : Host.Outcome State Fault Refusal :=
  .next (reelRun s fun s c r => hypTop s c r rd rs1 false)

/-- hyp.bleach, R286, R289. -/
def execHypBleach (rd rs1 : BitVec 5) (s : State) : Host.Outcome State Fault Refusal :=
  .next (reelRun s fun s c r => hypTop s c r rd rs1 true)

/-- The code of a tint's state, Table 13-1. -/
def TState.code : TState → Nat
  | .free => 0 | .live => 1 | .fixing => 2 | .bleaching => 3 | .retired => 4

/-- The status word of hyp.stat, Table 13-7. -/
def tintWord (x : Context) (t : Nat) : Word :=
  let e := x.tint t
  let parent := if e.st = .retired then e.fwd.getD 0 else e.parent
  let fixed := e.st == .retired && e.fixed
  BitVec.ofNat 64 (2 ^ 32 * x.freeCount + 2 ^ 22 * x.children t + 2 ^ 12 * parent + 2 ^ 7 * e.depth +
    2 ^ 3 * fixed.toNat + e.st.code)

/-- hyp.stat, R289. -/
def execHypStat (rd rs1 : BitVec 5) (s : State) : Host.Outcome State Fault Refusal :=
  .next (reelRun s fun s c r =>
    let t := (r.xget rs1.toNat).toNat
    reelWrite s c rd (if 1023 < t then BitVec.ofNat 64 (ones 64) else tintWord (s.ctx (s.crew c).ctx) t))

/-- hyp.enter, R289. -/
def execHypEnter (rd rs1 : BitVec 5) (s : State) : Host.Outcome State Fault Refusal :=
  .next (reelRun s fun s c r =>
    let t := (r.xget rs1.toNat).toNat
    if 1023 < t then reelWrite s c rd (failWord 2)
    else if (s.ctx (s.crew c).ctx).isLive t = false then reelWrite s c rd (failWord 1)
    else reelWrite (s.modReel c fun r => { r with view := t }) c rd (BitVec.ofNat 64 r.view))

/-! ## The error queue -/

/-- The context of an error report, Table 18-10. -/
def reportCtx (w : Nat) : Nat := bits w 87 80

/-- err.pop, R371. -/
def execErrPop (rd rs1 : BitVec 5) (s : State) : Host.Outcome State Fault Refusal :=
  .next (reelRun s fun s c r =>
    let va := (r.xget rs1.toNat).toNat
    let q := (s.die (dieOf c)).errq
    let ctx := (s.crew c).ctx
    if va % 32 ≠ 0 then reelRaise s c 6 (BitVec.ofNat 64 va)
    else
      match q.findIdx? fun w => reportCtx w == ctx with
      | none => reelWrite s c rd 0
      | some i =>
        let w := q.getD i 0
        match reelStore s c va (toBytes 32 w) with
        | .error e => raiseExc c e
        | .ok s =>
          reelWrite (s.modDie (dieOf c) fun d => { d with errq := dropAt i d.errq }) c rd (BitVec.ofNat 64 w))

/-! ## Batch slots and parameters -/

/-- Pages of a context's pool that are in a slot's list or draining (R360, R362). -/
def Context.usedPages (x : Context) : List Nat :=
  (x.slots.flatMap fun e => e.2.pages) ++ x.drain.map (·.page)

/-- A free page of the pool, the first at or after page d, cyclically; there is one while fewer than all are
used. -/
def Context.freePage (x : Context) (d : Nat) : Nat :=
  let used := x.usedPages
  let n := x.slotCnt
  match (List.range (used.length + 1)).find? fun j => !(used.contains ((d + j) % n)) with
  | some j => (d + j) % n
  | none => 0

/-- n pages taken from the pool for a slot: which ones is free (R362, log 2). -/
def takePages (s : State) (ctx slot : Nat) : Nat → State
  | 0 => s
  | n + 1 =>
    let (d, s) := s.draw Config.freeNat
    takePages (s.modCtx ctx fun x =>
      { x with slots := x.slots.mod slot fun b => { b with pages := b.pages ++ [x.freePage d] } }) ctx slot n

/-- slot.admit, R362. -/
def execSlotAdmit (rd rs1 rs2 : BitVec 5) (s : State) : Host.Outcome State Fault Refusal :=
  .next (reelRun s fun s c r =>
    let t := (r.xget rs1.toNat).toNat
    let n := (r.xget rs2.toNat).toNat
    let ctx := (s.crew c).ctx
    let x := s.ctx ctx
    if 255 < t then reelWrite s c rd (failWord 2)
    else if (x.slots.get t).active then reelWrite s c rd (failWord 1)
    else if n = 0 ∨ 65536 < n then reelWrite s c rd (failWord 3)
    else if x.slotCnt < x.usedPages.length + n then reelWrite s c rd (failWord 4)
    else
      let gen := ((x.slots.get t).gen + 1) % 2 ^ 16
      let s := s.modCtx ctx fun x => { x with slots := x.slots.set t { gen := gen, active := true, pages := [] } }
      reelWrite (takePages s ctx t n) c rd (BitVec.ofNat 64 gen))

/-- slot.retire, R362. -/
def execSlotRetire (rd rs1 : BitVec 5) (s : State) : Host.Outcome State Fault Refusal :=
  .next (reelRun s fun s c r =>
    let t := (r.xget rs1.toNat).toNat
    let ctx := (s.crew c).ctx
    let b := (s.ctx ctx).slots.get t
    if 255 < t then reelWrite s c rd (failWord 2)
    else if b.active = false then reelWrite s c rd (failWord 1)
    else
      let gone := b.pages.map fun p => ({ page := p, slot := t, gen := b.gen } : DrainPage)
      let s := s.modCtx ctx fun x =>
        { x with slots := x.slots.set t { gen := b.gen }, drain := x.drain ++ gone }
      reelWrite s c rd (BitVec.ofNat 64 b.gen))

/-- The queue whose work a crew is (R359). -/
def crewQueue (s : State) (c : Nat) : Queue := s.queues.get (s.ascents.get (ascentOf s c)).queue

/-- gp.rd, R362. -/
def execGpRd (rd rs1 : BitVec 5) (s : State) : Host.Outcome State Fault Refusal :=
  .next (reelRun s fun s c r =>
    let n := (r.xget rs1.toNat).toNat
    reelWrite s c rd (if 63 < n then failWord 2 else (crewQueue s c).gp.get n))

/-! ## The crew and its events -/

/-- ascent.done, R356: the end of the crew begins. -/
def execAscentDone (s : State) : Host.Outcome State Fault Refusal :=
  .next (reelRun s fun s c _ => startEnd s c none)

/-- Whether a kite is PARKED with the event that the reel has just taken (R370): its own parking's, which no
later parking has followed. -/
def parkedWith (s : State) (c : Nat) (r : Reel) : Bool :=
  let k := r.uevAgent
  let x := s.kite c k
  decide (k < 16) && x.st == .parked && r.uevPark && x.req.isNone &&
    !((s.crew c).events.any fun e => e.agent == k && e.park)

/-- RETURNING FROM A USER EVENT: the handler ends and the reel goes on at UEVEPC (R370). -/
def Reel.leaveEvent (r : Reel) : Reel := { r with uevAct := false, pc := r.uevEpc * 4, wait := .none }

/-- uev.ret, R370. -/
def execUevRet (rd rs1 : BitVec 5) (s : State) : Host.Outcome State Fault Refusal :=
  .next (reelRun s fun s c r =>
    let a := (r.xget rs1.toNat).toNat
    if r.uevAct = false then reelWrite s c rd (failWord 2)
    else if 1 < a then reelWrite s c rd (failWord 1)
    else
      let s := if parkedWith s c r then
          (if a = 0 then resumeKite s c r.uevAgent else killKite s c r.uevAgent)
        else s
      s.modReel c fun r => (r.xset rd.toNat 0).leaveEvent)

end Sys2Proof.Machine
end

