-- ==== Sys2Proof/Machine/Riscv.lean ====
section
/-!
DEFINITION. The RISC-V instructions of the reel (R2, R303, R366, R369): RV64I, M, A, Zicsr, Zifencei and the
supervisor instructions, as the RISC-V specifications define them.
Open points: logs 3 (DESIGN CHOICE, PRESUMED), 12 (DEDUCED).
-/
namespace Sys2Proof.Machine

/-! ## Arithmetic -/

/-- The sign-extended low 32 bits. -/
def sext32 (x : Word) : Word := sext x.toNat 32

/-- The immediate of an I-type or S-type word. -/
def imm12 (x : BitVec 12) : Word := sext x.toNat 12

/-- Division and remainder of RV64M, rounding towards zero: by zero, all ones and the dividend; of the most
negative number by −1, that number and 0. -/
def rvDiv (x y : Word) : Word := if y = 0 then BitVec.ofNat 64 (ones 64) else BitVec.ofInt 64 (x.toInt.tdiv y.toInt)
def rvRem (x y : Word) : Word := if y = 0 then x else BitVec.ofInt 64 (x.toInt.tmod y.toInt)
def rvDivu (x y : Word) : Word := if y = 0 then BitVec.ofNat 64 (ones 64) else BitVec.ofNat 64 (x.toNat / y.toNat)
def rvRemu (x y : Word) : Word := if y = 0 then x else BitVec.ofNat 64 (x.toNat % y.toNat)

/-- Bits 127 to 64 of a product. -/
def mulHigh (p : Int) : Word := BitVec.ofInt 64 (p / 2 ^ 64)

/-- The register-register operations. -/
def rvOpRun (k : RvOp) (x y : Word) : Word :=
  match k with
  | .add => x + y
  | .sub => x - y
  | .sll => x <<< (y.toNat % 64)
  | .slt => BitVec.ofNat 64 (decide (x.toInt < y.toInt)).toNat
  | .sltu => BitVec.ofNat 64 (decide (x.toNat < y.toNat)).toNat
  | .xor => x ^^^ y
  | .srl => x >>> (y.toNat % 64)
  | .sra => x.sshiftRight (y.toNat % 64)
  | .or => x ||| y
  | .and => x &&& y
  | .mul => x * y
  | .mulh => mulHigh (x.toInt * y.toInt)
  | .mulhsu => mulHigh (x.toInt * (y.toNat : Int))
  | .mulhu => mulHigh ((x.toNat : Int) * (y.toNat : Int))
  | .div => rvDiv x y
  | .divu => rvDivu x y
  | .rem => rvRem x y
  | .remu => rvRemu x y

/-- The low 32 bits, zero-extended and sign-extended, as operands of the operations on 32-bit words. -/
def lowU (x : Word) : Word := zext x.toNat 32

/-- The register-register operations on 32-bit words: the result sign-extended. -/
def rvOpWRun (k : RvOpW) (x y : Word) : Word :=
  match k with
  | .addw => sext32 (x + y)
  | .subw => sext32 (x - y)
  | .sllw => sext32 (x <<< (y.toNat % 32))
  | .srlw => sext32 (lowU x >>> (y.toNat % 32))
  | .sraw => (sext32 x).sshiftRight (y.toNat % 32)
  | .mulw => sext32 (x * y)
  | .divw => sext32 (rvDiv (sext32 x) (sext32 y))
  | .divuw => sext32 (rvDivu (lowU x) (lowU y))
  | .remw => sext32 (rvRem (sext32 x) (sext32 y))
  | .remuw => sext32 (rvRemu (lowU x) (lowU y))

/-- The register-immediate operations. -/
def rvImmRun (k : RvImm) (x y : Word) : Word :=
  match k with
  | .addi => x + y
  | .slti => rvOpRun .slt x y
  | .sltiu => rvOpRun .sltu x y
  | .xori => x ^^^ y
  | .ori => x ||| y
  | .andi => x &&& y

/-- The shifts by an immediate. -/
def rvShRun (k : RvSh) (x : Word) (n : Nat) : Word :=
  match k with | .sll => x <<< n | .srl => x >>> n | .sra => x.sshiftRight n

/-- The shifts of 32-bit words by an immediate. -/
def rvShRunW (k : RvSh) (x : Word) (n : Nat) : Word :=
  match k with | .sll => sext32 (x <<< n) | .srl => sext32 (lowU x >>> n) | .sra => (sext32 x).sshiftRight n

/-- The conditions of the branches. -/
def rvTaken (k : RvBr) (x y : Word) : Bool :=
  match k with
  | .beq => x == y
  | .bne => x != y
  | .blt => decide (x.toInt < y.toInt)
  | .bge => decide (y.toInt ≤ x.toInt)
  | .bltu => decide (x.toNat < y.toNat)
  | .bgeu => decide (y.toNat ≤ x.toNat)

/-! ## Transfers of control -/

/-- A jump: a target that is no multiple of 4 misaligns, on the jump itself; otherwise rd receives the address
of the next instruction. -/
def rvJump (s : State) (c : Nat) (rd : BitVec 5) (target : Word) : State :=
  let pc := (s.reelOf c).pc
  if target.toNat % 4 ≠ 0 then reelRaise s c 0 target
  else reelJump (s.modReel c fun r => r.xset rd.toNat (BitVec.ofNat 64 (pc + 4))) c target.toNat

/-- The pc as a word. -/
def Reel.pcWord (r : Reel) : Word := BitVec.ofNat 64 r.pc

/-- A conditional branch. -/
def rvBranch (s : State) (c : Nat) (r : Reel) (taken : Bool) (imm : BitVec 12) : State :=
  let target := r.pcWord + 2#64 * sext imm.toNat 12
  if !taken then reelNext s c
  else if target.toNat % 4 ≠ 0 then reelRaise s c 0 target
  else reelJump s c target.toNat

/-! ## Loads and stores -/

/-- The width of a load in bytes, and whether its result is sign-extended. -/
def rvLdBytes : RvLd → Nat | .b | .bu => 1 | .h | .hu => 2 | .w | .wu => 4 | .d => 8
def rvLdSigned : RvLd → Bool | .bu | .hu | .wu => false | _ => true

/-- The width of a store in bytes. -/
def rvStBytes : RvSt → Nat | .b => 1 | .h => 2 | .w => 4 | .d => 8

/-- A load of the reel into rd. -/
def rvLoad (s : State) (c : Nat) (k : RvLd) (rd : BitVec 5) (a : Word) : State :=
  if reelFixing s c then waitFixing s c
  else match reelLoad s c a.toNat (rvLdBytes k) with
  | .error e => raiseExc c e
  | .ok (v, s) => reelWrite s c rd (if rvLdSigned k then sext v (8 * rvLdBytes k) else zext v (8 * rvLdBytes k))

/-- A store of the reel. -/
def rvStore (s : State) (c : Nat) (k : RvSt) (a v : Word) : State :=
  match reelStore s c a.toNat (toBytes (rvStBytes k) v.toNat) with
  | .error e => raiseExc c e
  | .ok s => reelNext s c

/-! ## The A extension -/

/-- The address of an LR, SC or AMO on n bytes, checked (R303): aligned, translated, and not of host memory
unless `host` (R93); as a load for an LR. -/
def rvAmoCheck (s : State) (c : Nat) (a n : Nat) (lr host : Bool) : Except Exc (Nat × State) :=
  let tval := BitVec.ofNat 64 a
  let acc : XAcc := if lr then .load else .atomic
  if a % n ≠ 0 then .error { code := misCode acc, tval := tval, s := s }
  else
    match reelXlat s c a acc with
    | .error e => .error e
    | .ok (p, s) =>
      if pkind p.a = .host ∧ host = false then .error { code := accCode acc, tval := tval, s := s } else .ok (p.a, s)

/-- The release of an rl bit, and then the stores to the line that the reel may have read out of the way, or the wait
for either (R93, R297, R303). -/
def rvAmoReady (s : State) (c a : Nat) (rl : Bool) (k : State → State) : State :=
  let (s, out) := if rl then release s c 4 else (s, true)
  let s := clearLine s c (lineOf a)
  if !out || lineBusy s c [lineOf a] then reelWait s c .release else k s

/-- The acquire of an aq bit. -/
def rvAcquire (s : State) (c : Nat) (aq : Bool) : State := if aq then reelAcquire s c 4 else s

/-- The scope of the release that a write of the reel carries (R303, R305). -/
def Reel.rel (r : Reel) (rl : Bool) : Option Nat := if rl then some 4 else r.relNext

/-- The reel's atomic at its home: a write takes the release that a FENCE left. -/
def rvAtomic (s : State) (c a n : Nat) (rl : Bool) (g : Nat → Option Nat) : Nat × State :=
  let r := s.reelOf c
  let (old, s) := atomicAtHome s c a n g (r.rel rl)
  (old, match g old with
    | some _ => s.modReel c fun r => { r with relNext := none }
    | none => s)

/-- The value of n bytes that rd receives: sign-extended. -/
def rvExt (n v : Nat) : Word := sext v (8 * n)

/-- LR: the bytes are reserved. -/
def rvLr (s : State) (c n : Nat) (aq rl : Bool) (rd : BitVec 5) (a : Nat) : State :=
  match rvAmoCheck s c a n true false with
  | .error e => raiseExc c e
  | .ok (p, s) =>
    rvAmoReady s c p rl fun s =>
      let (old, s) := rvAtomic s c p n false fun _ => none
      let s := { s with resvs := s.resvs.set c { addr := p, n := n } }
      reelWrite (rvAcquire s c aq) c rd (rvExt n old)

/-- SC: it succeeds where the reservation of the same bytes still stands; it always ends the reservation. -/
def rvSc (s : State) (c n : Nat) (aq rl : Bool) (rd : BitVec 5) (a : Nat) (v : Word) : State :=
  match rvAmoCheck s c a n false false with
  | .error e => raiseExc c e
  | .ok (p, s) =>
    rvAmoReady s c p rl fun s =>
      let held := s.resvs.find c == some { addr := p, n := n }
      let s := { s with resvs := s.resvs.del c }
      if held then
        let (_, s) := rvAtomic s c p n rl fun _ => some (v.toNat % 2 ^ (8 * n))
        reelWrite (rvAcquire s c aq) c rd 0
      else reelWrite (rvAcquire s c aq) c rd 1

/-- The new value of an AMO on n bytes. -/
def rvAmoNew (k : RvAmo) (n old v : Nat) : Nat :=
  let so := toSigned (8 * n) old
  let sv := toSigned (8 * n) v
  match k with
  | .swap => v
  | .add => (old + v) % 2 ^ (8 * n)
  | .xor => old ^^^ v
  | .and => old &&& v
  | .or => old ||| v
  | .min => if so < sv then old else v
  | .max => if sv < so then old else v
  | .minu => if old < v then old else v
  | .maxu => if v < old then old else v

/-- The AMOs that host memory takes (R93). -/
def rvAmoOnHost : RvAmo → Bool | .add | .swap => true | _ => false

/-- An AMO: at the home of module and peer memory; at host memory the reel waits for its completion. -/
def rvAmo (s : State) (c : Nat) (k : RvAmo) (n : Nat) (aq rl : Bool) (rd : BitVec 5) (a : Nat) (v : Word) : State :=
  match (s.reelOf c).wait with
  | .atomicOp _ => s
  | .result w => reelWrite s c rd w
  | _ =>
    match rvAmoCheck s c a n false (rvAmoOnHost k) with
    | .error e => raiseExc c e
    | .ok (p, s) =>
      rvAmoReady s c p rl fun s =>
        if pkind p = .host then reelWait s c (.atomicOp p)
        else
          let (old, s) := rvAtomic s c p n rl fun old => some (rvAmoNew k n old (v.toNat % 2 ^ (8 * n)))
          reelWrite (rvAcquire s c aq) c rd (rvExt n old)

/-! ## Control and status registers -/

/-- sstatus: SIE, SPIE, SPP, SUM and MXR; zero at launch (R369). -/
def Reel.sstatus (r : Reel) : Nat :=
  2 * r.sie.toNat + 2 ^ 5 * r.spie.toNat + 2 ^ 8 * r.spp.toNat + 2 ^ 18 * r.sum.toNat + 2 ^ 19 * r.mxr.toNat

/-- The value of a register, where there is one of that number (R333, R366, R369). -/
def Reel.csrGet (r : Reel) (n : Nat) : Option Word :=
  let num := fun (x : Nat) => some (BitVec.ofNat 64 x)
  match n with
  | 0x800 => num (4 * r.uev)
  | 0x801 => num (2 ^ 63 * r.uevAct.toNat + r.uevCause)
  | 0x802 => num (2 ^ 16 * r.uevAddr + r.uevAgent)
  | 0x803 => num (4 * r.uevEpc)
  | 0x100 => num r.sstatus
  | 0x105 => some r.stvec
  | 0x140 => some r.sscratch
  | 0x141 => some r.sepc
  | 0x142 => some r.scause
  | 0x143 => some r.stval
  | 0x104 | 0x144 | 0x180 | 0x106 | 0x10A => some 0
  | _ => none

/-- The reel after a write of a register; a field that is read-only keeps its value. -/
def Reel.csrSet (r : Reel) (n : Nat) (w : Word) : Reel :=
  let v := w.toNat
  match n with
  | 0x800 => { r with uev := v / 4 }
  | 0x803 => { r with uevEpc := v / 4 }
  | 0x100 => { r with sie := bit v 1, spie := bit v 5, spp := bit v 8, sum := bit v 18, mxr := bit v 19 }
  | 0x105 => { r with stvec := BitVec.ofNat 64 (if 2 ≤ v % 4 then v / 4 * 4 else v) }
  | 0x140 => { r with sscratch := w }
  | 0x141 => { r with sepc := BitVec.ofNat 64 (v / 4 * 4) }
  | 0x142 => { r with scause := w }
  | 0x143 => { r with stval := w }
  | _ => r

/-- Whether a register may be accessed: from its mode up, and not written where its number is read-only. -/
def csrAllowed (r : Reel) (n : Nat) (write : Bool) : Bool :=
  (bits n 9 8 == 0 || (bits n 9 8 == 1 && r.sup)) && !(write && bits n 11 10 == 3)

/-- A Zicsr instruction: `src` is the operand, `reg` the number of its register or the immediate. -/
def rvCsr (s : State) (c : Nat) (i : Rv) (k : RvCsr) (rd : BitVec 5) (src : Word) (reg : BitVec 5) (n : Nat) : State :=
  let r := s.reelOf c
  let write := k == .rw || reg != 0
  match if csrAllowed r n write then r.csrGet n else none with
  | none => reelIllegal s c (encodeRv i)
  | some old =>
    let new := match k with | .rw => src | .rs => old ||| src | .rc => old &&& ~~~src
    let s := if write then s.modReel c fun r => r.csrSet n new else s
    reelWrite s c rd old

/-! ## System instructions -/

/-- The reel after an sret: to the mode of SPP, at sepc (R369). -/
def Reel.leaveSup (r : Reel) : Reel :=
  { r with sup := r.spp, sie := r.spie, spie := true, spp := false, pc := r.sepc.toNat, wait := .none }

/-- The FENCE of a predecessor and a successor set (R303): bit 0 is W and bit 1 is R. -/
def rvFence (s : State) (c : Nat) (pred succ : BitVec 4) : State :=
  let acq := fun (s : State) => if succ.getLsbD 0 || succ.getLsbD 1 then reelAcquire s c 4 else s
  if pred.getLsbD 0 then
    reelRelease s c 4 fun s => reelNext ((acq s).modReel c fun r => { r with relNext := some 4 }) c
  else reelNext (acq s) c

/-- FENCE.I: the instruction cache is emptied (R54). -/
def rvFenceI (s : State) (c : Nat) : State := reelNext (s.modCore c fun k => { k with ic := [] }) c

/-- An instruction of RISC-V on the reel of a core. -/
def rvRun (i : Rv) (s : State) (c : Nat) (r : Reel) : State :=
  match i with
  | .lui rd imm => reelWrite s c rd (sext (imm.toNat * 2 ^ 12) 32)
  | .auipc rd imm => reelWrite s c rd (r.pcWord + sext (imm.toNat * 2 ^ 12) 32)
  | .jal rd imm => rvJump s c rd (r.pcWord + 2#64 * sext imm.toNat 20)
  | .jalr rd rs1 imm => rvJump s c rd ((r.xget rs1.toNat + imm12 imm) &&& ~~~1#64)
  | .branch k rs1 rs2 imm => rvBranch s c r (rvTaken k (r.xget rs1.toNat) (r.xget rs2.toNat)) imm
  | .load k rd rs1 imm => rvLoad s c k rd (r.xget rs1.toNat + imm12 imm)
  | .store k rs1 rs2 imm => rvStore s c k (r.xget rs1.toNat + imm12 imm) (r.xget rs2.toNat)
  | .opImm k rd rs1 imm => reelWrite s c rd (rvImmRun k (r.xget rs1.toNat) (imm12 imm))
  | .shImm k rd rs1 sh => reelWrite s c rd (rvShRun k (r.xget rs1.toNat) sh.toNat)
  | .addiw rd rs1 imm => reelWrite s c rd (sext32 (r.xget rs1.toNat + imm12 imm))
  | .shImmW k rd rs1 sh => reelWrite s c rd (rvShRunW k (r.xget rs1.toNat) sh.toNat)
  | .op k rd rs1 rs2 => reelWrite s c rd (rvOpRun k (r.xget rs1.toNat) (r.xget rs2.toNat))
  | .opW k rd rs1 rs2 => reelWrite s c rd (rvOpWRun k (r.xget rs1.toNat) (r.xget rs2.toNat))
  | .fence _ pred succ _ _ => rvFence s c pred succ
  | .fenceI _ _ _ => rvFenceI s c
  | .ecall => reelRaise s c (if r.sup then 9 else 8) 0
  | .ebreak => reelRaise s c 3 (Config.breakTval r.pc)
  | .sret => if r.sup then s.modReel c Reel.leaveSup else reelIllegal s c (encodeRv i)
  | .wfi => reelNext s c
  | .sfenceVma _ _ => if r.sup then reelNext s c else reelIllegal s c (encodeRv i)
  | .csr k imm rd rs1 n =>
    rvCsr s c i k rd (if imm then BitVec.ofNat 64 rs1.toNat else r.xget rs1.toNat) rs1 n.toNat
  | .lr dbl aq rl rd rs1 => rvLr s c (if dbl then 8 else 4) aq rl rd (r.xget rs1.toNat).toNat
  | .sc dbl aq rl rd rs1 rs2 =>
    rvSc s c (if dbl then 8 else 4) aq rl rd (r.xget rs1.toNat).toNat (r.xget rs2.toNat)
  | .amo k dbl aq rl rd rs1 rs2 =>
    rvAmo s c k (if dbl then 8 else 4) aq rl rd (r.xget rs1.toNat).toNat (r.xget rs2.toNat)

/-- RISC_V_INSTRUCTION, R2, R303. -/
def execRiscVInstruction (i : Rv) (s : State) : Host.Outcome State Fault Refusal :=
  .next (reelRun s (rvRun i))

end Sys2Proof.Machine
end

