-- ==== Sys2Proof/Machine/ScalarMem.lean ====
section
/-!
DEFINITION. Scalar loads and stores, atomics and fences of a kite (R88 to R99, R305, R306).
Open points: logs 10 (DEDUCED), 28 (DEDUCED).
-/
namespace Sys2Proof.Machine

/-! ## Loads and stores -/

/-- The width of a scalar access in bytes (R88). -/
def accessBytes (f : Fields) : Nat := 2 ^ (f.ty.toNat % 4)

/-- extend of R89 and R92: an S type extends the sign, an N type zeros. -/
def extendTy (ty n x : Nat) : Word := if ty < 4 then sext x (8 * n) else zext x (8 * n)

/-- ld, R89, R90. -/
def execLd (f : Fields) (s : State) : Host.Outcome State Fault Refusal :=
  .next (issue (.ld f) s fun s c k x =>
    let n := accessBytes f
    match kiteLoad s c k (x.memAddr f.b) n f.rd.toNat with
    | .error e => e.res
    | .ok (v, s) => .done (s.modKite c k fun y => y.sset (opdValue f.a) (extendTy f.ty.toNat n v)))

/-- st, R89, R90. -/
def execSt (f : Fields) (s : State) : Host.Outcome State Fault Refusal :=
  .next (issue (.st f) s fun s c k x =>
    match kiteStore s c k (x.memAddr f.a) (accessBytes f) (x.opd f.b).toNat with
    | .error e => e.res
    | .ok s => .done s)

/-- ldsp, R89. -/
def execLdsp (f : Fields) (s : State) : Host.Outcome State Fault Refusal :=
  .next (issue (.ldsp f) s fun s c k x =>
    let n := accessBytes f
    match spLoad s c k f.fn.toNat (x.memAddr f.b) n with
    | .error e => e.res
    | .ok (v, s) => .done (s.modKite c k fun y => y.sset (opdValue f.a) (extendTy f.ty.toNat n v)))

/-- stsp, R89. -/
def execStsp (f : Fields) (s : State) : Host.Outcome State Fault Refusal :=
  .next (issue (.stsp f) s fun s c k x =>
    match spStore s c k f.fn.toNat (x.memAddr f.a) (accessBytes f) (x.opd f.b).toNat with
    | .error e => e.res
    | .ok s => .done s)

/-! ## Atomics -/

/-- The functions of amo (R92). -/
inductive AmoFn where | add | and | or | xor | min | max | minn | maxn | swap
  deriving DecidableEq, Repr

/-- The new value of an amo on n bytes, from the old value and s[A] truncated (R92). -/
def AmoFn.new (g : AmoFn) (n old v : Nat) : Nat :=
  let so := toSigned (8 * n) old
  let sv := toSigned (8 * n) v
  match g with
  | .add => (old + v) % 2 ^ (8 * n)
  | .and => old &&& v
  | .or => old ||| v
  | .xor => old ^^^ v
  | .min => if so < sv then old else v
  | .max => if sv < so then old else v
  | .minn => if old < v then old else v
  | .maxn => if v < old then old else v
  | .swap => v

/-- The functions that host memory takes as AtomicOps (R93). -/
def AmoFn.onHost : AmoFn → Bool | .add | .swap => true | _ => false

/-- The scope and the space of an atomic, and its order bits (R91). -/
def amoScope (f : Fields) : Nat := opdValue f.c % 8
def amoSpace (f : Fields) : Nat := opdValue f.c / 16 % 8
def amoAcq (f : Fields) : Bool := f.xf.toNat % 4 == 1 || f.xf.toNat % 4 == 3
def amoRel (f : Fields) : Bool := 2 ≤ f.xf.toNat % 4

/-- The wider of two release scopes that one write carries. -/
def relMax : Option Nat → Option Nat → Option Nat
  | some a, some b => some (max a b)
  | some a, none => some a
  | none, b => b

/-- The record of the line or bank line on which an atomic acts. -/
def atomicRec (s : State) (c : Nat) : AtomicAt → Option RelRec
  | .bank sp a => spRec s c sp (a / 64)
  | .home a => lineRec s (lineOf a)

/-- The end of an atomic of a kite, at its home: the old value returned to s[A], the record joined to the
strip, and the acquire part (R92, R94, R305). -/
def atomicFinish (s : State) (c k : Nat) (f : Fields) (r : Option RelRec) (v : Word) : State :=
  let s := (noteRead s c k r).modKite c k fun y => y.sset (opdValue f.a) v
  if amoAcq f then kiteAcquire (checkScope s c k (amoScope f) r) c k (amoScope f) else s

/-- An atomic on n bytes: `g` gives the new value from the old one, `host` whether host memory takes it, `ext`
the value that s[A] receives from the old one (R92 to R96, R99). -/
def runAtomic (i : Instr) (f : Fields) (n : Nat) (host : Bool) (g : Kite → Nat → Option Nat) (ext : Nat → Word)
    (s : State) : Host.Outcome State Fault Refusal :=
  .next (issue i s fun s c k x =>
    match atomicCheck s c k (amoSpace f) (x.memAddr f.b) n host with
    | .error e => e.res
    | .ok (t, s) =>
      let s := if f.xf = 0 then s else closeStrip s c k
      let (s, out) := if amoRel f then release s c (amoScope f) else (s, true)
      if !out then .wait s .release
      else
        match t with
        | .bank sp a =>
          let (rel, s) := takeRel s c k
          let r := atomicRec s c t
          let (old, s) := atomicAtBank s c sp a n (g x) (relMax (if amoRel f then some (amoScope f) else none) rel)
          .done (atomicFinish s c k f r (ext old))
        | .home a =>
          let s := clearLine s c (lineOf a)
          if lineBusy s c [lineOf a] then .wait s .release
          else if pkind a = .host then .wait s (.atomicOp a)
          else
            let (rel, s) := takeRel s c k
            let r := atomicRec s c t
            let (old, s) := atomicAtHome s c a n (g x) (relMax (if amoRel f then some (amoScope f) else none) rel)
            .done (atomicFinish s c k f r (ext old)))

/-- The width of an amo or a cas (R92). -/
def amoBytes (f : Fields) : Nat := if f.ty.toNat % 4 = 2 then 4 else 8

/-- What an amo writes. -/
def amoWrites (f : Fields) (g : AmoFn) (x : Kite) (old : Nat) : Option Nat :=
  some (g.new (amoBytes f) old ((x.opd f.a).toNat % 2 ^ (8 * amoBytes f)))

/-- What a cas writes: the new value of s[A + 1] where the old one is s[A]. -/
def casWrites (f : Fields) (x : Kite) (old : Nat) : Option Nat :=
  let m := 2 ^ (8 * amoBytes f)
  if old = (x.opd f.a).toNat % m then some ((x.sget (opdValue f.a + 1)).toNat % m) else none

/-- What a famo writes (R96). -/
def famoWrites (f : Fields) (x : Kite) (old : Nat) : Option Nat :=
  let n := if f.fn = 1 then 2 else 4
  some (famoNew f.fn.toNat old ((x.opd f.a).toNat % 2 ^ (8 * n)))

/-- The value that s[A] receives from the old one. -/
def amoResult (f : Fields) (old : Nat) : Word := extendTy f.ty.toNat (amoBytes f) old

/-- An amo. -/
def runAmo (i : Instr) (f : Fields) (g : AmoFn) (s : State) : Host.Outcome State Fault Refusal :=
  runAtomic i f (amoBytes f) g.onHost (amoWrites f g) (amoResult f) s

/-- A famo: relaxed, the old value zero-extended. -/
def runFamo (i : Instr) (f : Fields) (s : State) : Host.Outcome State Fault Refusal :=
  let n := if f.fn = 1 then 2 else 4
  runAtomic i f n false (famoWrites f) (fun old => zext old (8 * n)) s

/-- amo.add, R92. -/
def execAmoAdd (f : Fields) (s : State) := runAmo (.amoAdd f) f .add s
/-- amo.and, R92. -/
def execAmoAnd (f : Fields) (s : State) := runAmo (.amoAnd f) f .and s
/-- amo.or, R92. -/
def execAmoOr (f : Fields) (s : State) := runAmo (.amoOr f) f .or s
/-- amo.xor, R92. -/
def execAmoXor (f : Fields) (s : State) := runAmo (.amoXor f) f .xor s
/-- amo.min, R92. -/
def execAmoMin (f : Fields) (s : State) := runAmo (.amoMin f) f .min s
/-- amo.max, R92. -/
def execAmoMax (f : Fields) (s : State) := runAmo (.amoMax f) f .max s
/-- amo.minn, R92. -/
def execAmoMinn (f : Fields) (s : State) := runAmo (.amoMinn f) f .minn s
/-- amo.maxn, R92. -/
def execAmoMaxn (f : Fields) (s : State) := runAmo (.amoMaxn f) f .maxn s
/-- amo.swap, R92. -/
def execAmoSwap (f : Fields) (s : State) := runAmo (.amoSwap f) f .swap s
/-- cas, R92. -/
def execCas (f : Fields) (s : State) := runAtomic (.cas f) f (amoBytes f) true (casWrites f) (amoResult f) s
/-- famo.add.f32, R96. -/
def execFamoAddF32 (f : Fields) (s : State) := runFamo (.famoAddF32 f) f s
/-- famo.add.bf16, R96. -/
def execFamoAddBf16 (f : Fields) (s : State) := runFamo (.famoAddBf16 f) f s
/-- famo.min.f32, R96. -/
def execFamoMinF32 (f : Fields) (s : State) := runFamo (.famoMinF32 f) f s
/-- famo.max.f32, R96. -/
def execFamoMaxF32 (f : Fields) (s : State) := runFamo (.famoMaxF32 f) f s

/-! ## Fences -/

/-- The acquire part of a fence (R98, R305): every record that the closing strip met is checked, then the
acquire of R94. -/
def fenceAcquire (s : State) (c k scope : Nat) : State :=
  let s := (s.kite c k).reads.foldl (fun s r => checkScope s c k scope (some r)) s
  kiteAcquire s c k scope

/-- The kite's next store or atomic carries a release at the scope (R305). -/
def leaveRelease (s : State) (c k scope : Nat) : State :=
  s.modKite c k fun x => { x with relNext := relMax (some scope) x.relNext }

/-- A fence with a release part, an acquire part, or both (R98). -/
def runFence (i : Instr) (f : Fields) (rel acq : Bool) (s : State) : Host.Outcome State Fault Refusal :=
  .next (issue i s fun s c k _ =>
    let scope := opdValue f.a
    let s := flushPend s c k
    let (s, out) := if rel then release s c scope else (s, true)
    if !out then .wait s .release
    else
      let s := if acq then fenceAcquire s c k scope else s
      let s := closeStrip s c k
      .done (if rel then leaveRelease s c k scope else s))

/-- fence.full, R98. -/
def execFenceFull (f : Fields) (s : State) := runFence (.fenceFull f) f true true s
/-- fence.rel, R98. -/
def execFenceRel (f : Fields) (s : State) := runFence (.fenceRel f) f true false s
/-- fence.acq, R98. -/
def execFenceAcq (f : Fields) (s : State) := runFence (.fenceAcq f) f false true s
/-- fence.strip, R98. -/
def execFenceStrip (f : Fields) (s : State) := runFence (.fenceStrip f) f false false s

end Sys2Proof.Machine
end

