-- ==== Sys2Proof/Machine/VecMem.lean ====
section
/-!
DEFINITION. Vector memory (R206 to R213), stream binding (R214, R216), and memory-to-memory streams (R217 to
R219).
Open points: logs 11 (DEDUCED), 15 (DEDUCED), 16 (DEDUCED).
-/
namespace Sys2Proof.Machine

/-! ## Addresses -/

/-- The stride of R209: the element width, a scalar or an immediate. -/
def strideOf (f : Fields) (ctx : VCtx) (w : Nat) : Word :=
  match f.c with | .none => BitVec.ofNat 64 w | _ => ctx.sc

/-- The taken elements (R207): active, with their guard bit 1. -/
def VCtx.taken (ctx : VCtx) (ty : Nat) : List Nat := (List.range (ctx.count ty)).filter ctx.on

/-- Element i at base + i × d, modulo 2^64. -/
def strided (base : Nat) (d : Word) (n i : Nat) : VAddr :=
  { i := i, a := (BitVec.ofNat 64 base + BitVec.ofNat 64 i * d).toNat, n := n }

/-- The space of the indexed and block forms, XF[3:1]. -/
def xfSpaceOf (f : Fields) : Nat := f.xf.toNat / 2

/-! ## Loads -/

/-- The elements of a vector load whose checks have passed, or its fault or wait. -/
def vecPlan (s : State) (c k space align : Nat) (vs : List VAddr) : Except KFail (List (VAddr × List Xlat)) :=
  match checkAll s c k space align false vs with
  | .error e => .error e
  | .ok bs =>
    match vecFixing s c k space with
    | some w => .error (.wait s w)
    | none => .ok bs

/-- The elements of a vector load, or its fault or wait. -/
def vecLoad (s : State) (c k space align rd : Nat) (vs : List VAddr) :
    Except KFail (List (Nat × Nat) × State) :=
  match vecPlan s c k space align vs with
  | .error e => .error e
  | .ok bs => .ok (vecReadAll s c k space rd bs)

/-- Element i among some that were read. -/
def readElem (es : List (Nat × Nat)) (i : Nat) : Option Nat := (es.find? fun e => e.1 == i).map (·.2)

/-- The state with loaded elements in v[A]; `ok` gives the validity of element i. -/
def loadInto (s : State) (c k : Nat) (f : Fields) (ctx : VCtx) (es : List (Nat × Nat)) (ok : Nat → Bool) : State :=
  let ty := f.ty.toNat
  s.modKite c k fun x =>
    (x.writeVec (opdValue f.a) ty (ctx.count ty) none fun i =>
      (readElem es i).map fun v => { v := v, ok := ok i }).1

/-- The addresses of vld (R209). -/
def vldAddrs (f : Fields) (x : Kite) (ctx : VCtx) : List VAddr :=
  let ty := f.ty.toNat
  let w := widthOf ty / 8
  (ctx.taken ty).map (strided (x.memAddr f.b) (strideOf f ctx w) w)

/-- vld, R209. -/
def vldMem (f : Fields) (s : State) (c k : Nat) (ctx : VCtx) : Except KFail (State × Nat) :=
  match vecLoad s c k f.fn.toNat (widthOf f.ty.toNat / 8) f.rd.toNat (vldAddrs f (s.kite c k) ctx) with
  | .error e => .error e
  | .ok (es, s) => .ok (loadInto s c k f ctx es fun _ => true, 0)

/-- vld whose data comes later. -/
def vldPlan (f : Fields) (s : State) (c k : Nat) (ctx : VCtx) : Except KFail (HeldLoad × State) :=
  match vecPlan s c k f.fn.toNat (widthOf f.ty.toNat / 8) (vldAddrs f (s.kite c k) ctx) with
  | .error e => .error e
  | .ok bs => .ok (holdElems f.fn.toNat f.rd.toNat bs fun _ => true, s)

/-- The type of an index register: S32, or S64 with XF[0] (R210). -/
def indexTy (f : Fields) : Nat := if bit f.xf.toNat 0 then 3 else 2

/-- The index elements of vldx and vstx by element (R210): the manual does not say what an index beyond the
capacity of its register holds, so it is a free value (log 2). -/
def indexElem (s : State) (c k : Nat) (f : Fields) (i : Nat) : Elem :=
  let x := s.kite c k
  let ty := indexTy f
  if i < capOf x.mvlb ty then x.velem ty (opdValue f.c) i
  else { v := Config.freeNat (s.draws + i) % 2 ^ widthOf ty }

/-- The state after the free values of the index elements, if there were any. -/
def indexDrawn (s : State) (c k n : Nat) (f : Fields) : State :=
  if n ≤ capOf (s.kite c k).mvlb (indexTy f) then s else { s with draws := s.draws + n }

/-- Element i at base + its signed index, modulo 2^64. -/
def indexed (base : Nat) (ty n : Nat) (e : Nat → Elem) (i : Nat) : VAddr :=
  { i := i, a := (BitVec.ofNat 64 base + sext (e i).v (widthOf ty)).toNat, n := n }

/-- vldx, R210. -/
def vldxMem (f : Fields) (s : State) (c k : Nat) (ctx : VCtx) : Except KFail (State × Nat) :=
  let ty := f.ty.toNat
  let w := widthOf ty / 8
  let base := (s.kite c k).memAddr f.b
  let e := indexElem s c k f
  let s := indexDrawn s c k (ctx.count ty) f
  match vecLoad s c k (xfSpaceOf f) w f.rd.toNat ((ctx.taken ty).map (indexed base (indexTy f) w e)) with
  | .error e => .error e
  | .ok (es, s) => .ok (loadInto s c k f ctx es fun i => (e i).ok, 0)

/-- vldx whose data comes later. -/
def vldxPlan (f : Fields) (s : State) (c k : Nat) (ctx : VCtx) : Except KFail (HeldLoad × State) :=
  let ty := f.ty.toNat
  let w := widthOf ty / 8
  let base := (s.kite c k).memAddr f.b
  let e := indexElem s c k f
  let s := indexDrawn s c k (ctx.count ty) f
  match vecPlan s c k (xfSpaceOf f) w ((ctx.taken ty).map (indexed base (indexTy f) w e)) with
  | .error e => .error e
  | .ok bs => .ok (holdElems (xfSpaceOf f) f.rd.toNat bs fun i => (e i).ok, s)

/-- The elements that pass the checks of R207 before the first that does not (R211). -/
def passing (s : State) (c k w : Nat) : List VAddr → List (VAddr × List Xlat)
  | [] => []
  | v :: vs =>
    match checkElems s c k 0 w false [v] with
    | .ok [b] => b :: passing s c k w vs
    | _ => []

/-- vldff whose data comes later: its checks, and the elements before the first that fails them (R211). -/
def vldffPlan (f : Fields) (s : State) (c k : Nat) (ctx : VCtx) : Except KFail (HeldLoad × State) :=
  let ty := f.ty.toNat
  let w := widthOf ty / 8
  let vs := (ctx.taken ty).map (strided ((s.kite c k).memAddr f.b) (BitVec.ofNat 64 w) w)
  match checkAll s c k 0 w false (vs.take 1) with
  | .error e => .error e
  | .ok _ =>
    match vecFixing s c k 0 with
    | some w => .error (.wait s w)
    | none => .ok (holdElems 0 f.rd.toNat (passing s c k w vs) fun _ => true, s)

/-- The state with the elements that a vldff has loaded, and p[C], which says which they are. -/
def vldffInto (s : State) (c k : Nat) (f : Fields) (ctx : VCtx) (es : List (Nat × Nat)) : State :=
  (loadInto s c k f ctx es fun _ => true).modKite c k fun x =>
    x.writePred (opdValue f.c) (ctx.count f.ty.toNat) fun i => some (readElem es i).isSome

/-- vldff, R211. -/
def vldffMem (f : Fields) (s : State) (c k : Nat) (ctx : VCtx) : Except KFail (State × Nat) :=
  match vldffPlan f s c k ctx with
  | .error e => .error e
  | .ok (h, s) =>
    let (es, s) := vecReadAll s c k 0 f.rd.toNat h.reads
    .ok (vldffInto s c k f ctx es, 0)

/-! ## Stores -/

/-- The bytes that checked elements write, where `val` gives one. -/
def storeElems (bs : List (VAddr × List Xlat)) (val : Nat → Option Nat) : List VByte :=
  bs.flatMap fun b =>
    match val b.1.i with
    | none => []
    | some v => b.2.zipIdx.map fun x => { x := x.1, value := v >>> (8 * x.2) % 256, va := b.1.a, i := b.1.i }

/-- A vector store of some taken elements: all are checked before any byte is written; `val` gives the value
of an element that is written. -/
def vecWrite (s : State) (c k space align : Nat) (vs : List VAddr) (val : Nat → Option Nat) :
    Except KFail (State × Nat) :=
  match checkAll s c k space align true vs with
  | .error e => .error e
  | .ok bs =>
    let ws := storeElems bs val
    match vecReserve s c k space ws with
    | .error e => .error e
    | .ok s => .ok (vecStore s c k space ws, 0)

/-- The element that a store writes: none in an invalid block (R208). -/
def Kite.storeVal (x : Kite) (f : Fields) (i : Nat) : Option Nat :=
  let e := x.velem f.ty.toNat (opdValue f.b) i
  if e.ok then some e.v else none

/-- vst, R209. -/
def vstMem (f : Fields) (s : State) (c k : Nat) (ctx : VCtx) : Except KFail (State × Nat) :=
  let ty := f.ty.toNat
  let w := widthOf ty / 8
  let x := s.kite c k
  vecWrite s c k f.fn.toNat w ((ctx.taken ty).map (strided (x.memAddr f.a) (strideOf f ctx w) w)) (x.storeVal f)

/-- vstx, R210: an element whose index lies in an invalid block is not written. -/
def vstxMem (f : Fields) (s : State) (c k : Nat) (ctx : VCtx) : Except KFail (State × Nat) :=
  let ty := f.ty.toNat
  let w := widthOf ty / 8
  let x := s.kite c k
  let e := indexElem s c k f
  let s := indexDrawn s c k (ctx.count ty) f
  vecWrite s c k (xfSpaceOf f) w ((ctx.taken ty).map (indexed (x.memAddr f.a) (indexTy f) w e)) fun i =>
    if (e i).ok then x.storeVal f i else none

/-! ## Blocks of E2M1B -/

/-- A byte of a block access (R212): whether it is a code byte, a scale or a spare, and its element or block. -/
inductive BlockByte where | code (i : Nat) | scale (b : Nat) | spare (b : Nat)
  deriving DecidableEq, Repr

/-- The bytes of vldb and vstb with their addresses, in the order of their checks (R212). -/
def blockBytes (ctx : VCtx) (base arr : Nat) (nsp : Bool) : List (BlockByte × VAddr) :=
  (List.range (ctx.count 8)).flatMap fun i =>
    if !(ctx.on i) then []
    else
      let code := (BlockByte.code i, ({ i := i, a := (base + i / 2) % 2 ^ 64 } : VAddr))
      if i % 32 ≠ 0 then [code]
      else
        let b := i / 32
        let at_ := fun (o : Nat) => ({ i := i, a := (arr + o) % 2 ^ 64 } : VAddr)
        if nsp then [code, (.scale b, at_ b)]
        else [code, (.scale b, at_ (2 * b)), (.spare b, at_ (2 * b + 1))]

/-- The checks of a block access: ORPHAN, the two alignments, then byte by byte (R207, R212). -/
def blockCheck (s : State) (c k space base arr : Nat) (nsp store : Bool) (vs : List VAddr) :
    Except KFail (List (VAddr × List Xlat)) :=
  let x := s.kite c k
  match vs with
  | [] => .ok []
  | v :: _ =>
    if space = 0 && kiteOrphan s c x then .error (.trap s (orphanTrap x v.a) none)
    else if base % 16 ≠ 0 then .error (.trap s (trapAt 0x03 base 0) none)
    else if !nsp && arr % 2 != 0 then .error (.trap s (trapAt 0x03 arr 0) none)
    else checkElems s c k space 1 store vs

/-- vldb's block validity: 0 for scale 0xFF; else 1, with the old bit where the block keeps an element. -/
def blockLoadedValid (old : Bool) (mvlb : Nat) (ctx : VCtx) (b scale : Nat) : Bool :=
  let keeps := (List.range 32).any fun j =>
    let i := 32 * b + j
    decide (i < capOf mvlb 8) && !(decide (i < ctx.count 8) && ctx.on i)
  scale != 255 && (!keeps || old)

/-- A register with one loaded byte of a block in place. -/
def VReg.putBlock (r : VReg) (mvlb : Nat) (ctx : VCtx) (nsp : Bool) (k : BlockByte) (v : Nat) : VReg :=
  match k with
  | .code i => { r with data := setBits r.data (4 * i) 4 (v >>> (4 * (i % 2))) }
  | .scale b =>
    { r with scale := setBits r.scale (8 * b) 8 v, spare := if nsp then setBits r.spare (8 * b) 8 0 else r.spare
             inval := setBit r.inval b !(blockLoadedValid (r.valid b) mvlb ctx b v) }
  | .spare b => { r with spare := setBits r.spare (8 * b) 8 v }

/-- The bytes of vldb whose checks have passed, or its fault or wait. -/
def vldbChecked (f : Fields) (s : State) (c k : Nat) (ctx : VCtx) : Except KFail (List (VAddr × List Xlat)) :=
  let nsp := bit f.xf.toNat 0
  let base := (s.kite c k).memAddr f.b
  let arr := ctx.sc.toNat
  match blockCheck s c k (xfSpaceOf f) base arr nsp false ((blockBytes ctx base arr nsp).map (·.2)) with
  | .error e => .error e
  | .ok bs =>
    match vecFixing s c k (xfSpaceOf f) with
    | some w => .error (.wait s w)
    | none => .ok bs

/-- The kite with the bytes of vldb in v[A], in the order of `blockBytes` (R212). -/
def Kite.putBlocks (y : Kite) (f : Fields) (ctx : VCtx) (es : List Nat) : Kite :=
  let nsp := bit f.xf.toNat 0
  let a := opdValue f.a
  let ks := (blockBytes ctx 0 0 nsp).map (·.1)
  let r := (ks.zip es).foldl (fun (r : VReg) e => r.putBlock y.mvlb ctx nsp e.1 e.2) (y.vget a)
  y.vset a { r with tag := 8, link := none }

/-- vldb, R212. -/
def vldbMem (f : Fields) (s : State) (c k : Nat) (ctx : VCtx) : Except KFail (State × Nat) :=
  match vldbChecked f s c k ctx with
  | .error e => .error e
  | .ok bs =>
    let (es, s) := vecReadAll s c k (xfSpaceOf f) f.rd.toNat bs
    .ok (s.modKite c k fun y => y.putBlocks f ctx (es.map (·.2)), 0)

/-- vldb whose data comes later. -/
def vldbPlan (f : Fields) (s : State) (c k : Nat) (ctx : VCtx) : Except KFail (HeldLoad × State) :=
  match vldbChecked f s c k ctx with
  | .error e => .error e
  | .ok bs => .ok (holdElems (xfSpaceOf f) f.rd.toNat bs fun _ => true, s)

/-- The value and the mask of a byte that vstb writes. -/
def VReg.blockByte (r : VReg) : BlockByte → Nat × Nat
  | .code i => (r.elem 8 i <<< (4 * (i % 2)), 15 <<< (4 * (i % 2)))
  | .scale b => (if r.valid b then r.scaleAt b else 255, 255)
  | .spare b => (r.spareAt b, 255)

/-- vstb, R212: the codes of invalid blocks are written too. -/
def vstbMem (f : Fields) (s : State) (c k : Nat) (ctx : VCtx) : Except KFail (State × Nat) :=
  let x := s.kite c k
  let nsp := bit f.xf.toNat 0
  let base := x.memAddr f.a
  let arr := ctx.sc.toNat
  let ks := blockBytes ctx base arr nsp
  match blockCheck s c k (xfSpaceOf f) base arr nsp true (ks.map (·.2)) with
  | .error e => .error e
  | .ok bs =>
    let r := x.vget (opdValue f.b)
    let ws := (ks.zip bs).flatMap fun e =>
      let (v, m) := r.blockByte e.1.1
      e.2.2.map fun p => { x := p, value := v, mask := m, va := e.2.1.a, i := e.2.1.i }
    match vecReserve s c k (xfSpaceOf f) ws with
    | .error e => .error e
    | .ok s => .ok (vecStore s c k (xfSpaceOf f) ws, 0)

/-! ## Binding -/

/-- vbind, R214: no access is made; a fifth binding is ILLEGAL_OP. -/
def vbindMem (f : Fields) (s : State) (c k : Nat) (ctx : VCtx) : Except KFail (State × Nat) :=
  let x := s.kite c k
  let a := opdValue f.a
  if (x.binds.find a).isNone && decide (4 ≤ x.binds.length) then .error (.trap s (trapAt 0x01 x.addr 0) none)
  else
    let b : Bind :=
      { addr := x.memAddr f.b, ty := f.ty.toNat, xf := f.xf.toNat
        aux := match f.c with | .none => BitVec.ofNat 64 (widthOf f.xf.toNat / 8) | _ => ctx.sc }
    .ok (s.modKite c k fun y =>
      { y.vput a { y.vget a with tag := f.ty.toNat, link := none } with binds := y.binds.set a b }, 0)

/-- vunbind, R216: an unbound register is left as it is. -/
def vunbindBody : VBody := fun x f _ =>
  let a := opdValue f.a
  if (x.binds.find a).isNone then (x, 0) else (x.vset a { tag := (x.vget a).tag }, 0)

/-! ## Memory-to-memory streams -/

/-- The function of an mmv on one element: the destination's old value, the source, and the multiplier of fma. -/
abbrev MmvFn := Fields → Rounding → Nat → Nat → Nat → Nat × Nat

/-- Element i of an mmv (R218): both checks, then its read and its write; the value written has flags, and later elements
see it whatever the strip had taken ahead of it. -/
def mmvElem (g : MmvFn) (f : Fields) (s : State) (c k : Nat) (ctx : VCtx) (dst src mult i : Nat) :
    Except KFail (State × Nat) :=
  let ty := f.ty.toNat
  let sty := if f.fn = 4 then f.xf.toNat else ty
  let w := widthOf ty / 8
  let v := widthOf sty / 8
  let d : VAddr := { i := i, a := (dst + i * w) % 2 ^ 64, n := w }
  let x : VAddr := { i := i, a := (src + i * v) % 2 ^ 64, n := v }
  match checkAll s c k 0 w true [d] with
  | .error e => .error e
  | .ok db =>
    match vecLoad s c k 0 v 0 [x] with
    | .error e => .error e
    | .ok (xs, s) =>
      let (ds, s) := vecReadAll s c k 0 0 db
      let val := fun (l : List (Nat × Nat)) => match l with | e :: _ => e.2 | [] => 0
      let (r, fl) := g f (ctx.rounding (f.fn == 4) i) (val ds) (val xs) mult
      let ws := storeElems db fun _ => some r
      match vecReserve s c k 0 ws with
      | .error e => .error e
      | .ok s =>
        let (rel, s) := takeRel s c k
        let out := VByte.join ws
        let s := s.modKite c k fun y =>
          { y with ahead := y.ahead.filter fun e => !(e.space == 0 && out.any fun w => w.addr == e.addr) }
        .ok (storeBytes s c (s.crew c).ctx (s.kite c k).tintv rel false out, fl)

/-- The elements of an mmv from i on, `n` of them, with the flags so far (R218, R219): one that faults leaves
MMPROG at itself, and delivers the flags of those before. -/
def mmvRun (g : MmvFn) (f : Fields) (c k : Nat) (ctx : VCtx) (dst src mult : Nat) :
    Nat → Nat → State → Nat → Except KFail (State × Nat)
  | 0, _, s, fl => .ok (s.modKite c k fun y => { y with mmAct := false, mmIdx := 0, mmRun := false }, fl)
  | n + 1, i, s, fl =>
    let stop := fun s : State =>
      s.modKite c k fun y => { y with mmAct := true, mmIdx := i, mmRun := true, fpflags := y.fpflags ||| fl }
    match mmvElem g f s c k ctx dst src mult i with
    | .error (.trap s t q) => .error (.trap (stop s) t q)
    | .error (.wait s w) => .error (.wait (stop s) w)
    | .ok (s, g') => mmvRun g f c k ctx dst src mult n (i + 1) s (fl ||| g')

/-- An mmv: it continues from MMPROG where it had stopped. -/
def mmvMem (g : MmvFn) (f : Fields) (s : State) (c k : Nat) (ctx : VCtx) : Except KFail (State × Nat) :=
  let x := s.kite c k
  let i0 := if x.mmAct then x.mmIdx else 0
  let mult := ctx.sc1.toNat % 2 ^ widthOf f.ty.toNat
  mmvRun g f c k ctx (x.memAddr f.a) (x.memAddr f.b) mult (ctx.sc.toNat - i0) i0 s 0

/-- One element of an mmv, which then stands at its next (R219): where an agent or a switch-out comes between. -/
def mmvStep (g : MmvFn) (f : Fields) (s : State) (c k : Nat) (x : Kite) : Res :=
  let ctx := x.capture f
  let i := if x.mmAct then x.mmIdx else 0
  if 8 ≤ x.vq.length || x.undispatched || movesQueued s c k || decide (ctx.sc.toNat ≤ i) then .notReady
  else
    match mmvRun g f c k ctx (x.memAddr f.a) (x.memAddr f.b) (ctx.sc1.toNat % 2 ^ widthOf f.ty.toNat) 1 i s 0 with
    | .error e => e.res
    | .ok (s, fl) => .stay (s.modKite c k fun y => { y with mmAct := true, mmIdx := i + 1, mmRun := true, fpflags := y.fpflags ||| fl })

/-- The late traps that waited for the instruction of the kite whose turn it is strike, where it is over (R364). -/
def settleTurn (s : State) : State := match s.cur with | .kite c k => settleLate s c k | .reel _ => s

/-- The frame of an mmv (R218, R219); held, it performs one element. -/
def runMmv (i : Instr) (f : Fields) (g : MmvFn) (s : State) : Host.Outcome State Fault Refusal :=
  .next (settleTurn (issue i s fun s c k x =>
    if s.hold then mmvStep g f s c k x else vecIssue s c k x 0x79 f fun s ctx => mmvMem g f s c k ctx))

/-- A function of mmv with an integer and a floating meaning. -/
def mmvArith (int : Nat → Nat → Nat → Nat) (flt : Rounding → Nat → Nat → Nat → Nat × Nat) : MmvFn := fun f r d x _ =>
  let ty := f.ty.toNat
  if isIType ty then (int ty d x, 0) else flt r ty d x

/-- vld, R209. -/
def execVld (f : Fields) (s : State) := runLoad (.vld f) 0x70 f (vldPlan f) (vldMem f) s
/-- vst, R209. -/
def execVst (f : Fields) (s : State) := runVecMem (.vst f) 0x71 f (vstMem f) s
/-- vldx, R210. -/
def execVldx (f : Fields) (s : State) := runLoad (.vldx f) 0x72 f (vldxPlan f) (vldxMem f) s
/-- vstx, R210. -/
def execVstx (f : Fields) (s : State) := runVecMem (.vstx f) 0x73 f (vstxMem f) s
/-- vldff, R211. -/
def execVldff (f : Fields) (s : State) := runLoad (.vldff f) 0x74 f (vldffPlan f) (vldffMem f) s
/-- vldb, R212. -/
def execVldb (f : Fields) (s : State) := runLoad (.vldb f) 0x75 f (vldbPlan f) (vldbMem f) s
/-- vstb, R212. -/
def execVstb (f : Fields) (s : State) := runVecMem (.vstb f) 0x76 f (vstbMem f) s
/-- vbind, R214. -/
def execVbind (f : Fields) (s : State) := runVecMem (.vbind f) 0x77 f (vbindMem f) s
/-- vunbind, R216. -/
def execVunbind (f : Fields) (s : State) := runVec (.vunbind f) 0x78 f vunbindBody s
/-- mmv.copy, R218. -/
def execMmvCopy (f : Fields) (s : State) := runMmv (.mmvCopy f) f (fun _ _ _ x _ => (x, 0)) s
/-- mmv.add, R218. -/
def execMmvAdd (f : Fields) (s : State) :=
  runMmv (.mmvAdd f) f (mmvArith (fun ty d x => (d + x) % 2 ^ widthOf ty) fun r ty d x => fAdd r ty false d x) s
/-- mmv.mul, R218. -/
def execMmvMul (f : Fields) (s : State) :=
  runMmv (.mmvMul f) f (mmvArith (fun ty d x => (d * x) % 2 ^ widthOf ty) fun r ty d x => fMul r ty d x) s
/-- mmv.fma, R218. -/
def execMmvFma (f : Fields) (s : State) :=
  runMmv (.mmvFma f) f (fun f r d x m => fFma r f.ty.toNat false false x m d) s
/-- mmv.cvt, R218. -/
def execMmvCvt (f : Fields) (s : State) := runMmv (.mmvCvt f) f (fun f r _ x _ => convert r f.xf.toNat f.ty.toNat x) s
/-- mmv.max, R218. -/
def execMmvMax (f : Fields) (s : State) :=
  runMmv (.mmvMax f) f (mmvArith (fun ty => iOp ty max) fun r ty d x => fMinMax r ty true d x) s
/-- mmv.min, R218. -/
def execMmvMin (f : Fields) (s : State) :=
  runMmv (.mmvMin f) f (mmvArith (fun ty => iOp ty min) fun r ty d x => fMinMax r ty false d x) s

end Sys2Proof.Machine
end

