-- ==== Sys2Proof/Machine/KiteEvents.lean ====
section
/-!
DEFINITION. The events of a core: fills, the ends of waits and of drains, the watchdog, markers, the write path,
the completion of vector instructions, fixes and bleaches, user events, and the completion of a host AtomicOp
(R49, R53, R64, R76, R77, R93, R103, R111, R123, R277, R284 to R288, R302, R367). The arguments are those of
`EvArgs`: `unit` the core or context, `sub` the kite (16 the reel) or tint, `item` the buffer or entry.
Open points: logs 1 (DESIGN CHOICE), 9 (DEDUCED), 11 (DEDUCED), 25 (DEDUCED), 28 (DEDUCED).
-/
namespace Sys2Proof.Machine

/-! ## Fills -/

/-- The bytes of a block, from its last n lines: those already read, and those read now through the instruction cache
(R54). -/
def linesBytes (s : State) (c : Nat) (b : Buf) : Nat → Nat → List Byte × State
  | 0, _ => ([], s)
  | n + 1, i =>
    let (d, s) := match b.got.find i with | some d => (d, s) | none => icLine s c (b.pas.getD i 0 / 64)
    let (bs, s) := linesBytes s c b n (i + 1)
    (toBytes 64 d ++ bs, s)

/-- BLOCK_FILL_END, R53. DESIGN CHOICE (log 1): the lines that no `Move.fillLine` has read are read here, at one instant;
R54 leaves open which content each line of a fill takes that spans a fence.i, and the moves choose line by line. -/
def execBlockFillEnd (s : State) : Host.Outcome State Fault Refusal :=
  let c := s.ev.unit
  let k := s.ev.sub
  let j := s.ev.item % 2
  let b := (s.kite c k).buf j
  .next (
    if !b.filling then s
    else
      let (bs, s) := linesBytes s c b 6 0
      s.modKite c k fun x => x.filled j { b with filling := false, words := carugWords 32 bs, pas := [], got := [] })

/-! ## Waits -/

/-- The pair bit of the tshape at a kite's position (R225). -/
def Kite.curPair (x : Kite) : Bool :=
  match x.wordAt (x.cur, x.idx) with
  | some (.tshapeCore f) | some (.tshapeFlight f) => bit f.xf.toNat 0
  | _ => false

/-- Whether the condition that holds a kite has cleared (R49, R101, R105, R110, R226, R240, R248, R268). -/
def waitClear (s : State) (c k : Nat) (x : Kite) : Bool :=
  let w := s.crew c
  match x.wait with
  | .none => true
  | .fill j => !(x.buf j).filling
  | .qpush q => decide ((s.queueOf c q).length < 16)
  | .qpop q => !(s.queueOf c q).isEmpty
  | .tsend d => let (j, t) := tetherTarget w.n k d; decide (((s.kite c j).port t).length < 4)
  | .trecv t => !(x.port t).isEmpty
  | .sleep t => decide (t ≤ s.cycle c)
  | .barArrive u | .barWait u => !(outstanding s c u x.arr)
  | .mwait t => !(w.queuedFor k t)
  | .tile a => !(w.tileBusy k (w.tshapeParts k a x.curPair))
  | .tshape a => (tsAnswer s c k a).isSome
  | .epush e => decide ((w.ports.get e).cmds.length < 16)
  | .pushRelease _ sc => (release s c sc).2
  | .epop e => !(w.ports.get e).res.isEmpty
  | .flags => !(flagsBusy s c k)
  | .fixing t => !(viewFixing s w.ctx t)
  | .release => (release s c 1).2 && s.crewRuns c
  | .tint _ | .rewind | .atomicOp _ | .fbar | .kites _ _ | .landing _ | .crewDone | .result _ => false

/-- WAIT_CONDITION_CLEAR, R49: the kite flies again and issues its instruction anew. -/
def execWaitConditionClear (s : State) : Host.Outcome State Fault Refusal :=
  let c := s.ev.unit
  let k := s.ev.sub
  let x := s.kite c k
  .next (
    if x.st = .waiting ∧ waitClear s c k x = true then
      s.modKite c k fun x => { x with st := .flying, wait := .none }
    else s)

/-- Whether every instruction that a kite has issued has completed (R49): its vector queue is empty, no matrix
instruction of it is queued, no AtomicOp is on its way, and no bleach of its rewind waits (R292). -/
def issuedDone (s : State) (c k : Nat) : Bool :=
  let x := s.kite c k
  x.vq.isEmpty && !((s.crew c).queuedFor k none) && (match x.wait with | .atomicOp _ => false | _ => true) &&
    !(rewindAsked s c k)

/-- The kite that has drained (R49, R243): a killed one releases its tiles. -/
def landKite (s : State) (c k : Nat) : State :=
  let s := if (s.kite c k).killed then s.modCrew c fun w => w.freeTiles k else s
  s.modKite c k fun x => { x with st := .landed, wait := .none, killed := false }

/-- DRAIN_COMPLETE, R49. -/
def execDrainComplete (s : State) : Host.Outcome State Fault Refusal :=
  let c := s.ev.unit
  let k := s.ev.sub
  .next (if (s.kite c k).st = .draining ∧ issuedDone s c k = true then landKite (flushPend s c k) c k else s)

/-- Whether the reel of a core is there to act on its wait: in a crew that is not ending, nor being switched out. -/
def reelThere (s : State) (c : Nat) : Bool := s.crewRuns c && !(s.crew c).ending

/-- SLEEP_EXPIRY, R76, R77: the sleeper is ready, and its sleepu then retires. -/
def execSleepExpiry (s : State) : Host.Outcome State Fault Refusal :=
  let c := s.ev.unit
  let k := s.ev.sub
  .next (
    if k = 16 then
      match (s.reelOf c).wait with
      | .sleep t => if reelThere s c && decide (t ≤ s.cycle c) then s.modReel c fun r => { r with wait := .none } else s
      | _ => s
    else
      match (s.kite c k).wait with
      | .sleep t =>
        if (s.kite c k).st = .waiting ∧ t ≤ s.cycle c then
          s.modKite c k fun x => { x with st := .flying, wait := .none }
        else s
      | _ => s)

/-- The instruction at which a reel waits. -/
def waitingInstr (s : State) (c : Nat) : Option Instr :=
  match reelFetch s c with
  | .ok (w, _) => decodeReel w
  | .error _ => none

/-- KITE_WAIT_DEADLINE, R64. -/
def execKiteWaitDeadline (s : State) : Host.Outcome State Fault Refusal :=
  let c := s.ev.unit
  .next (
    match (s.reelOf c).wait, waitingInstr s c with
    | .kites _ d, some (.kiteWait rd rs1 rs2) =>
      if reelThere s c && d != 0 && decide (d ≤ s.cycle c) then kiteWaitBody rd rs1 rs2 s c (s.reelOf c) else s
    | _, _ => s)

/-! ## The watchdog -/

/-- The ticks after which a wait on a channel stalls (R103). -/
def stallTicks : Nat := 4194304

/-- The channel code of a wait that the watchdog watches (Table 18-2, R103, R248). -/
def WaitOn.channel : WaitOn → Option Nat
  | .qpush q | .qpop q => some q
  | .trecv t => some (8 + t)
  | .tsend d => some (10 + d)
  | .epush e | .pushRelease e _ | .epop e => some (16 + e)
  | _ => Option.none

/-- QUEUE_STALL of a kite: it parks at the instruction that waits. -/
def kiteStall (s : State) (c k : Nat) : State :=
  let x := s.kite c k
  match x.wait.channel with
  | some n =>
    if x.st = .waiting ∧ x.since + stallTicks ≤ s.cycle c then trapKite s c k (trapAt 0x0B x.addr n) .here none else s
  | none => s

/-- QUEUE_STALL of a reel: an event of its own, at the address of the instruction that waits. -/
def reelStall (s : State) (c : Nat) : State :=
  let r := s.reelOf c
  match r.wait.channel with
  | some _ =>
    if reelThere s c && decide (r.since + stallTicks ≤ s.cycle c) then
      let now := s.cycle c
      reelEvent (s.modReel c fun r => { r with since := now }) c 0x0B r.pcWord
    else s
  | none => s

/-- QUEUE_STALL, R103. -/
def execQueueStall (s : State) : Host.Outcome State Fault Refusal :=
  .next (if s.ev.sub = 16 then reelStall s s.ev.unit else kiteStall s s.ev.unit s.ev.sub)

/-! ## Arrival markers -/

/-- The first entry of a vector queue that is not a dispatched instruction, if it is an arrival marker, with its
place. -/
def nextMarker : List VqEntry → Option (Nat × Marker)
  | [] => none
  | e :: es =>
    match e.marker with
    | some m => some (0, m)
    | none => if e.dispatched then (nextMarker es).map fun p => (p.1 + 1, p.2) else none

/-- ARRIVAL_MARKER, R111, R114: the marker leaves the queue and its arrival counts in the phase it was placed for. -/
def execArrivalMarker (s : State) : Host.Outcome State Fault Refusal :=
  let c := s.ev.unit
  let k := s.ev.sub
  .next (
    match nextMarker (s.kite c k).vq with
    | none => s
    | some (i, m) =>
      let (s', out) := release (flushPend s c k) c m.scope
      if !out then s
      else
        (markerArrives s' c m).modKite c k fun x => { x with vq := dropAt i x.vq })

/-! ## The write path -/

/-- WRITE_PATH_DRAIN, R302, R307: entry `item` of the write path of a core drains to its home, where it may; with
`ok`, it reaches the L2 of its die on the way. -/
def execWritePathDrain (s : State) : Host.Outcome State Fault Refusal :=
  let c := s.ev.unit
  let i := s.ev.item
  .next (if s.ev.ok then drainToDie s c i else if canDrain s c i then drainEntry s c i else s)

/-! ## Vector instructions -/

/-- The body of an instruction that can wait in the vector queue, by its OP and FN. -/
def heldBody (op fn : Nat) : Option VBody :=
  match op, fn with
  | 0x46, _ => some vpermBody
  | 0x47, 0 => some vslideUpBody
  | 0x47, _ => some vslideDownBody
  | 0x48, _ => some vtrans8Body
  | 0x49, 0 => some vzipBody
  | 0x49, _ => some vunzipBody
  | 0x4A, _ => some vbcastBody
  | 0x4B, _ => some viotaBody
  | 0x4D, _ => some vinsBody
  | 0x50, _ => some vaddBody
  | 0x51, _ => some vsubBody
  | 0x52, _ => some vmulBody
  | 0x53, _ => some vfmaBody
  | 0x54, _ => some vdivBody
  | 0x55, _ => some vsqrtBody
  | 0x56, _ => some vminBody
  | 0x57, _ => some vmaxBody
  | 0x58, _ => some vabsBody
  | 0x59, _ => some vnegBody
  | 0x5A, _ => some vandBody
  | 0x5B, _ => some vorBody
  | 0x5C, _ => some vxorBody
  | 0x5D, _ => some vshlBody
  | 0x5E, 0 => some vshrLogBody
  | 0x5E, _ => some vshrAriBody
  | 0x60, _ => some vselBody
  | 0x61, _ => some vmulhBody
  | 0x62, _ => some vmaddBody
  | 0x63, _ => some vsatBody
  | 0x64, n => some (vsfnBody n)
  | 0x66, 0 => some (vcvtBody false)
  | 0x66, _ => some (vcvtBody true)
  | 0x67, _ => some vcvtqBody
  | 0x68, 0 => some (rdBytesBody VReg.scaleAt)
  | 0x68, 1 => some wrscaleBody
  | 0x68, 4 => some (rdBytesBody VReg.spareAt)
  | 0x68, 5 => some wrspareBody
  | _, _ => none

/-- A waiting instruction of the vector queue performs, with what it captured. -/
def Kite.performHeld (x : Kite) (i : Nat) (e : VqEntry) : Kite :=
  match heldBody e.op e.f.fn.toNat with
  | none => x
  | some g =>
    let (y, fl) := g x e.f e.ctx
    let y := y.finishLst e.op e.f
    { y with vq := modifyAt (fun e => { e with dispatched := true, flags := fl }) i y.vq, dispWait := 0 }

/-- The body of a permute, an arithmetic instruction, a comparison or a vext whose bound sources are under way. -/
def trailBody (op fn : Nat) : Option VBody :=
  match op, fn with
  | 0x4C, _ => some vextBody
  | 0x5F, n => some (vcmpBody n)
  | 0x65, _ => some vclassBody
  | 0x68, 2 => some rdvalidBody
  | op, fn => heldBody op fn

/-- A reader of bound registers performs with what its streams read (R215): the kite and the flags. -/
def Kite.performTrailing (x : Kite) (e : VqEntry) (es : List (Nat × Nat)) : Kite × Nat :=
  let ds := decodeHeld x e.ctx (vecReads e.op e.f) es
  match trailBody e.op e.f.fn.toNat with
  | none => (x, 0)
  | some g =>
    let (y, fl) := g (x.take ds) e.f e.ctx
    (y.finishLst e.op e.f, ds.foldl (fun m d => m ||| d.fl) fl)

/-- The function of an nred or an nscan by its FN (Table 9-6). -/
def redFn : Nat → RedFn
  | 0 => .add
  | 1 => .min
  | 2 => .max
  | 3 => .and
  | 4 => .or
  | _ => .xor

/-- The body of a nested instruction, an spsrch or a vector store whose bound sources are under way. -/
def trailMem (op fn : Nat) : Fields → State → Nat → Nat → VCtx → Except KFail (State × Nat) :=
  match op with
  | 0x80 => nredMem (redFn fn)
  | 0x81 => nscanMem (redFn fn)
  | 0x82 => npackMem
  | 0x83 => ndistMem
  | 0x86 => nflatMem
  | 0x87 => nsortMem
  | 0x9B => spsrchMem
  | 0x71 => vstMem
  | 0x73 => vstxMem
  | _ => vstbMem

/-- A pending store whose data was late, with the values that its instruction gives now, address by address. -/
def PendStore.refresh (p : PendStore) (new : List WByte) : PendStore :=
  { p with
    late := false
    bytes := p.bytes.map fun w =>
      match new.find? fun n => n.addr == w.addr with
      | some n => { w with value := n.value }
      | none => w }

/-- A nested instruction or an spsrch performs with what its streams read: its checks passed as it issued (R364). -/
def trailNested (s : State) (c k i : Nat) (e : VqEntry) (ds : List Decoded) : State :=
  let fl := ds.foldl (fun m d => m ||| d.fl) e.flags
  let t := s.modKite c k fun y => y.take ds
  let (t, fl) := match trailMem e.op e.f.fn.toNat e.f t c k e.ctx with
    | .ok (u, g) => (u.modKite c k fun y => y.finishLst e.op e.f, fl ||| g)
    | .error _ => (t, fl)
  t.modKite c k fun y => y.complete i { e with flags := fl }

/-- The data of a vector store arrives: its pending bytes and the decoded registers take it, where none of them has
performed as the strip ended. -/
def trailStore (s : State) (c k i : Nat) (e : VqEntry) (ds : List Decoded) : State :=
  let x := s.kite c k
  let fl := ds.foldl (fun m d => m ||| d.fl) e.flags
  let new := match trailMem e.op e.f.fn.toNat e.f (s.modKite c k fun y => { y.take ds with pend := [] }) c k e.ctx with
    | .ok (u, _) => (u.kite c k).pend.flatMap (·.bytes)
    | .error _ => []
  s.modKite c k fun y =>
    let y := if x.pend.any (·.late) then
        { y.take ds with pend := y.pend.map fun p => if p.late then p.refresh new else p }
      else y
    (y.finishLst e.op e.f).complete i { e with flags := fl }

/-- The data of an entry under way arrives (R300): of an nshld, of a reader of bound registers,
or of a vector load. -/
def loadArrives (s : State) (c k i : Nat) (e : VqEntry) (h : HeldLoad) : State :=
  let seen := if e.op = 0x88 then h.reads.map fun r => lineOf (r.2.headD {}).a else []
  let (es, s) := vecReadFrom s c k h.space h.rd seen h.reads
  let ds := decodeHeld (s.kite c k) e.ctx (vecReads e.op e.f) es
  if decide (0x46 ≤ e.op) && decide (e.op ≤ 0x6F) then
    s.modKite c k fun y => let (z, fl) := y.performTrailing e es; z.complete i { e with flags := e.flags ||| fl }
  else if e.op = 0x94 then trailMove s c k i e ds
  else if storesVec e.op then trailStore s c k i e ds
  else if e.trails then trailNested s c k i e ds
  else
    let s :=
      if e.op = 0x75 then s.modKite c k fun y => y.putBlocks e.f e.ctx (es.map (·.2))
      else if e.op = 0x88 then s.modKite c k fun y => y.takeImage e h (es.map (·.2))
      else if e.op = 0x74 then vldffInto s c k e.f e.ctx es
      else loadInto s c k e.f e.ctx es fun i => (h.elems.find? fun l => l.i == i).all (·.ok)
    s.modKite c k fun y => y.complete i e

/-- The completion of an entry under way (R284, R286): it waits while its view is being fixed; under a view that has
been bleached it writes no register, and its instruction raises ORPHAN. -/
def finishLoad (s : State) (c k i : Nat) (e : VqEntry) (h : HeldLoad) : State :=
  let ctx := (s.crew c).ctx
  let x := s.ctx ctx
  if h.space = 0 ∧ x.orphaned e.ctx.view = true then
    lateTrap (s.modKite c k fun y => y.complete i e) c k
      (trapAt 0x08 ((h.elems.head?.map (·.va)).getD 0) e.ctx.view) none
  else if h.space = 0 ∧ viewFixing s ctx e.ctx.view = true then s
  else loadArrives s c k i e h

/-- The place of the first waiting instruction of a vector queue. -/
def firstHeld (q : List VqEntry) : Option Nat := q.findIdx? fun e => e.marker.isNone && !e.dispatched

/-- VECTOR_INSTRUCTION_COMPLETE, R123, R150: entry `item` of a kite's vector queue. The first one that waits is
dispatched and performs, on a kite that is not PARKED (R364), an spsrch row by row (R271); one that has been dispatched
completes: data under way arrives, and it frees its entry and delivers its flags. -/
def execVectorInstructionComplete (s : State) : Host.Outcome State Fault Refusal :=
  let c := s.ev.unit
  let k := s.ev.sub
  let i := s.ev.item
  let x := s.kite c k
  .next (
    match x.vq[i]? with
    | none => s
    | some e =>
      if e.marker.isSome then s
      else if e.dispatched then
        (match e.load with
         | some h => finishLoad s c k i e h
         | none => s.modKite c k fun x => x.complete i e)
      else if firstHeld x.vq = some i ∧ x.st ≠ .parked ∧ movesQueued s c k = false then
        if e.op = 0x9B then spsrchNext s c k i e else s.modKite c k fun x => x.performHeld i e
      else s)

/-! ## Tints -/

/-- YLD of the instruction at a kite's position. -/
def Kite.curYld (x : Kite) : Bool :=
  match x.wordAt (x.cur, x.idx) with
  | some i => (match carugParts i with | some (_, _, _, f) => f.yld | none => false)
  | none => false

/-- The context without the first operation of its table. -/
def popTop (s : State) (ctx : Nat) : State := s.modCtx ctx fun x => { x with tops := x.tops.drop 1 }

/-- The result of a fix or a bleach to the reel that asked for it and waits (R289). -/
def answerReel (s : State) (o : TintOp) (v : Word) : State :=
  if (s.reelOf o.core).wait = .tint o.tint then s.modReel o.core fun r => { r with wait := .result v } else s

/-- Whether a kite waits at the rege that asked for an operation. -/
def kiteAsked (s : State) (o : TintOp) : Bool :=
  let x := s.kite o.core o.agent
  x.st == .waiting && x.wait == .tint o.tint

/-- The end of a rege whose fix has completed (R290): the view is the region's parent, and the region closes. -/
def closeRegion (s : State) (c k : Nat) : State :=
  let s := s.modKite c k fun x =>
    { x with tintv := (match x.region with | some r => r.parent | none => x.tintv), region := none, wait := .none }
  retire s c k (s.kite c k).curYld

/-- The bleach of a kite's rewind is over (R291): the kite that waits for it parks, and one that drains leaves its
region (R292). -/
def rewindEnds (s : State) (o : TintOp) : State :=
  let x := s.kite o.core o.agent
  if x.st = .waiting ∧ x.wait = .rewind then endRewind s o.core o.agent
  else if x.st = .draining then unwindHere s o.core o.agent
  else s

/-- The answer to the requester of a completed operation. -/
def answerTop (s : State) (o : TintOp) : State :=
  if o.rewind then rewindEnds s o
  else if o.agent = 16 then answerReel s o (if o.bleach then BitVec.ofNat 64 o.count else 0)
  else if kiteAsked s o then closeRegion s o.core o.agent
  else s

/-- The answer to the requester of an operation whose tint an earlier one has discarded: reason 1, or ORPHAN. -/
def refuseTop (s : State) (o : TintOp) : State :=
  if o.rewind then rewindEnds s o
  else if o.agent = 16 then answerReel s o (failWord 1)
  else if kiteAsked s o then trapKite s o.core o.agent (trapAt 0x08 0 o.tint) .here none
  else s

/-- The first operation of a context's table marked as started. -/
def startTop (s : State) (ctx count : Nat) : State :=
  s.modCtx ctx fun x => { x with tops := modifyAt (fun o => { o with started := true, count := count }) 0 x.tops }

/-- A step of the first operation of a context's tint table (R277): its start, or its completion. -/
def stepTop (s : State) (ctx : Nat) (bleach : Bool) : State :=
  match (s.ctx ctx).tops with
  | [] => s
  | o :: _ =>
    if o.bleach ≠ bleach then s
    else if o.started then
      let s := popTop s ctx
      answerTop (if bleach then bleachFinish s ctx else fixFinish s ctx o.tint o.core) o
    else if (s.ctx ctx).isLive o.tint = false then refuseTop (popTop s ctx) o
    else if piecing s ctx then s
    else if bleach then bleachStart (startTop s ctx (bleachSet (s.ctx ctx) o.tint).length) ctx o.tint
    else fixStart (startTop s ctx 1) ctx o.tint

/-- FIX, R284, R285. -/
def execFix (s : State) : Host.Outcome State Fault Refusal := .next (stepTop s s.ev.unit false)

/-- BLEACH, R286. -/
def execBleach (s : State) : Host.Outcome State Fault Refusal := .next (stepTop s s.ev.unit true)

/-- TINT_FREE, R288. -/
def execTintFree (s : State) : Host.Outcome State Fault Refusal :=
  let ctx := s.ev.unit
  let t := s.ev.sub
  .next (if t ≠ 0 ∧ ((s.ctx ctx).tint t).st = .retired ∧ tintNamed s ctx t = false then freeTintNow s ctx t else s)

/-! ## User events -/

/-- USER_EVENT_TAKE, R367. -/
def execUserEventTake (s : State) : Host.Outcome State Fault Refusal :=
  .next (if s.crewRuns s.ev.unit then (settleReel s s.ev.unit).1 else s)

/-! ## AtomicOps of host memory -/

/-- What an atomic of a kite does: its width, what it writes from the old value, and what s[A] receives. -/
structure AtomicDo where
  f   : Fields
  n   : Nat
  g   : Nat → Option Nat
  ext : Nat → Word

/-- The atomic at a kite's position that acts on host memory (R93). -/
def Kite.hostAtomic (x : Kite) : Option AtomicDo :=
  match x.wordAt (x.cur, x.idx) with
  | some (.amoAdd f) => some { f := f, n := amoBytes f, g := amoWrites f .add x, ext := amoResult f }
  | some (.amoSwap f) => some { f := f, n := amoBytes f, g := amoWrites f .swap x, ext := amoResult f }
  | some (.cas f) => some { f := f, n := amoBytes f, g := casWrites f x, ext := amoResult f }
  | _ => none

/-- Host memory after an AtomicOp that returned `old`, with the release record that a write carries; the line leaves
the core's L1 (R316). -/
def hostWrite (s : State) (c a n old : Nat) (new : Option Nat) (rel : Option Nat) : State :=
  let s := s.modCore c fun p => p.dropL1 fun l => l.line == lineOf a
  match new with
  | none => commit s a (toBytes n old)
  | some v =>
    let s := commit s a (toBytes n v)
    match rel with
    | some sc => { s with rels := s.rels.set (lineOf a) { core := c, dev := s.module.devnum, scope := sc } }
    | none => s

/-- The completion of a kite's AtomicOp: the instruction retires, or no longer holds the drain. -/
def kiteAtomicEnd (s : State) (c k a old : Nat) (ok : Bool) : State :=
  let x := s.kite c k
  match x.hostAtomic with
  | none => s
  | some d =>
    let old := old % 2 ^ (8 * d.n)
    if !ok then
      let t := trapAt 0x04 (x.memAddr d.f.b) 0
      if x.st = .draining then (lateTrap s c k t none).modKite c k fun x => { x with wait := .none }
      else settleLate (trapKite s c k t .here none) c k
    else
      let (rel, s) := takeRel s c k
      let r := lineRec s (lineOf a)
      let s := hostWrite s c a d.n old (d.g old) (relMax (if amoRel d.f then some (amoScope d.f) else none) rel)
      let s := atomicFinish s c k d.f r (d.ext old)
      if x.st = .draining then s.modKite c k fun x => { x with wait := .none }
      else settleLate (retire s c k x.curYld) c k

/-- The completion of the reel's AtomicOp. -/
def reelAtomicEnd (s : State) (c a old : Nat) (ok : Bool) : State :=
  match waitingInstr s c with
  | some (.riscVInstruction (.amo k dbl aq rl _ rs1 rs2)) =>
    let r := s.reelOf c
    let n := if dbl then 8 else 4
    let old := old % 2 ^ (8 * n)
    if !ok then reelRaise s c 7 (r.xget rs1.toNat)
    else
      let new := rvAmoNew k n old ((r.xget rs2.toNat).toNat % 2 ^ (8 * n))
      let s := hostWrite s c a n old (some new) (r.rel rl)
      (rvAcquire s c aq).modReel c fun r => { r with relNext := none, wait := .result (rvExt n old) }
  | _ => s

/-- ATOMICOP_COMPLETION, R93: `old` is the value that the host returns, `ok` that it performed the operation. -/
def execAtomicopCompletion (s : State) : Host.Outcome State Fault Refusal :=
  let c := s.ev.unit
  let k := s.ev.sub
  .next (
    if k = 16 then
      match (s.reelOf c).wait with
      | .atomicOp a => if s.hasCrew c && !(s.crew c).ending then reelAtomicEnd s c a s.ev.old s.ev.ok else s
      | _ => s
    else
      match (s.kite c k).wait with
      | .atomicOp a => kiteAtomicEnd s c k a s.ev.old s.ev.ok
      | _ => s)

end Sys2Proof.Machine
end

