-- ==== Sys2Proof/Machine/Shake.lean ====
section
/-!
DEFINITION. SHAKE256 with an output of 32 bytes (R390), by the standard that the manual names.
Open points: log 32 (PRESUMED).
-/
namespace Sys2Proof.Machine

/-- The rotation of each lane x + 5 y of the permutation. -/
def keccakRot : List Nat :=
  [0, 1, 62, 28, 27, 36, 44, 6, 55, 20, 3, 10, 43, 25, 39, 41, 45, 15, 21, 8, 18, 2, 61, 56, 14]

/-- The constant of each round. -/
def keccakRc : List Word :=
  [0x0000000000000001, 0x0000000000008082, 0x800000000000808A, 0x8000000080008000, 0x000000000000808B,
   0x0000000080000001, 0x8000000080008081, 0x8000000000008009, 0x000000000000008A, 0x0000000000000088,
   0x0000000080008009, 0x000000008000000A] ++
  [0x000000008000808B, 0x800000000000008B, 0x8000000000008089, 0x8000000000008003, 0x8000000000008002,
   0x8000000000000080, 0x000000000000800A, 0x800000008000000A, 0x8000000080008081, 0x8000000000008080,
   0x0000000080000001, 0x8000000080008008]

/-- Lane (x, y) of the 25 lanes. -/
def laneAt (a : List Word) (x y : Nat) : Word := a.getD (x % 5 + 5 * (y % 5)) 0

/-- The 25 lanes that f gives. -/
def lanesOf (f : Nat → Nat → Word) : List Word := (List.range 25).map fun i => f (i % 5) (i / 5)

/-- One round of the permutation. -/
def keccakRound (a : List Word) (rc : Word) : List Word :=
  let c := (List.range 5).map fun x => laneAt a x 0 ^^^ laneAt a x 1 ^^^ laneAt a x 2 ^^^ laneAt a x 3 ^^^ laneAt a x 4
  let d := (List.range 5).map fun x => c.getD ((x + 4) % 5) 0 ^^^ (c.getD ((x + 1) % 5) 0).rotateLeft 1
  let b := lanesOf fun x y =>
    let u := (x + 3 * y) % 5
    (laneAt a u x ^^^ d.getD u 0).rotateLeft (keccakRot.getD (u + 5 * x) 0)
  lanesOf fun x y =>
    let v := laneAt b x y ^^^ (~~~(laneAt b (x + 1) y) &&& laneAt b (x + 2) y)
    if x = 0 ∧ y = 0 then v ^^^ rc else v

/-- The permutation of 24 rounds. -/
def keccak (a : List Word) : List Word := keccakRc.foldl keccakRound a

/-- The bytes of SHAKE256's rate: 136. -/
def shakePad (m : List Byte) : List Byte :=
  let r := 136 - m.length % 136
  if r = 1 then m ++ [0x9F] else m ++ 0x1F :: List.replicate (r - 2) 0 ++ [0x80]

/-- n blocks absorbed. -/
def shakeAbsorb : Nat → List Word → List Byte → List Word
  | 0, a, _ => a
  | n + 1, a, m =>
    let a' := lanesOf fun x y => laneAt a x y ^^^ BitVec.ofNat 64 (ofBytes ((m.take 136).drop (8 * (x + 5 * y)) |>.take 8))
    shakeAbsorb n (keccak a') (m.drop 136)

/-- The 32-byte SHAKE256 hash of a message (R390). -/
def shake256 (m : List Byte) : List Byte :=
  let a := shakeAbsorb (m.length / 136 + 1) (List.replicate 25 0) (shakePad m)
  (a.take 4).flatMap fun w => toBytes 8 w.toNat

end Sys2Proof.Machine
end

