-- ==== Sys2Proof/Machine/HostIO.lean ====
section
/-!
DEFINITION. What the host, the peers and the DMP do (R308, R328, R330, R338 to R342, R381 to R392): registers of
BAR 0, contexts, invalidations, page requests and their answers, the rings, BAR 4, peers, ports, bring-up, the
mailbox, replay capture, power. In `EvArgs`, `unit` is the context, port, function or offset, `sub` the word or
AtomicOp, `item` the request, peer or byte count, `value` what is written.
Open points: logs 8 (DEDUCED, DESIGN CHOICE), 32 (DEDUCED, DESIGN CHOICE), 33 (DEDUCED, DESIGN CHOICE).
-/
namespace Sys2Proof.Machine

/-! ## Writes to the host -/

/-- Bytes of the host bus written by the device (R384, R390). -/
def hostPut (s : State) (a : Nat) (bs : List Byte) : State := commit s (hostBase + a % 2 ^ 51) bs

/-- Bytes of the host bus read by the device. -/
def hostGet (s : State) (a n : Nat) : List Byte := memBytes s.mem (hostBase + a % 2 ^ 51) n

/-- An MSI-X message of a vector (R381). -/
def interrupt (s : State) (v : Nat) : State := s.modModule fun m => { m with msix := m.msix.mod v (· + 1) }

/-- Whether a ring is full (R384). -/
def Ring.full (r : Ring) : Bool := (r.wr + 2 ^ 32 - r.rd) % 2 ^ 32 == 2 ^ r.log2n

/-- Where the next entry of a ring goes (Table 19-3). -/
def Ring.slot (r : Ring) : Nat := r.base + 32 * (r.wr % 2 ^ r.log2n)

/-- A ring with one entry more. -/
def Ring.wrote (r : Ring) : Ring := { r with wr := (r.wr + 1) % 2 ^ 32 }

/-- An entry of 32 bytes posted to the event ring, or dropped (R384, R385). -/
def postToHost (s : State) (entry : Nat) : State :=
  let r := s.module.evring
  if !r.en then s
  else if r.full then s.modModule fun m => { m with evring := { r with lost := min 65535 (r.lost + 1) } }
  else
    let s := (hostPut s r.slot (toBytes 32 entry)).modModule fun m => { m with evring := r.wrote }
    interrupt s 1

/-! ## Replay capture -/

/-- What replay capture records (R391). -/
def Replay.bytes (r : Replay) : List Byte := Config.replayBytes r.kind (r.time :: r.vals)

/-- The newest entries that fit in the ring of n bytes. -/
def keepNewest (n : Nat) : List Replay → List Replay
  | [] => []
  | r :: rs =>
    if (r :: rs).foldl (fun a r => a + r.bytes.length) 0 ≤ n then r :: rs else keepNewest n rs

/-- An entry of the replay ring for a context that is captured: kind 1 a launch record, 2 a PRDONE, 3 a report,
4 a switch-out, 5 a resumption, 6 a variant (R391). -/
def capture (s : State) (ctx kind time : Nat) (vals : List Nat) : State :=
  if bit s.module.repMask ctx && decide (ctx < 64) then
    s.modModule fun m =>
      { m with replay := keepNewest (2 ^ 30) (m.replay ++ [{ kind := kind, time := time, vals := vals }]) }
  else s

/-! ## Error reports -/

/-- An error report, Table 18-10. -/
def reportWord (e : ErrDesc) (sev time lost : Nat) : Nat :=
  (e.addr % 2 ^ 64) <<< 192 ||| time <<< 128 ||| (e.elt % 2 ^ 32) <<< 96 ||| lost <<< 88 ||| (e.ctx % 2 ^ 8) <<< 80 |||
    (e.chan % 2 ^ 16) <<< 64 ||| (e.core % 2 ^ 8) <<< 56 ||| (e.lg % 2 ^ 8) <<< 48 ||| (e.lane % 2 ^ 8) <<< 40 |||
    (e.reg % 2 ^ 8) <<< 32 ||| sev <<< 16 ||| (e.agent % 2 ^ 8) <<< 8 ||| e.unit % 2 ^ 8

/-- A report to the error queue of its die, to the host, and to replay capture (R378, R384, R391). -/
def report (s : State) (e : ErrDesc) (sev : Nat) : State :=
  let die := e.die % 2
  let d := s.die die
  let w := reportWord e sev d.cycle (if 64 ≤ d.errq.length then 1 else 0)
  let s := s.modDie die fun d =>
    { d with errq := (if 64 ≤ d.errq.length then d.errq.drop 1 else d.errq) ++ [w] }
  capture (postToHost s w) e.ctx 3 d.cycle [w]

/-! ## Contexts -/

/-- The fields of word 0 of a context entry that are written while V = 0 (Table 16-1). -/
def Context.fields0 (x : Context) (v : Nat) : Context :=
  { x with gen := bits v 27 20, asid := bits v 19 4, ft := bit v 3 }

/-- Whether a write of V = 1 is accepted (R328). -/
def ctxAccepted (s : State) (n : Nat) (x : Context) : Bool :=
  x.root % 2 ^ 12 == 0 && x.vstbase % 2 ^ 18 == 0 &&
    !(s.ctxs.any fun e => e.1 != n && e.2.valid && e.2.asid == x.asid && e.2.gen == x.gen)

/-- A context created: its tints FREE, its slots at GEN 0, its selector at 512 (R275, R322, R360). -/
def Context.created (x : Context) : Context :=
  { x with valid := true, st := 0, tints := [], tops := [], slots := [], drain := [], selector := 512 }

/-- Whether a flight of the context is placed or queued (R328). -/
def ctxBusy (s : State) (n : Nat) : Bool :=
  s.ascents.has (fun a => a.ctx == n) || s.queues.has (fun q => q.ctx == n && !q.recs.isEmpty) ||
    s.crews.has (fun w => w.ctx == n)

/-- Every remaining tint of a context bleached (R294). -/
def bleachAll (s : State) (n : Nat) : State :=
  let live := (List.range tintCount).filter fun t => t != 0 && ((s.ctx n).tint t).st == .live
  bleachFinish (s.modCtx n fun x => live.foldl (fun (x : Context) t => x.setTint t fun e => { e with st := .bleaching }) x) n

/-- CONTEXT_ENTRY_WRITE, R328: word `sub` of the entry of context `unit`. -/
def execContextEntryWrite (s : State) : Host.Outcome State Fault Refusal :=
  let n := s.ev.unit % 64
  let v := s.ev.value % 2 ^ 64
  let x := s.ctx n
  .next (
    if x.valid then
      (if s.ev.sub = 0 ∧ bit v 0 = false ∧ ctxBusy s n = false then
        (bleachAll s n).modCtx n fun x => { x with valid := false }
       else s)
    else
      match s.ev.sub with
      | 0 =>
        let y := x.fields0 v
        s.modCtx n fun _ => if bit v 0 && ctxAccepted s n y then y.created else y
      | 2 => s.modCtx n fun x => { x with root := v }
      | 3 => s.modCtx n fun x => { x with vstbase := v }
      | _ => s)

/-- DEVNUM, R330. -/
def execDevnum (s : State) : Host.Outcome State Fault Refusal :=
  .next (if s.ctxs.has fun x => x.valid then s
    else s.modModule fun m => { m with devnum := s.ev.value % 64 })

/-! ## Span tables -/

/-- The span entry at a physical address, as its load reads it; an entry that cannot be read has a free value
(log 2). -/
def loadSpan (s : State) (pa : Nat) : Nat × State :=
  match readEntry s pa with
  | .ok e => (e, s)
  | .error _ => let (d, s) := s.draw Config.freeNat; (d % 2 ^ 64, s)

/-- n entries of a span table, from index i on. -/
def loadSpans (s : State) (base : Nat) : Nat → Nat → Tab Nat → Tab Nat × State
  | 0, _, t => (t, s)
  | n + 1, i, t =>
    let (e, s) := loadSpan s (base + 8 * i)
    loadSpans s base n (i + 1) (t.put i e)

/-- The canonical address of a span table whose bytes follow each other there. -/
def spanRegion (s : State) (base : Nat) : Option Nat :=
  match physical s base, physical s (base + 262136) with
  | .ok a, .ok b => if b = a + 262136 then some a else none
  | _, _ => none

/-- A whole span table (R337). Where its bytes follow each other, an entry with no byte listed is 0. -/
def loadTable (s : State) (base : Nat) : Tab Nat × State :=
  match spanRegion s base with
  | some a =>
    let cells := s.mem.filter fun e => decide (a ≤ e.1) && decide (e.1 < a + 262144)
    (cells.foldl (fun (t : Tab Nat) e =>
      let i := (e.1 - a) / 8
      t.put i (memRead cells (a + 8 * i) 8)) [], s)
  | none => loadSpans s base 32768 0 []

/-! ## Invalidation -/

/-- The contexts that an invalidation of kinds 0 to 3 covers (R338). -/
def Tlbinv.covers (v : Tlbinv) (asid gen : Nat) : Bool :=
  v.kind == 0 || (asid == v.asid && (v.kind == 1 || gen == v.gen))

/-- Whether an invalidation removes a TLB entry. -/
def Tlbinv.hitsTlb (v : Tlbinv) (t : TlbEntry) : Bool :=
  v.covers t.asid t.gen && (v.kind != 3 || (decide (t.vpn < v.vapg + v.count) && decide (v.vapg < t.vpn + t.pages)))

/-- Whether an invalidation removes a walk-cache entry: one of kind 3, the entries above its pages. -/
def Tlbinv.hitsWalk (v : Tlbinv) (w : WalkEntry) : Bool :=
  let n := 2 ^ (9 * (4 - w.level))
  v.covers w.asid w.gen &&
    (v.kind != 3 || (decide (w.path * n < v.vapg + v.count) && decide (v.vapg < w.path * n + n)))

/-- A TLB entry that an invalidation of pages leaves: the run of a page before them ends where they begin, so that no
block is formed over them (R332, R339). -/
def Tlbinv.trim (v : Tlbinv) (t : TlbEntry) : TlbEntry :=
  if v.kind = 3 ∧ v.covers t.asid t.gen = true ∧ t.vpn < v.vapg then
    { t with leaf := setBits t.leaf 3 9 (min (pteRun t.leaf) (v.vapg - t.vpn - t.pages)) }
  else t

/-- The contexts whose accesses an invalidation covers. -/
def Tlbinv.covered (v : Tlbinv) (s : State) (n : Nat) : Bool :=
  if v.kind = 4 then n == v.ctx else v.covers (s.ctx n).asid (s.ctx n).gen

/-- What an invalidation of kinds 0 to 3 removes (R338). -/
def removeCovered (s : State) (v : Tlbinv) : State :=
  let keep := fun (l : List RecEntry) => if v.kind ≤ 2 then l.filter fun e => !(v.covered s e.ctx) else l
  { s with
    cores := s.cores.each fun k =>
      { k with tlb := (k.tlb.filter fun t => !(v.hitsTlb t)).map v.trim
               wc := k.wc.filter fun w => !(v.hitsWalk w)
               rcache := keep k.rcache }
    flights := s.flights.each fun f => { f with saved := f.saved.map fun w => { w with rcache := keep w.rcache } } }

/-- The spans that an invalidation of kind 4 reloads into every resident copy (R338). -/
def reloadSpans (s : State) (v : Tlbinv) : State :=
  let base := (s.ctx v.ctx).vstbase
  let first := v.vapg / 2 ^ 13 % 2 ^ 15
  let n := min v.count (32768 - first)
  let (new, s) := loadSpans s base n first []
  let put := fun (t : Tab Nat) (i : Nat) => t.put (first + i) (new.get (first + i))
  { s with spans := s.spans.map fun c =>
      if c.ctx = v.ctx then { c with entries := (List.range n).foldl put c.entries } else c }

/-- The fields of a write to TLBINV1 (Table 16-5). -/
def Tlbinv.write (v : Tlbinv) (x : Nat) : Tlbinv :=
  { v with kind := bits x 58 56, count := bits x 55 40, gen := bits x 39 32, asid := bits x 31 16, ctx := bits x 5 0 }

/-- Whether a write to TLBINV1 starts an invalidation (R338). -/
def Tlbinv.starts (v : Tlbinv) : Bool := decide (v.kind ≤ 4) && (decide (v.kind ≤ 2) || v.count != 0)

/-- A write to TLBINV1 of a kind (R338). -/
def startInval (s : State) (kind : Nat) : State :=
  let v := s.module.tlbinv.write s.ev.value
  if s.module.tlbinv.busy ∨ v.kind ≠ kind ∨ v.starts = false then s
  else
    let s := s.modModule fun m => { m with tlbinv := { v with busy := true, first := v.vapg } }
    if kind = 4 then reloadSpans s v else removeCovered s v

/-- TLBINV_ALL, R338. -/
def execTlbinvAll (s : State) : Host.Outcome State Fault Refusal := .next (startInval s 0)

/-- TLBINV_ASID, R338. -/
def execTlbinvAsid (s : State) : Host.Outcome State Fault Refusal := .next (startInval s 1)

/-- TLBINV_ASID_GEN, R338. -/
def execTlbinvAsidGen (s : State) : Host.Outcome State Fault Refusal := .next (startInval s 2)

/-- TLBINV_PAGES, R338. -/
def execTlbinvPages (s : State) : Host.Outcome State Fault Refusal := .next (startInval s 3)

/-- TLBINV_SPANS, R338. -/
def execTlbinvSpans (s : State) : Host.Outcome State Fault Refusal := .next (startInval s 4)

/-- Whether a kite has an access under way that it translated before: a store not yet performed, a vector load whose
data is to come, a fill, or an AtomicOp. -/
def Kite.accessing (x : Kite) : Bool :=
  !x.pend.isEmpty || x.vq.any (·.load.isSome) || x.buf0.filling || x.buf1.filling ||
    (match x.wait with | .atomicOp _ => true | _ => false)

/-- Whether accesses translated through covered entries have all performed (R339). -/
def invalDone (s : State) (v : Tlbinv) : Bool :=
  let on := fun (n : Nat) => v.covered s n
  !(s.cores.has fun k => k.wp.any fun e => on e.ctx) &&
    !(s.crews.has fun w => on w.ctx && (w.piecing ||
      w.kites.has (fun x => x.accessing) || (match w.reel.wait with | .atomicOp _ => true | _ => false)))

/-- INVALIDATION_COMPLETE, R339: no covered entry remains, nor one that a walk has filled meanwhile. -/
def execInvalidationComplete (s : State) : Host.Outcome State Fault Refusal :=
  let v := s.module.tlbinv
  .next (
    if v.busy && invalDone s v then
      (if v.kind = 4 then s else removeCovered s { v with vapg := v.first }).modModule fun m => { m with tlbinv := { v with busy := false } }
    else s)

/-! ## Page requests -/

/-- A page request, Table 16-6. -/
def PageReq.word (r : PageReq) : Nat :=
  (r.va % 2 ^ 64) <<< 192 ||| r.time <<< 128 ||| r.id <<< 112 ||| (r.agent % 2 ^ 8) <<< 104 ||| (r.core % 2 ^ 8) <<< 96 |||
    (r.ctx % 2 ^ 6) <<< 90 ||| (r.kind % 4) <<< 88 ||| r.span.toNat <<< 87

/-- PAGE_REQUEST, R340, R384: the first request that has not been posted reaches the ring, where there is room. -/
def execPageRequest (s : State) : Host.Outcome State Fault Refusal :=
  let r := s.module.prring
  .next (
    match s.module.reqs.find? fun q => !q.posted with
    | none => s
    | some q =>
      if r.en = false ∨ r.full = true then s
      else
        let q' := { q with time := s.cycle q.core, posted := true }
        let s := s.modModule fun m =>
          { m with reqs := m.reqs.map (fun y => if y.id = q.id then q' else y), prring := r.wrote }
        interrupt (hostPut s r.slot (toBytes 32 q'.word)) 0)

/-- Whether a kite is parked in its region on a request, or will be once its region has rewound (R291). -/
def Kite.awaits (x : Kite) (id : Nat) : Bool :=
  (x.st == .parked || (x.st == .waiting && x.wait == .rewind)) && x.req == some id

/-- A kite flying again at its regb (R341); one whose region still rewinds goes on there as that ends. -/
def Kite.retry (x : Kite) : Kite :=
  if x.wait = .rewind then { x with cause := 0, req := none }
  else
    let x := { x with st := .flying, cause := 0, wait := .none, req := none, resume := .here }
    if (x.buf x.cur).filling then { x with st := .waiting, wait := .fill x.cur } else x

/-- A kite of a crew flying again at its regb (R291, R341); its stopped mma goes on (R237). -/
def Crew.retryKite (w : Crew) (k : Nat) : Crew :=
  let w := w.freeStopped k
  { w with kites := w.kites.mod k Kite.retry }

/-- A kite of a crew whose request for va is denied: it stays parked, with the event of an ACCESS (R341), which it posts
as it parks where its region still rewinds. -/
def Crew.denyKite (va : Word) (w : Crew) (k : Nat) : Crew :=
  let rewinds := (w.kites.get k).wait == .rewind
  { w with kites := w.kites.mod k fun x => { x with cause := 0x04, faultva := va, req := none }
           events := w.events ++ if rewinds then [] else [{ cause := 0x04, va := va, agent := k, park := true }] }

/-- The crew with f done for each of its kites that await a request. -/
def Crew.answer (w : Crew) (id : Nat) (f : Crew → Nat → Crew) : Crew :=
  ((w.kites.filter fun e => e.2.awaits id).map (·.1)).foldl f w

/-- Every crew of a context, running or saved, with f done for the kites that await a request. -/
def answerKites (s : State) (r : PageReq) (f : Crew → Nat → Crew) : State :=
  let g := fun (w : Crew) => if w.ctx = r.ctx then w.answer r.id f else w
  { s with crews := s.crews.each g, flights := s.flights.each fun l => { l with saved := l.saved.map g } }

/-- The request answered for good: no longer open; a context parked for its sake is active again (R342). -/
def closeReq (s : State) (r : PageReq) : State :=
  let s := s.modModule fun m => { m with reqs := m.reqs.filter fun q => q.id != r.id }
  if r.noFrame then s.modCtx r.ctx fun x => { x with st := 1 } else s

/-- The open request that a PRDONE names. -/
def openReq (s : State) : Option PageReq := s.module.reqs.find? fun q => q.id == s.ev.item

/-- A PRDONE noted by replay capture (R391). -/
def capturePrdone (s : State) (r : PageReq) (status : Nat) : State :=
  capture s r.ctx 2 (s.die 0).cycle [status, r.id]

/-- RESIDENT, R341. -/
def execResident (s : State) : Host.Outcome State Fault Refusal :=
  .next (
    match openReq s with
    | none => s
    | some r => answerKites (closeReq (capturePrdone s r 0) r) r Crew.retryKite)

/-- DENIED, R341. -/
def execDenied (s : State) : Host.Outcome State Fault Refusal :=
  .next (
    match openReq s with
    | none => s
    | some r => answerKites (closeReq (capturePrdone s r 1) r) r (Crew.denyKite (BitVec.ofNat 64 r.va)))

/-- A context event, R384. -/
def contextEvent (r : PageReq) (time : Nat) : Nat :=
  time <<< 128 ||| r.id <<< 32 ||| (r.ctx % 2 ^ 6) <<< 16 ||| 0x13 <<< 8 ||| 0x80

/-- NO_FRAME, R342: FRAME_EXHAUSTED to the host, and the context is parked. -/
def execNoFrame (s : State) : Host.Outcome State Fault Refusal :=
  .next (
    match openReq s with
    | none => s
    | some r =>
      let s := capturePrdone s r 2
      let s := s.modModule fun m =>
        { m with reqs := m.reqs.map fun q => if q.id = r.id then { q with noFrame := true } else q }
      let s := postToHost s (contextEvent r (s.cycle r.core))
      s.modCtx r.ctx fun x => { x with st := 2 })

/-! ## Registers without a behaviour of their own -/

/-- A write to word i of a ring's registers (Table 19-3). -/
def Ring.write (r : Ring) (i v : Nat) : Ring :=
  match i with
  | 0 => { r with en := bit v 0 }
  | 1 => { r with rd := bits v 63 32 }
  | 2 => if r.en then r else { r with log2n := bits v 35 32 }
  | _ => if r.en then r else { r with base := v }

/-- The field of a write to WINBASE (Table 19-1): a local physical address, aligned to the window's size. -/
def Module.window (m : Module) (v : Nat) : Nat := bits v 51 30 * 2 ^ 30 / 2 ^ m.barLog2 * 2 ^ m.barLog2

/-- A write to the 8-byte register at BAR 0 offset o, of those without a row of their own (R8, R382). -/
def hostRegWrite (s : State) (o v : Nat) : State :=
  if o = 0x10 then s.modModule fun m => { m with winbase := m.window v }
  else if o = 0x100 then s.modModule fun m => { m with tlbinv := { m.tlbinv with vapg := bits v 47 12 } }
  else if o = 0x108 then
    (let w := s.module.tlbinv.write v
     if s.module.tlbinv.busy ∨ w.starts = true then s else s.modModule fun m => { m with tlbinv := w })
  else if o % 8 ≠ 0 then s
  else if 0x200 ≤ o ∧ o < 0x220 then s.modModule fun m => { m with prring := m.prring.write ((o - 0x200) / 8) v }
  else if 0x220 ≤ o ∧ o < 0x240 then s.modModule fun m => { m with evring := m.evring.write ((o - 0x220) / 8) v }
  else if 0x1100 ≤ o ∧ o < 0x1300 then
    s.modModule fun m => { m with route := m.route.put ((o - 0x1100) / 8) (v % 2 ^ 16) }
  else if 0x11000 ≤ o ∧ o < 0x11400 then
    (let n := (o - 0x11000) / 16
     if (s.ctx n).valid then s
     else s.modCtx n fun x => if o % 16 = 0 then { x with slotCnt := v % 2 ^ 24 } else { x with slotPool := v })
  else if o = 0x100008 then s.modModule fun m => { m with mbox := { m.mbox with arg0 := v } }
  else if o = 0x100010 then s.modModule fun m => { m with mbox := { m.mbox with arg1 := v } }
  else s

/-- Word i of a ring's registers (Table 19-3). -/
def Ring.word (r : Ring) (i : Nat) : Nat :=
  match i with
  | 0 => r.en.toNat
  | 1 => r.rd % 2 ^ 32 * 2 ^ 32 + min r.lost 65535 * 2 ^ 16
  | 2 => r.log2n % 2 ^ 4 * 2 ^ 32 + r.wr % 2 ^ 32
  | _ => r.base

/-- READY (Table 19-2). -/
def Module.readyWord (m : Module) : Nat :=
  let skein := (List.range 16).foldl (fun w p => if (m.sk.get p).ready then w + 2 ^ (24 + p) else w) 0
  skein + m.clus % 2 ^ 12 * 2 ^ 12 + m.fwFail.toNat * 2 ^ 5 + m.hbmFail.toNat * 2 ^ 4 + m.hbm.toNat * 2 ^ 3 +
    m.lpddr.toNat * 2 ^ 2 + m.sched.toNat * 2 + m.dmp.toNat

/-- PWR (Table 19-1). -/
def Module.pwrWord (m : Module) : Nat :=
  m.throttle % 2 ^ 4 * 2 ^ 40 + m.inlet % 2 ^ 8 * 2 ^ 32 + m.watts % 2 ^ 16 * 2 ^ 16 + m.mhz % 2 ^ 16

/-- TLBINV1 (Table 16-5). -/
def Tlbinv.word (v : Tlbinv) : Nat :=
  v.busy.toNat * 2 ^ 63 + v.kind * 2 ^ 56 + v.count * 2 ^ 40 + v.gen * 2 ^ 32 + v.asid * 2 ^ 16 + v.ctx

/-- SKPORT (Table 19-4). -/
def SkPort.word (p : SkPort) : Nat :=
  p.peer % 2 ^ 6 * 2 ^ 20 + p.lanes % 2 ^ 4 * 2 ^ 16 + p.train.toNat * 2 + p.ready.toNat

/-- Word i of a context entry (Table 16-1). -/
def Context.word (x : Context) (i : Nat) : Nat :=
  match i with
  | 0 => x.gen * 2 ^ 20 + x.asid * 2 ^ 4 + x.ft.toNat * 2 ^ 3 + x.st * 2 + x.valid.toNat
  | 2 => x.root
  | 3 => x.vstbase
  | _ => 0

/-- The slot that a queue holds: BOUND of Table 17-2. -/
def slotOf (s : State) (q : Nat) : Option Nat :=
  (List.range 32).find? fun i => (s.slots.get i).queue == some q

/-- Word i of a queue descriptor (Table 17-2); ABORT, which is only written, reads zero (R8). -/
def queueWord (s : State) (q i : Nat) : Nat :=
  let x := s.queues.get q
  if i = 0 then
    x.ctx * 2 ^ 32 + x.log2n * 2 ^ 16 + x.cls * 2 ^ 8 + x.err.toNat * 2 ^ 3 + (slotOf s q).isSome.toNat * 2 + x.valid.toNat
  else x.ring

/-- What a host read of the 8-byte register at a BAR 0 offset returns (R8, R382, Table 19-1): a field that is only
written reads zero, and so does every offset without a register. -/
def barWord (s : State) (o : Nat) : Nat :=
  let m := s.module
  if o % 8 ≠ 0 then 0
  else if o = 0 then m.readyWord
  else if o = 0x08 then m.devnum % 2 ^ 6
  else if o = 0x10 then m.winbase
  else if o = 0x18 then m.pwrWord
  else if o = 0x100 then m.tlbinv.vapg * 2 ^ 12
  else if o = 0x108 then m.tlbinv.word
  else if 0x200 ≤ o ∧ o < 0x220 then { m.prring with lost := 0 }.word ((o - 0x200) / 8)
  else if 0x220 ≤ o ∧ o < 0x240 then m.evring.word ((o - 0x220) / 8)
  else if 0x1000 ≤ o ∧ o < 0x1080 then (m.sk.get ((o - 0x1000) / 8)).word
  else if 0x1100 ≤ o ∧ o < 0x1300 then m.route.get ((o - 0x1100) / 8)
  else if 0x10000 ≤ o ∧ o < 0x10800 then (s.ctx ((o - 0x10000) / 32)).word (o % 32 / 8)
  else if 0x11000 ≤ o ∧ o < 0x11400 then
    (let x := s.ctx ((o - 0x11000) / 16); if o % 16 = 0 then x.slotCnt else x.slotPool)
  else if 0x20000 ≤ o ∧ o < 0x24000 then queueWord s ((o - 0x20000) / 16) (o % 16 / 8)
  else if o = 0x100008 then m.mbox.arg0
  else if o = 0x100010 then m.mbox.arg1
  else if o = 0x100018 then m.mbox.busy.toNat * 2 ^ 63 + m.mbox.result
  else 0

/-- What a host read of the 8-byte register at a BAR 2 offset returns (R346, Table 17-3). -/
def notifyWord (s : State) (o : Nat) : Nat :=
  let x := s.queues.get (o / 4096 % 1024)
  if o % 4096 = 0 then x.wridx % 2 ^ 32 else if o % 4096 = 8 then x.rdidx % 2 ^ 32 else 0

/-- The value that a read from outside returned. -/
def outsideRead (s : State) (v : Nat) : State := s.modModule fun m => { m with hostOut := v }

/-- A host read of the 8 bytes at an offset of BAR 0, or with `bar` 2 of BAR 2: LOST is cleared by its read (RS, R8). -/
def hostRegRead (s : State) (bar o : Nat) : State :=
  if bar = 2 then outsideRead s (notifyWord s o)
  else
    let s' := outsideRead s (barWord s o)
    if o = 0x228 then s'.modModule fun m => { m with evring := { m.evring with lost := 0 } } else s'

/-- REGISTER_WRITE, R8, R346, R360, R382, R384, R387, R390: an access of the host to the 8-byte register at BAR 0 offset
`unit`: a write of `value`, or with `ok` a read, then with `sub` 2 of BAR 2. -/
def execRegisterWrite (s : State) : Host.Outcome State Fault Refusal :=
  .next (if s.ev.ok then hostRegRead s s.ev.sub s.ev.unit else hostRegWrite s s.ev.unit (s.ev.value % 2 ^ 64))

/-- LOST_READ, R8, R384: a host read of the event ring's register that holds LOST, which clears it. -/
def execLostRead (s : State) : Host.Outcome State Fault Refusal := .next (hostRegRead s 0 0x228)

/-! ## BAR 4 and peers -/

/-- The canonical address that an offset of BAR 4 names, if it lies in the window and in a range of Table 15-1 (R381,
R383). -/
def barAddr (s : State) (o : Nat) : Option Nat :=
  let pa := s.module.winbase + o
  if 2 ^ s.module.barLog2 ≤ o ∨ 2 ^ 51 ≤ pa then none else canonical s.module (s.module.devnum * 2 ^ 52 + pa)

/-- Bytes that come from outside written at their homes; those without an address are dropped. -/
def outsidePut (s : State) (ws : List (Option Nat × Byte)) : State :=
  ws.foldl (fun s w => match w.1 with | some a => commit s a [w.2] | none => s) s

/-- The release record of a write from outside on the lines that it writes (R305). -/
def outsideRelease (s : State) (as : List (Option Nat)) (r : RelRec) : State :=
  { s with rels := as.foldl (fun (t : Tab RelRec) a => match a with | some a => t.set (lineOf a) r | none => t) s.rels }

/-- The host as the owner of a release record: device 64. -/
def hostRel : RelRec := { core := 192, dev := 64, scope := 4 }

/-- HOST_BAR_ACCESS, R383, R295: `item` bytes at offset `unit` of BAR 4, written with `ok`, else read. -/
def execHostBarAccess (s : State) : Host.Outcome State Fault Refusal :=
  let as := (List.range s.ev.item).map fun i => barAddr s (s.ev.unit + i)
  .next (
    if s.ev.ok then outsideRelease (outsidePut s (as.zip (toBytes s.ev.item s.ev.value))) as hostRel
    else outsideRead s (ofBytes (as.map fun a => match a with | some a => memGet s.mem a | none => 255)))

/-- An atomic from outside at the home of n bytes (R95, R383). -/
def outsideAtomic (s : State) (a n : Nat) (g : Nat → Option Nat) (rel : Option RelRec) : State :=
  let old := memRead s.mem a n
  let s := outsideRead s old
  match g old with
  | none => s
  | some v =>
    let s := commit s a (toBytes n v)
    match rel with
    | some r => { s with rels := s.rels.set (lineOf a) r }
    | none => s

/-- HOST_ATOMICOP, R383: `sub` 0 adds `value`, 1 swaps, 2 compares with `old` and swaps; 4 or 8 bytes. -/
def execHostAtomicop (s : State) : Host.Outcome State Fault Refusal :=
  let e := s.ev
  let n := if e.item = 4 then 4 else 8
  let v := e.value % 2 ^ (8 * n)
  .next (
    if e.unit % n ≠ 0 ∨ 2 < e.sub then s
    else
      match barAddr s e.unit with
      | none => outsideRead s (ones (8 * n))
      | some a =>
        outsideAtomic s a n (fun old =>
          if e.sub = 0 then some ((old + v) % 2 ^ (8 * n))
          else if e.sub = 1 then some v
          else if old = e.old % 2 ^ (8 * n) then some v else none) none)

/-- What an atomic of a peer writes: functions 0 to 8 are those of amo, 9 cas, 10 to 13 those of famo (R92, R96). -/
def peerNew (p : PeerAcc) (old : Nat) : Option Nat :=
  let v := p.value % 2 ^ (8 * p.n)
  match p.fn with
  | 0 => some (AmoFn.add.new p.n old v)
  | 1 => some (AmoFn.and.new p.n old v)
  | 2 => some (AmoFn.or.new p.n old v)
  | 3 => some (AmoFn.xor.new p.n old v)
  | 4 => some (AmoFn.min.new p.n old v)
  | 5 => some (AmoFn.max.new p.n old v)
  | 6 => some (AmoFn.minn.new p.n old v)
  | 7 => some (AmoFn.maxn.new p.n old v)
  | 8 => some v
  | 9 => if old = p.cmp % 2 ^ (8 * p.n) then some v else none
  | n => some (famoNew (n - 10) old v)

/-- The canonical address of a byte that a peer accesses on this module (R330). -/
def peerAddr (s : State) (a : Nat) : Option Nat := canonical s.module (s.module.devnum * 2 ^ 52 + a % 2 ^ 52)

/-- PEER_ACCESS, R308: a read (kind 0), a write (1) or an atomic (2) at the home; with bit 1 of `order`, a release
of the peer's agent. A byte in no range is not written, and what a read of it returns is free (log 2). -/
def execPeerAccess (s : State) : Host.Outcome State Fault Refusal :=
  let p := s.ev.peer
  let as := (List.range p.n).map fun i => peerAddr s (p.addr + i)
  let r : RelRec := { core := p.core, dev := p.dev, scope := p.scope }
  let rel := if bit p.order 1 then some r else none
  .next (
    match p.kind with
    | 0 =>
      let (d, s) := s.draw Config.freeNat
      outsideRead s (ofBytes (as.zipIdx.map fun a =>
        match a.1 with | some a => memGet s.mem a | none => BitVec.ofNat 8 (d >>> (8 * a.2))))
    | 1 =>
      let s := outsidePut s (as.zip (toBytes p.n p.value))
      (match rel with | some r => outsideRelease s as r | none => s)
    | _ =>
      match as with
      | some a :: _ => if a % p.n = 0 ∧ p.fn ≤ 13 then outsideAtomic s a p.n (peerNew p) rel else s
      | _ => s)

/-! ## Ports and bring-up -/

/-- PORT_TRAINED, R386: port `unit` has trained with peer `item` on `value` good lanes; none becomes ready while the DMP
waits for an image (R389). -/
def execPortTrained (s : State) : Host.Outcome State Fault Refusal :=
  let l := s.ev.value
  .next (if s.module.fwWait then s else s.modModule fun m =>
    { m with sk := m.sk.mod (s.ev.unit % 16) fun p =>
        if 4 ≤ l ∧ l ≤ 8 then { peer := s.ev.item % 64, lanes := l, ready := true, train := false }
        else { p with lanes := min l 3, ready := false, train := true } })

/-- PORT_DOWN, R386. -/
def execPortDown (s : State) : Host.Outcome State Fault Refusal :=
  .next (s.modModule fun m => { m with sk := m.sk.mod (s.ev.unit % 16) fun p => { p with ready := false, train := true } })

/-- The defect map of a core (R22): its lane groups, column groups and whether it is unusable. -/
def Core.defects (k : Core) (d : Nat) : Core := { k with laneBad := bits d 7 0, colBad := bits d 15 8, bad := bit d 16 }

/-- The state with the defect maps of the cores. -/
def withDefects (s : State) (maps : List Nat) : State :=
  iter 192 (fun i s => if maps.getD i 0 = 0 then s else s.modCore i fun k => k.defects (maps.getD i 0)) s

/-- BRINGUP_READY, R388, R389: function `unit` is 0 the DMP, 1 the mapper, 2 LPDDR-6, 3 HBM, unless the defect map names
a second failed channel (R324), 4 then HBMFAIL, 5 a firmware image that fails, 12 + c cluster c. -/
def execBringupReady (s : State) : Host.Outcome State Fault Refusal :=
  .next (
    if s.module.fwWait then s
    else
      match s.ev.unit with
      | 0 =>
        if s.module.dmp then s
        else
          let (d, s) := s.draw Config.freeNat
          s.modModule fun m => { m with dmp := true, meas := if m.meas = [] then [toBytes 32 d] else m.meas }
      | 1 => s.modModule fun m => { m with sched := true }
      | 2 => s.modModule fun m => { m with lpddr := true }
      | 3 => if s.module.hbmBad then s else s.modModule fun m => { m with hbm := true }
      | 4 => if s.module.hbmBad then s.modModule fun m => { m with hbmFail := true } else s
      | 5 => s.modModule fun m => { m with fwFail := true, fwWait := true }
      | n => if 12 ≤ n ∧ n < 24 then s.modModule fun m => { m with clus := setBit m.clus (n - 12) true } else s)

/-- MODULE_RESET, R388: every state but memory, which the manual does not reset, and the model's own schedule; the
module's defect map is the one that holds from here on (R22, R324): `cores` has the map of each core, `item` is one above
the channel that the spare serves or 0, and `ok` says that a second channel has failed. -/
def execModuleReset (s : State) : Host.Outcome State Fault Refusal :=
  let e := s.ev
  .next (withDefects
    { State.reset with
      mem := s.mem, moves := s.moves, draws := s.draws
      module := { State.reset.module with
        spare := if e.item = 0 then none else some ((e.item - 1) % 1279), hbmBad := e.ok } }
    e.cores)

/-! ## The mailbox -/

/-- A mailbox command of a code: the write of MBCMD, ignored while BUSY; then, with `ok`, its performance by the DMP,
which writes RESULT; while it waits in its ROM, it performs only LOAD_FW (R389, R390). -/
def mailbox (s : State) (code : Nat) (run : State → State × Nat) : State :=
  let b := s.module.mbox
  if !s.ev.ok then
    (if b.busy then s else s.modModule fun m => { m with mbox := { b with busy := true, code := code } })
  else if b.busy && b.code == code && (if s.module.fwWait then code == 1 else s.module.dmp) then
    let (s, res) := run s
    s.modModule fun m => { m with mbox := { m.mbox with busy := false, result := res } }
  else s

/-- RESULT of a command that fails: not 0, and otherwise free (R390, log 2). -/
def failResult (s : State) : State × Nat :=
  let (d, s) := s.draw Config.freeNat
  (s, 1 + d % 255)

/-- LOAD_FW, R389, R390: the image is verified, and measured if it verifies; eight measurements are kept. -/
def execLoadFw (s : State) : Host.Outcome State Fault Refusal :=
  .next (mailbox s 1 fun s =>
    let img := hostGet s s.module.mbox.arg0 s.module.mbox.arg1
    if Config.verifies img then
      (s.modModule fun m => { m with meas := (m.meas ++ [shake256 img]).take 8, fwWait := false }, 0)
    else failResult (s.modModule fun m => { m with fwFail := true, fwWait := true }))

/-- The defect maps of n cores from core c on as one number, 17 bits each. -/
def defectMap (s : State) (c n : Nat) : Nat :=
  (List.range n).foldl (fun d i =>
    let k := s.core (c + i)
    d ||| (k.laneBad % 2 ^ 8 ||| (k.colBad % 2 ^ 8) <<< 8 ||| k.bad.toNat <<< 16) <<< (17 * i)) 0

/-- What the defect map says of HBM, as one number (R324). -/
def hbmMap (m : Module) : Nat := (match m.spare with | some ch => ch + 1 | none => 0) + 2 ^ 11 * m.hbmBad.toNat

/-- The attestation header, Table 19-6. -/
def attestHeader (s : State) : List Byte :=
  let m := s.module
  toBytes 4 0x00545441 ++ toBytes 4 m.devnum ++ toBytes 1 m.meas.length ++ toBytes 7 0 ++
    toBytes 8 (Config.signature 12 (defectMap s 0 192 ||| hbmMap m <<< (17 * 192))).toNat ++ toBytes 8 (s.die 0).cycle ++ hostGet s m.mbox.arg0 32

/-- ATTEST, R390. -/
def execAttest (s : State) : Host.Outcome State Fault Refusal :=
  .next (mailbox s 2 fun s =>
    let msg := attestHeader s ++ s.module.meas.flatten
    (hostPut s s.module.mbox.arg1 (msg ++ toBytes 29792 (Config.sign msg).toNat), 0))

/-- What CERT returns (R389, R390): the device key's public key, and Salline's signature of it. -/
def certBytes : List Byte := toBytes 64 Config.publicKey.toNat ++ toBytes 29792 Config.keySignature.toNat

/-- CERT, R390. -/
def execCert (s : State) : Host.Outcome State Fault Refusal :=
  .next (mailbox s 3 fun s => (hostPut s s.module.mbox.arg0 certBytes, 0))

/-- REPLAY_CTL, R390, R391. -/
def execReplayCtl (s : State) : Host.Outcome State Fault Refusal :=
  .next (mailbox s 4 fun s => (s.modModule fun m => { m with repMask := m.mbox.arg0 }, 0))

/-- REPLAY_READ, R391: the ring, oldest entry first, as far as the buffer reaches. -/
def execReplayRead (s : State) : Host.Outcome State Fault Refusal :=
  .next (mailbox s 5 fun s =>
    let b := s.module.mbox
    (hostPut s b.arg0 ((s.module.replay.flatMap Replay.bytes).take b.arg1), 0))

/-! ## Power -/

/-- The clock, the power and the throttle reasons with the coolant inlet at t degrees (R20, R392): a reason lowers the
clock below its nominal rate, and the coolant is one above 40; above 50 flights are stopped, until it is below 40. -/
def Module.cooled (m : Module) (t reasons clk watts : Nat) : Module :=
  let t := t % 2 ^ 8
  let r := reasons % 8 + (if 40 < t then 8 else 0)
  { m with inlet := t, throttle := r, mhz := if r = 0 then 3300 else min clk 3299, watts := min watts 2600
           stopped := decide (50 < t) || (m.stopped && decide (40 ≤ t)) }

/-- THROTTLE, R392: the clock `value` in MHz, the reasons `item` other than the coolant, the power `old` and the inlet
`sub`. -/
def execThrottle (s : State) : Host.Outcome State Fault Refusal :=
  .next (s.modModule fun m => m.cooled s.ev.sub s.ev.item s.ev.value s.ev.old)

/-- THERMAL_STOP, R392: the coolant inlet `value` exceeds 50 °C; the clock is lowered to `item`. -/
def execThermalStop (s : State) : Host.Outcome State Fault Refusal :=
  .next (
    if 50 < s.ev.value % 2 ^ 8 then s.modModule fun m => m.cooled s.ev.value m.throttle s.ev.item m.watts else s)

/-- THERMAL_RECOVERY, R392: the coolant inlet `value` is below 40 °C again; the clock is `item` where another reason
lowers it. -/
def execThermalRecovery (s : State) : Host.Outcome State Fault Refusal :=
  .next (
    if s.ev.value % 2 ^ 8 < 40 then s.modModule fun m => m.cooled s.ev.value m.throttle s.ev.item m.watts else s)

end Sys2Proof.Machine
end

