-- ==== Sys2Proof/Machine/Mapper.lean ====
section
/-!
DEFINITION. Queues, launch records, images and the mapper's slots (R45 to R48, R203, R343 to R352, R354, R357 to
R359). In `EvArgs`, `unit` is the queue or the slot, `sub` the word of a descriptor or the node, `item` the free slot
of a binding, `value` what is written. The mapper's time is CYCLE of die 0.
Open points: logs 8 (DEDUCED, DESIGN CHOICE), 29 (DEDUCED, DESIGN CHOICE).
-/
namespace Sys2Proof.Machine

/-! ## Queues and slots -/

/-- Whether a queue is pending (R351). -/
def Queue.pending (q : Queue) : Bool := q.valid && (q.wridx != q.rdidx || !q.recs.isEmpty)

/-- CYCLE as the mapper reads it. -/
def now0 (s : State) : Nat := (s.die 0).cycle

/-- Whether the mapper works for a queue: it is bound and not being switched out (R347). -/
def served (s : State) (q : Nat) : Bool :=
  match slotOf s q with
  | some i => !(s.slots.get i).leaving
  | none => false

/-- A slot bound to a queue: its binding and its quantum begin, and the latched WRIDX applies (R347, R351). -/
def bindSlot (s : State) (i q : Nat) : State :=
  let t := now0 s
  let s := s.modSlot i fun m => { m with queue := some q, bound := t, quantum := t, leaving := false, next := none }
  s.modQueue q fun x => { x with limit := x.wridx }

/-- A slot left by its queue, which waits from now on if it is pending; the queue that displaced it is bound, if it is
still pending (R351). -/
def passSlot (s : State) (i : Nat) : State :=
  let m := s.slots.get i
  let t := now0 s
  let s := match m.queue with
    | some q => s.modQueue q fun x => { x with since := t }
    | none => s
  match m.next.filter fun q => (s.queues.get q).pending with
  | some q => bindSlot s i q
  | none => s.modSlot i fun m => { m with queue := none, leaving := false, next := none }

/-- Slots whose queue is no longer pending are released at once (R351). -/
def freeIdle (s : State) : State :=
  iter 32 (fun i s =>
    match (s.slots.get i).queue with
    | some q => if (s.queues.get q).pending then s else passSlot s i
    | none => s) s

/-- Flights of a queue on cores. -/
def onCores (s : State) (q : Nat) : Bool :=
  s.flights.has fun f => f.st != .saved && (s.ascents.get f.ascent).queue == q

/-- A slot whose queue is to leave for another, or for none (R352): at once where no flight of it is on a core. -/
def leaveSlot (s : State) (i : Nat) (next : Option Nat) : State :=
  let s := s.modSlot i fun m => { m with leaving := true, next := next }
  match (s.slots.get i).queue with
  | some q => if onCores s q then s else passSlot s i
  | none => s

/-! ## The mapper's reads -/

/-- An aligned access of the mapper: its translation through the page tables of a context, without the caches of a
core, as an access with U and, for a write, W. -/
def mapXlat (s : State) (ctx va : Nat) (acc : XAcc) : Option Nat :=
  if 2 ^ 48 ≤ va then none
  else match pageXlat s 192 ctx va acc .engine with
    | .ok (x, _) => some x.a
    | .error _ => none

/-- n committed bytes of a context, within one page (R348). -/
def mapRead (s : State) (ctx va n : Nat) : Option Nat := (mapXlat s ctx (va % 2 ^ 64) .load).map fun a => memRead s.mem a n

/-- A completion word: an 8-byte store with release at SYSTEM scope, or dropped with ERR (R356). -/
def doneWrite (s : State) (q ctx va : Nat) (v : Word) : State :=
  if va = 0 then s
  else
    match if va % 8 = 0 then mapXlat s ctx va .store else none with
    | none => s.modQueue q fun x => { x with err := true }
    | some a =>
      let s := commit s a (toBytes 8 v.toNat)
      { s with rels := s.rels.set (lineOf a) { core := 192, dev := s.module.devnum, scope := 4 } }

/-! ## Launch records -/

/-- Fields of a launch record (Tables 17-4, 17-5). -/
def lrKind (w : Nat) : Nat := w % 2 ^ 8
def lrAfter (w : Nat) : Bool := bit w 8
def lrIrq (w : Nat) : Bool := bit w 9
def lrNflt (w : Nat) : Nat := bits w 31 16
def lrImage (w : Nat) : Nat := bits w 127 64
def lrChipsp (w : Nat) : Nat := bits w 159 128
def lrDoneaddr (w : Nat) : Nat := bits w 255 192
def lrDoneval (w : Nat) : Nat := bits w 319 256
def lrArg (w : Nat) : Nat := bits w 383 320
def lrGbase (w : Nat) : Nat := bits w 447 384
def lrPcount (w : Nat) : Nat := bits w 454 448
def lrPaddr (w : Nat) : Nat := bits w 575 512
def lrDeps (w : Nat) : Nat := bits w 639 576

/-- The reserved bits of a launch record; DEPS is one in a ring record (R348). -/
def lrReserved (node : Bool) : Nat :=
  ones 6 <<< 10 ||| ones 32 <<< 32 ||| ones 32 <<< 160 ||| ones 57 <<< 455 ||| ones 384 <<< 640 |||
    (if node then 0 else ones 64 <<< 576)

/-- Whether the fields of a record break Tables 17-4 and 17-5 (R350). -/
def lrBad (w : Nat) (node : Bool) : Bool :=
  let n := lrNflt w
  w &&& lrReserved node != 0 || n == 0 || decide (64 < lrPcount w) || lrImage w % 64 != 0 || lrDoneaddr w % 8 != 0 ||
    lrPaddr w % 8 != 0 ||
    (match lrKind w with
      | 1 => lrGbase w != 0
      | 2 => node || decide (64 < n) || lrGbase w % 128 != 0
      | _ => true)

/-- Whether node j of a graph is bad (R350). -/
def nodeBad (w j : Nat) : Bool :=
  lrBad w true || lrPcount w != 0 || lrAfter w || decide (2 ^ j ≤ lrDeps w)

/-- The nodes of a graph record, in order, where all can be read. -/
def readNodes (s : State) (ctx w : Nat) : Nat → Nat → Option (List Nat)
  | 0, _ => some []
  | n + 1, j =>
    match mapRead s ctx (lrGbase w + 128 * j) 128 with
    | none => none
    | some x => (readNodes s ctx w n (j + 1)).map fun xs => x :: xs

/-! ## Images -/

/-- A variant of an image (Table 2-14), with its reservations by .sp: the space and the end of each. -/
structure Variant where
  sig    : Nat := 0
  req    : Nat := 0
  crew   : Nat := 1
  flight : Nat := 1
  role   : Nat := 0
  smode  : Bool := false
  entry  : Nat := 0
  sp     : List (Nat × Nat) := []
  deriving DecidableEq, Repr, Inhabited

/-- n table entries of 32 bytes from an address on. -/
def readEntries (s : State) (ctx : Nat) : Nat → Nat → Option (List Nat)
  | 0, _ => some []
  | n + 1, va =>
    match mapRead s ctx va 32 with
    | none => none
    | some x => (readEntries s ctx n (va + 32)).map fun xs => x :: xs

/-- Whether a header breaks R45 and R48; its tables lie at offsets that are multiples of 64. -/
def headerBad (h : Nat) : Bool :=
  h % 2 ^ 32 != 0x00585455 || bits h 47 32 != 1 || bits h 63 48 != 0 || bits h 127 88 != 0 || bits h 511 256 != 0 ||
    bits h 191 128 % 64 != 0 || bits h 255 192 % 64 != 0 || bits h 87 80 == 0 || decide (64 < bits h 87 80) ||
    bits h 79 64 == 0 || decide (4096 < bits h 79 64)

/-- Fields of a section entry (Table 2-13). -/
def secKind (e : Nat) : Nat := e % 2 ^ 8
def secFileoff (e : Nat) : Nat := bits e 127 64
def secSpace (e : Nat) : Nat := bits e 15 8
def secVariant (e : Nat) : Nat := bits e 23 16
def secSize (e : Nat) : Nat := bits e 63 32
def secAddr (e : Nat) : Nat := bits e 191 128

/-- Whether a section reaches past the end of its file, of which `fin` is the length where it is known (R48). -/
def pastEnd (fin : Option Nat) (o n : Nat) : Bool := match fin with | some z => decide (z < o + n) | none => false

/-- Whether a section entry breaks R46 and R48, in a file of length `fin`. -/
def secBad (fin : Option Nat) (nvar e : Nat) : Bool :=
  let k := secKind e
  bits e 31 24 != 0 || bits e 255 192 != 0 || k == 0 || decide (5 < k) ||
    (if k = 4 then secSpace e == 0 || decide (4 < secSpace e) || secFileoff e != 0
     else secSpace e != 0 || secFileoff e % 64 != 0 || pastEnd fin (secFileoff e) (secSize e)) ||
    (decide (nvar ≤ secVariant e) && secVariant e != 255) || (k == 1 && (secAddr e % 64 != 0 || secSize e % 32 != 0))

/-- Whether a variant entry breaks R48 by itself. -/
def varBad (e : Nat) : Bool :=
  bits e 127 96 != 0 || bits e 191 153 != 0 || !([1, 2, 4, 8, 16].contains (bits e 135 128)) || bits e 143 136 == 0 ||
    decide (16 < bits e 143 136) || decide (2 < bits e 151 144)

/-- Whether a section belongs to variant i. -/
def secOf (i e : Nat) : Bool := secVariant e == i || secVariant e == 255

/-- Whether some REEL section of variant i holds its ENTRY (R48). -/
def hasEntry (secs : List Nat) (i entry : Nat) : Bool :=
  secs.any fun e => secKind e == 2 && secOf i e && decide (secAddr e ≤ entry) && decide (entry < secAddr e + secSize e)

/-- Variant i of an image. -/
def variantOf (secs : List Nat) (i e : Nat) : Variant :=
  { sig := bits e 63 0, req := bits e 95 64, crew := bits e 135 128, flight := bits e 143 136, role := bits e 151 144
    smode := bit e 152, entry := bits e 255 192
    sp := (secs.filter fun x => secKind x == 4 && secOf i x).map fun x => (secSpace x, secAddr x + secSize x) }

/-- The variants of the image at an address, none where it cannot be read or breaks R48. -/
def readImage (s : State) (ctx va : Nat) : Option (List Variant) :=
  match mapRead s ctx va 64 with
  | none => none
  | some h =>
    if headerBad h then none
    else
      let nvar := bits h 87 80
      match readEntries s ctx (bits h 79 64) (va + bits h 191 128), readEntries s ctx nvar (va + bits h 255 192) with
      | some secs, some vars =>
        if secs.any (secBad (s.module.files.find (fileKey ctx va)) nvar) || vars.any varBad ||
            (vars.zipIdx).any (fun v => !(hasEntry secs v.2 (bits v.1 255 192))) then none
        else some ((vars.zipIdx).map fun v => variantOf secs v.2 v.1)
      | _, _ => none

/-! ## Admission -/

/-- Whether a crew can be placed on a core: it is usable and has a healthy lane group (R354, R380). -/
def coreHealthy (s : State) (c : Nat) : Bool := !(s.core c).bad && (s.core c).laneBad % 256 != 255

/-- Bits of a mask that no core of a cluster has set. -/
def noneHas (s : State) (cl : Nat) (g : Core → Nat) : Nat :=
  (List.range 8).foldl (fun m i => if (List.range 16).any fun k => bit (g (s.core (16 * cl + k))) i then m else m + 2 ^ i) 0

/-- The good mask of a cluster (R354). -/
def goodMask (s : State) (cl : Nat) : Nat :=
  noneHas s cl Core.laneBad + 2 ^ 8 * noneHas s cl (fun k => k.laneBad ||| k.colBad) +
    2 ^ 16 * (List.range 16).foldl (fun m k => if coreHealthy s (16 * cl + k) then m + 2 ^ k else m) 0

/-- The signature of a cluster: 0 where every resource is healthy (R354). -/
def clusterSig (s : State) (cl : Nat) : Nat :=
  let d := defectMap s (16 * cl) 16
  if d = 0 then 0 else (Config.signature cl d).toNat

/-- The variant that a cluster admits, with its index (R354). -/
def admitted (s : State) (cl : Nat) (vs : List Variant) : Option (Nat × Variant) :=
  let all := vs.zipIdx
  let sig := clusterSig s cl
  let good := goodMask s cl
  match all.find? fun v => v.1.sig == sig with
  | some v => some (v.2, v.1)
  | none => (all.find? fun v => v.1.req &&& good == v.1.req).map fun v => (v.2, v.1)

/-- The cores that REQMASK names (R47, R353). -/
def Variant.named (v : Variant) : List Nat := (List.range 16).filter fun k => bit v.req (16 + k)

/-- CHIPSP rounded up to 64 KiB. -/
def chipBytes (chipsp : Nat) : Nat := ceilDiv chipsp 65536 * 65536

/-- Whether the reservations of a variant keep R203. -/
def Variant.spOk (v : Variant) (chipsp : Nat) : Bool :=
  v.sp.all fun r => decide (r.2 ≤
    (match r.1 with
      | 1 => 2097152
      | 2 => v.flight * 1048576
      | 3 => min 67108864 (chipBytes chipsp)
      | _ => 2048))

/-- Whether a cluster could hold a flight of a variant with all its resources free (R350). -/
def couldHold (s : State) (cl : Nat) (v : Variant) (chipsp : Nat) : Bool :=
  v.spOk chipsp &&
    (if v.named = [] then decide (v.flight ≤ ((List.range 16).filter fun k => coreHealthy s (16 * cl + k)).length)
     else v.named.length == v.flight && v.named.all fun k => coreHealthy s (16 * cl + k))

/-- The cause that refuses the launch of one ascent, apart from the fields of its record (R350). -/
def launchRefusal (s : State) (ctx w : Nat) : Option Nat :=
  match readImage s ctx (lrImage w) with
  | none => some 0x31
  | some vs =>
    let adm := (List.range 12).filterMap fun cl => (admitted s cl vs).map fun v => (cl, v.2)
    if adm = [] then some 0x31
    else if 67108864 < lrChipsp w ∨ adm.any (fun a => !(a.2.spOk (lrChipsp w))) then some 0x32
    else if adm.all fun a => !(couldHold s a.1 a.2 (lrChipsp w)) then some 0x32
    else none

/-- The first refusal of some launches, 0x31 before 0x32. -/
def worst (l : List (Option Nat)) : Option Nat :=
  if l.contains (some 0x31) then some 0x31 else if l.contains (some 0x32) then some 0x32 else none

/-- The cause that refuses a ring record, or none with its nodes (R350). -/
def recordRefusal (s : State) (ctx w : Nat) : Except Nat (List Nat) :=
  if lrBad w false then .error 0x11
  else if lrKind w = 1 then (match launchRefusal s ctx w with | some e => .error e | none => .ok [])
  else
    match readNodes s ctx w (lrNflt w) 0 with
    | none => .error 0x11
    | some ns =>
      if (ns.zipIdx).any fun n => nodeBad n.1 n.2 then .error 0x11
      else match worst (ns.map (launchRefusal s ctx)) with
        | some e => .error e
        | none => .ok ns

/-! ## The life of a record -/

/-- The completion of a record or a node: its word, and the interrupt it asks for (R348, R356). -/
def completeWord (s : State) (q ctx w : Nat) (v : Word) : State :=
  let s := doneWrite s q ctx (lrDoneaddr w) v
  if lrIrq w then interrupt s 2 else s

/-- An ascent begun for a record or a node (R343, R349, R358). -/
def startAscent (s : State) (q ctx : Nat) (r : Rec) (node : Option Nat) (w : Nat) : State :=
  let a : Ascent :=
    { queue := q, rec_ := r.no, node := node, ctx := ctx, image := lrImage w, chipsp := lrChipsp w
      doneaddr := lrDoneaddr w, doneval := BitVec.ofNat 64 (lrDoneval w), arg := BitVec.ofNat 64 (lrArg w)
      nflt := lrNflt w, irq := lrIrq w }
  { s with ascents := s.ascents.set s.nextId a, nextId := s.nextId + 1 }

/-- n parameter words from an address on; what one that cannot be read loads is free (log 2). -/
def readParams (s : State) (ctx : Nat) : Nat → Nat → List Word × State
  | 0, _ => ([], s)
  | n + 1, va =>
    match mapRead s ctx va 8 with
    | some v => let (vs, s) := readParams s ctx n (va + 8); (BitVec.ofNat 64 v :: vs, s)
    | none =>
      let (d, s) := s.draw Config.freeNat
      let (vs, s) := readParams s ctx n (va + 8)
      (BitVec.ofNat 64 d :: vs, s)

/-- The parameters that a record loads as it starts (R349). -/
def loadParams (s : State) (q ctx w : Nat) : State :=
  if lrPcount w = 0 then s
  else
    let (vs, s) := readParams s ctx (lrPcount w) (lrPaddr w)
    s.modQueue q fun x => { x with gp := (vs.zipIdx).map fun v => (v.2, v.1) }

/-- A record of a queue started (R349): its parameters, and its ascent; the nodes of a graph start by themselves. -/
def startRec (s : State) (q : Nat) (r : Rec) : State :=
  let ctx := (s.queues.get q).ctx
  let s := loadParams s q ctx r.w
  let s := s.modQueue q fun x => { x with recs := x.recs.map fun y => if y.no = r.no then { y with started := true } else y }
  if lrKind r.w = 1 then startAscent s q ctx r none r.w else s

/-- The record of a queue with a number. -/
def findRec (s : State) (q no : Nat) : Option Rec := (s.queues.get q).recs.find? fun r => r.no == no

/-- A record removed from those in progress. -/
def dropRec (s : State) (q no : Nat) : State := s.modQueue q fun x => { x with recs := x.recs.filter fun r => r.no != no }

/-- The value of a completion word: DONEVAL, or an error code (R356, R357, R368). -/
def errorWord (n : Nat) : Word := BitVec.ofNat 64 (2 ^ 63 + n)

/-- Whether ascents of a record are left. -/
def hasAscents (s : State) (q no : Nat) : Bool := s.ascents.has fun a => a.queue == q && a.rec_ == no

/-- A graph with nothing left to run completes (R357, R358). -/
def settleGraph (s : State) (q no : Nat) : State :=
  match findRec s q no with
  | none => s
  | some r =>
    if hasAscents s q no || !(r.aborted || r.ndone.length == r.nodes.length) then s
    else
      let v := if r.aborted then errorWord 0x100 else BitVec.ofNat 64 (lrDoneval r.w)
      dropRec (completeWord s q (s.queues.get q).ctx r.w v) q no

/-- An ascent whose flights have all ended completes (R201, R356, R358, R368); what it leaves RETIRED is freed
(R288). -/
def completeAscent (s : State) (id : Nat) : State :=
  let a := s.ascents.get id
  let v := if a.aborted then errorWord 0x100
    else match a.endCause with
      | some e => errorWord e
      | none => a.doneval
  let s := doneWrite s a.queue a.ctx a.doneaddr v
  let s := if a.irq then interrupt s 2 else s
  let s := { s with ascents := s.ascents.del id, chips := s.chips.filter fun c => c.ascent != id
                    sprels := s.sprels.filter fun r => !(r.space == 3 && r.owner / 2 == id) }
  let s := match a.node with
    | none => dropRec s a.queue a.rec_
    | some j =>
      settleGraph (s.modQueue a.queue fun x => { x with recs := x.recs.map fun r =>
        if r.no = a.rec_ then { r with ndone := j :: r.ndone } else r }) a.queue a.rec_
  let s := freeUnnamed s a.ctx
  if (s.ascents.has fun b => b.ctx == a.ctx) || (s.ctx a.ctx).st != 1 then s
  else s.modCtx a.ctx fun x => { x with st := 0 }

/-- Every ascent of a queue with no flight left completes. -/
def settleQueue (s : State) (q : Nat) : State :=
  (s.ascents.filter fun e => e.2.queue == q && e.2.finished == e.2.nflt).foldl (fun s e => completeAscent s e.1) s

/-! ## Ending a queue's work -/

/-- A launch record taken, with its parameter words, noted by replay capture (R391). -/
def captureTake (s : State) (ctx w : Nat) : State :=
  let ps := (List.range (min 64 (lrPcount w))).filterMap fun i => mapRead s ctx (lrPaddr w + 8 * i) 8
  capture s ctx 1 (now0 s) (w :: ps)

/-- A record of the ring that ABORT takes (R357): its completion word, or ERR where it cannot be read. -/
def abortRing (s : State) (q : Nat) : Nat → State
  | 0 => s
  | n + 1 =>
    let x := s.queues.get q
    let s := match mapRead s x.ctx (x.ring + 128 * (x.rdidx % 2 ^ x.log2n)) 128 with
      | none => s.modQueue q fun y => { y with err := true }
      | some w => completeWord (captureTake s x.ctx w) q x.ctx w (errorWord 0x100)
    abortRing (s.modQueue q fun y => { y with rdidx := (y.rdidx + 1) % 2 ^ 32 }) q n

/-- A record in progress that ABORT ends (R357): one not started completes now; one started places nothing more. -/
def abortRec (s : State) (q : Nat) (r : Rec) : State :=
  if !r.started then dropRec (completeWord s q (s.queues.get q).ctx r.w (errorWord 0x100)) q r.no
  else
    let s := s.modQueue q fun x => { x with recs := x.recs.map fun y => if y.no = r.no then { y with aborted := true } else y }
    let s := { s with ascents := s.ascents.each fun a =>
      if a.queue = q ∧ a.rec_ = r.no then { a with aborted := true, nflt := a.placed } else a }
    settleGraph s q r.no

/-- The crews of a queue's flights end (R357); those that are switched out when they resume. -/
def endCrews (s : State) (q : Nat) : State :=
  (s.crews.filter fun e => (s.ascents.get (s.flight e.2.flight).ascent).queue == q).foldl
    (fun s e => startEnd s e.1 none) s

/-- ABORT, R357. -/
def abortQueue (s : State) (q : Nat) : State :=
  let x := s.queues.get q
  if !x.valid then s
  else
    let s := x.recs.foldl (fun s r => abortRec s q r) s
    let s := settleQueue (endCrews s q) q
    let y := s.queues.get q
    freeIdle (abortRing s q ((y.wridx + 2 ^ 32 - y.rdidx) % 2 ^ 32))

/-- The ABORT bit, R357. -/
def execAbort (s : State) : Host.Outcome State Fault Refusal := .next (abortQueue s (s.ev.unit % 1024))

/-! ## Writes to queues -/

/-- A queue that has become pending waits from now on. -/
def noteWait (s : State) (q : Nat) (before : Bool) : State :=
  let t := now0 s
  s.modQueue q fun x => if x.pending && !before then { x with since := t } else x

/-- NOTIFY_WRITE, R346, R347: WRIDX of queue `unit`. -/
def execNotifyWrite (s : State) : Host.Outcome State Fault Refusal :=
  let q := s.ev.unit % 1024
  let w := s.ev.value % 2 ^ 32
  let x := s.queues.get q
  let d := (w + 2 ^ 32 - x.rdidx) % 2 ^ 32
  .next (
    if d ≤ 2 ^ x.log2n ∧ (x.wridx + 2 ^ 32 - x.rdidx) % 2 ^ 32 ≤ d then
      let on := served s q
      noteWait (s.modQueue q fun x => { x with wridx := w, stuck := false, limit := if on then w else x.limit }) q x.pending
    else s.modQueue q fun x => { x with err := true })

/-- Whether a write of V = 1 to a descriptor is accepted (R345). -/
def queueAccepted (s : State) (x : Queue) : Bool :=
  (s.ctx x.ctx).valid && decide (4 ≤ x.log2n) && decide (x.log2n ≤ 16) && x.ring % 2 ^ 12 == 0

/-- The fields of word 0 of a descriptor that are written while V = 0 (Table 17-2). -/
def Queue.fields0 (x : Queue) (v : Nat) : Queue :=
  { x with ctx := bits v 37 32, log2n := bits v 20 16, cls := bits v 10 8 }

/-- QUEUE_DESCRIPTOR_WRITE, R345: word `sub` of the descriptor of queue `unit`. -/
def execQueueDescriptorWrite (s : State) : Host.Outcome State Fault Refusal :=
  let q := s.ev.unit % 1024
  let v := s.ev.value % 2 ^ 64
  let x := s.queues.get q
  .next (
    if s.ev.sub ≠ 0 then (if x.valid ∨ s.ev.sub ≠ 1 then s else s.modQueue q fun x => { x with ring := v })
    else
      let s := if bit v 3 then s.modQueue q fun x => { x with err := false } else s
      if x.valid then
        let s := if bit v 2 then abortQueue s q else s
        if bit v 0 ∨ (s.queues.get q).recs ≠ [] then s
        else freeIdle (s.modQueue q fun x => { x with valid := false })
      else
        let y := (s.queues.get q).fields0 v
        noteWait (s.modQueue q fun _ => { y with valid := bit v 0 && queueAccepted s y }) q false)

/-! ## Binding -/

/-- The class of a queue. -/
def classOf (s : State) (q : Nat) : Nat := (s.queues.get q).cls

/-- The slots that classes 0 and 1 hold, those they will hold among them (R351). -/
def highSlots (s : State) : Nat :=
  countBelow 32 fun i =>
    let m := s.slots.get i
    let high := fun (o : Option Nat) => match o with | some q => decide (classOf s q ≤ 1) | none => false
    high m.queue || high m.next

/-- Whether a queue waits for a slot. -/
def waitsSlot (s : State) (q : Nat) : Bool :=
  (s.queues.get q).pending && (slotOf s q).isNone && !((List.range 32).any fun i => (s.slots.get i).next == some q)

/-- Of some queues, the one of the lowest class, the longest waiting, the lowest number (R351). -/
def firstWaiting (s : State) (qs : List Nat) : Option Nat :=
  qs.foldl (fun b q =>
    match b with
    | none => some q
    | some p =>
      let x := s.queues.get q
      let y := s.queues.get p
      if x.cls < y.cls ∨ (x.cls = y.cls ∧ x.since < y.since) then some q else b) none

/-- The queues that wait for a slot. -/
def waiting (s : State) : List Nat := (s.queues.map (·.1)).filter (waitsSlot s)

/-- The slot that a queue of class 0 or 1 displaces: of the largest class from 2 to 7, bound longest; failing that,
for class 0, of class 1, bound longest (R351). -/
def victim (s : State) (cls : Nat) : Option Nat :=
  let cands := (List.range 32).filter fun i =>
    let m := s.slots.get i
    match m.queue with
    | some p => !m.leaving && (if highSlots s < 24 then decide (2 ≤ classOf s p) else cls == 0 && classOf s p == 1)
    | none => false
  cands.foldl (fun b i =>
    match b with
    | none => some i
    | some j =>
      let ci := match (s.slots.get i).queue with | some p => classOf s p | none => 0
      let cj := match (s.slots.get j).queue with | some p => classOf s p | none => 0
      if cj < ci ∨ (ci = cj ∧ (s.slots.get i).bound < (s.slots.get j).bound) then some i else b) none

/-- QUEUE_BIND, R351: queue `unit` takes free slot `item`, or displaces another. -/
def execQueueBind (s : State) : Host.Outcome State Fault Refusal :=
  let q := s.ev.unit % 1024
  let i := s.ev.item % 32
  let cls := classOf s q
  let free := (s.slots.get i).queue.isNone
  let high := highSlots s
  .next (
    if s.module.sched = false ∨ waitsSlot s q = false then s
    else if cls ≤ 1 then
      (if high < 24 ∧ free = true then bindSlot s i q
       else if high < 24 ∧ (List.range 32).any (fun j => (s.slots.get j).queue.isNone) = true then s
       else match victim s cls with
         | some j => leaveSlot s j (some q)
         | none => s)
    else if free = true ∧
        firstWaiting s ((waiting s).filter fun p => decide (2 ≤ classOf s p) || decide (high < 24)) = some q then
      bindSlot s i q
    else s)

/-- QUANTUM_END, R351: the quantum of slot `unit`. -/
def execQuantumEnd (s : State) : Host.Outcome State Fault Refusal :=
  let i := s.ev.unit % 32
  let m := s.slots.get i
  .next (
    match m.queue with
    | none => s
    | some q =>
      let c := classOf s q
      if c < 2 ∨ m.leaving = true ∨ now0 s < m.quantum + 250000 then s
      else
        match firstWaiting s ((waiting s).filter fun p => decide (2 ≤ classOf s p) && decide (classOf s p ≤ c)) with
        | some p => leaveSlot s i (some p)
        | none => s.modSlot i fun y => { y with quantum := now0 s })

/-! ## Taking and starting records -/

/-- RECORD_TAKE, R349, R350: the next record of queue `unit`. -/
def execRecordTake (s : State) : Host.Outcome State Fault Refusal :=
  let q := s.ev.unit % 1024
  let x := s.queues.get q
  .next (
    if served s q = false ∨ x.rdidx = x.limit ∨ 8 ≤ x.recs.length ∨ x.stuck = true then s
    else
      match mapRead s x.ctx (x.ring + 128 * (x.rdidx % 2 ^ x.log2n)) 128 with
      | none => s.modQueue q fun y => { y with err := true, stuck := true }
      | some w =>
        let s := captureTake s x.ctx w
        let verdict := recordRefusal s x.ctx w
        let s := s.modQueue q fun y => { y with rdidx := (y.rdidx + 1) % 2 ^ 32 }
        match verdict with
        | .error e => freeIdle (completeWord s q x.ctx w (errorWord e))
        | .ok ns =>
          let r : Rec := { no := x.rdidx, w := w, nodes := ns }
          let s := s.modQueue q fun y => { y with recs := y.recs ++ [r] }
          if lrAfter w || lrPcount w != 0 then s else startRec s q r)

/-- RECORD_START, R349: the first record of queue `unit`, every earlier one having completed. -/
def execRecordStart (s : State) : Host.Outcome State Fault Refusal :=
  let q := s.ev.unit % 1024
  .next (
    match (s.queues.get q).recs with
    | r :: _ => if r.started ∨ served s q = false then s else startRec s q r
    | [] => s)

/-- GRAPH_NODE_START, R358: node `sub` of record `item` of queue `unit`. -/
def execGraphNodeStart (s : State) : Host.Outcome State Fault Refusal :=
  let q := s.ev.unit % 1024
  let j := s.ev.sub
  .next (
    match findRec s q s.ev.item with
    | none => s
    | some r =>
      match r.nodes[j]? with
      | none => s
      | some w =>
        let ready := (List.range 64).all fun i => !(bit (lrDeps w) i) || r.ndone.contains i
        let inOrder := lrDeps w != 0 || (List.range j).all fun i =>
          lrDeps (r.nodes.getD i 0) != 0 || r.nstart.contains i
        if r.started && !r.aborted && !(r.nstart.contains j) && ready && inOrder && served s q then
          let s := s.modQueue q fun x => { x with recs := x.recs.map fun y =>
            if y.no = r.no then { y with nstart := j :: y.nstart } else y }
          startAscent s q (s.queues.get q).ctx r (some j) w
        else s)

end Sys2Proof.Machine
end

