-- ==== Sys2Proof/Machine/Place.lean ====
section
/-!
DEFINITION. Flights on clusters (R78, R114, R117, R120, R174, R201 to R203, R244, R274, R314, R337, R353 to R356,
R372 to R376): their placement, their switch-out and resumption, and the end of their crews. In `EvArgs`, `unit` is
the flight, or the core of the crew that ends; `cores` are the cores of a resumption.
Open points: log 30 (DEDUCED, DESIGN CHOICE).
-/
namespace Sys2Proof.Machine

/-! ## Room on a cluster -/

/-- The context of a flight. -/
def flightCtx (s : State) (f : Flight) : Nat := (s.ascents.get f.ascent).ctx

/-- Whether a core runs no crew and can take one (R353). -/
def coreFree (s : State) (c : Nat) : Bool := !(s.hasCrew c) && coreHealthy s c

/-- The cores of a cluster on which a flight of a variant goes (R353): those that REQMASK names, or the
lowest-numbered free healthy ones. -/
def chooseCores (s : State) (cl : Nat) (v : Variant) : Option (List Nat) :=
  let named := v.named.map (16 * cl + ·)
  if named ≠ [] then (if named.length = v.flight ∧ named.all (coreFree s) = true then some named else none)
  else
    let free := (List.range 16).filterMap fun k => if coreFree s (16 * cl + k) then some (16 * cl + k) else none
    if v.flight ≤ free.length then some (free.take v.flight) else none

/-- The shared memory allotted on a cluster: offsets and lengths (R202). -/
def sharedUse (s : State) (cl : Nat) : List (Nat × Nat) :=
  s.flights.filterMap fun e =>
    if e.2.cluster = cl ∧ e.2.st ≠ .saved then some (e.2.offset, e.2.cores.length * 1048576) else none

/-- The lowest offset at which n crews' shared memory fits on a cluster (R202, R353). -/
def sharedFit (s : State) (cl n : Nat) : Option Nat :=
  let used := sharedUse s cl
  let len := n * 1048576
  ((List.range 256).map (65536 * ·)).find? fun o =>
    decide (o + len ≤ 16777216) && used.all fun u => decide (o + len ≤ u.1) || decide (u.1 + u.2 ≤ o)

/-- Whether a cluster's span table holds a context, or has room for it (R337). -/
def spanRoom (s : State) (cl ctx : Nat) : Bool :=
  let here := s.spans.filter fun c => c.cluster == cl
  here.any (fun c => c.ctx == ctx) || decide (here.length < 4)

/-- Whether a die has an ascent's chip scratchpad, or room for it (R203). -/
def chipRoom (s : State) (id die : Nat) (a : Ascent) : Bool :=
  let here := s.chips.filter fun c => c.die == die
  here.any (fun c => c.ascent == id) || decide (here.foldl (fun n c => n + c.size) 0 + chipBytes a.chipsp ≤ 67108864)

/-- The state with a context's span table copied into a cluster, where it is not there yet (R337). -/
def takeSpans (s : State) (cl ctx : Nat) : State :=
  if s.spans.any fun c => c.cluster == cl && c.ctx == ctx then s
  else
    let (t, s) := loadTable s (s.ctx ctx).vstbase
    { s with spans := s.spans ++ [{ cluster := cl, ctx := ctx, entries := t }] }

/-- The state without the copy of a context's span table in a cluster, if no flight of it is there. -/
def dropSpans (s : State) (cl ctx : Nat) : State :=
  if s.flights.has fun f => f.cluster == cl && flightCtx s f == ctx then s
  else { s with spans := s.spans.filter fun c => !(c.cluster == cl && c.ctx == ctx) }

/-- The state with an ascent's chip scratchpad on a die (R201). -/
def takeChip (s : State) (id die : Nat) (a : Ascent) : State :=
  if a.chipsp = 0 ∨ s.chips.any (fun c => c.ascent == id && c.die == die) then s
  else { s with chips := s.chips ++ [{ ascent := id, die := die, size := chipBytes a.chipsp }] }

/-! ## Launch of a crew -/

/-- The number of healthy lane groups of a core (R117). -/
def lanesGood (k : Core) : Nat := countBelow 8 fun g => !(bit k.laneBad g)

/-- MVLB granted to a crew of n kites on a core (R117). -/
def grantLen (k : Core) (n : Nat) : Nat := 128 * lanesGood k * 16 / n

/-- The healthy column groups of a core (R223). -/
def colsGood (k : Core) : Nat :=
  (List.range 8).foldl (fun m i => if bit k.colBad i || bit k.laneBad i then m else m + 2 ^ i) 0

/-- The crew of Table 3-2 and R355 on a core. -/
def newCrew (s : State) (c fl index crewIndex : Nat) (a : Ascent) (v : Variant) : Crew :=
  let m := grantLen (s.core c) v.crew
  let arg := fun (n : Nat) => BitVec.ofNat 64 n
  { ctx := a.ctx, flight := fl, index := crewIndex, n := v.crew, smode := v.smode, mvlb := m
    colGood := colsGood (s.core c)
    kites := (List.range v.crew).map fun k => (k, Kite.launch v.role m)
    reel := { x := [(10, a.arg), (11, arg index), (12, arg crewIndex), (13, arg c)], pc := v.entry, sup := v.smode } }

/-! ## Placement -/

/-- Whether every flight of the records before one of a queue has been placed (R349). -/
def earlierPlaced (s : State) (q no : Nat) : Bool :=
  ((s.queues.get q).recs.takeWhile fun r => r.no != no).all fun r =>
    r.started && (lrKind r.w != 2 || r.aborted || r.nstart.length == r.nodes.length) &&
      !(s.ascents.has fun a => a.queue == q && a.rec_ == r.no && decide (a.placed < a.nflt))

/-- The ascents of a queue that have a flight to place, in order. -/
def toPlace (s : State) (q : Nat) : List Nat :=
  (s.ascents.filter fun e => e.2.queue == q && decide (e.2.placed < e.2.nflt) && earlierPlaced s q e.2.rec_).map (·.1)

/-- What a cluster gives the next flight of an ascent, if it meets the conditions of R353: the variant with its
index, the cores, and the offset of the shared memory. -/
def clusterTakes (s : State) (id cl : Nat) (vs : List Variant) : Option (Nat × Variant × List Nat × Nat) :=
  let a := s.ascents.get id
  match admitted s cl vs with
  | none => none
  | some (i, v) =>
    if !(bit s.module.clus cl) || !(v.spOk a.chipsp) || !(spanRoom s cl a.ctx) || !(chipRoom s id (cl / 6) a) then none
    else
      match chooseCores s cl v, sharedFit s cl v.flight with
      | some cs, some o => some (i, v, cs, o)
      | _, _ => none

/-- A flight placed on the cores of a cluster (R353, R355). -/
def placeFlight (s : State) (slot id cl i : Nat) (v : Variant) (cs : List Nat) (o : Nat) : State :=
  let a := s.ascents.get id
  let fl := s.nextId
  let s := takeChip (takeSpans s cl a.ctx) id (cl / 6) a
  let crews := (cs.zipIdx).foldl (fun (t : Tab Crew) c => t.set c.1 (newCrew s c.1 fl a.placed c.2 a v)) s.crews
  let f : Flight := { ascent := id, index := a.placed, cluster := cl, cores := cs, variant := i, offset := o }
  let s := { s with crews := crews, flights := s.flights.set fl f, nextId := fl + 1 }
  let s := s.modAscent id fun a => { a with placed := a.placed + 1 }
  let s := s.modSlot slot fun m => { m with last := some cl }
  let cls := classOf s a.queue
  let s := s.modModule fun m => { m with rrSlot := m.rrSlot.set cls slot }
  let s := if (s.ctx a.ctx).st = 0 then s.modCtx a.ctx fun x => { x with st := 1 } else s
  capture s a.ctx 6 (now0 s) [id, fl, i, cl]

/-- The clusters in the order in which a slot tries them (R353). -/
def clusterOrder (m : MSlot) : List Nat :=
  let from_ := match m.last with | some c => c + 1 | none => 0
  (List.range 12).map fun i => (from_ + i) % 12

/-- The next flight of an ascent placed for a slot, where a cluster takes it. -/
def tryPlace (s : State) (slot id : Nat) : Option State :=
  let a := s.ascents.get id
  if (s.ctx a.ctx).st = 2 then none
  else
    match readImage s a.ctx a.image with
    | none => none
    | some vs =>
      (clusterOrder (s.slots.get slot)).findSome? fun cl =>
        (clusterTakes s id cl vs).map fun t => placeFlight s slot id cl t.1 t.2.1 t.2.2.1 t.2.2.2

/-- The slots in the order in which their flights are placed: by class, round-robin within a class (R353). -/
def slotOrder (s : State) : List Nat :=
  (List.range 8).flatMap fun cls =>
    let from_ := match s.module.rrSlot.find cls with | some i => i + 1 | none => 0
    ((List.range 32).map fun i => (from_ + i) % 32).filter fun i =>
      let m := s.slots.get i
      match m.queue with
      | some q => !m.leaving && classOf s q == cls
      | none => false

/-- FLIGHT_PLACEMENT, R353: the first flight that a cluster takes. -/
def execFlightPlacement (s : State) : Host.Outcome State Fault Refusal :=
  .next (
    if s.module.stopped then s
    else
      ((slotOrder s).findSome? fun i =>
        match (s.slots.get i).queue with
        | some q => (toPlace s q).findSome? fun id => tryPlace s i id
        | none => none).getD s)

/-! ## Switch-out -/

/-- The tick of a flight's die. -/
def flightNow (s : State) (f : Flight) : Nat := (s.die (f.cluster / 6)).cycle

/-- Whether a flight has a reason to be switched out (R342, R352, R372, R392). -/
def mustLeave (s : State) (f : Flight) : Bool :=
  let q := (s.ascents.get f.ascent).queue
  f.relane || s.module.stopped || (s.ctx (flightCtx s f)).st == 2 || !(served s q)

/-- SWITCH_OUT, R372: the request to flight `unit`. -/
def execSwitchOut (s : State) : Host.Outcome State Fault Refusal :=
  .next (
    match s.flights.find s.ev.unit with
    | none => s
    | some f =>
      if f.st = .placed ∧ mustLeave s f = true then
        let t := flightNow s f
        let s := s.modFlight s.ev.unit fun f => { f with st := .stopping, since := t }
        capture s (flightCtx s f) 4 t [s.ev.unit]
      else s)

/-- The cores on which the crews of a flight run. -/
def crewCores (s : State) (fl : Nat) : List Nat := (s.crews.filter fun e => e.2.flight == fl).map (·.1)

/-- The bytes that a kite's AtomicOp, or its fix, has under way. -/
def WaitOn.outside : WaitOn → Bool
  | .atomicOp _ | .tint _ => true
  | _ => false

/-- Whether the crew on a core has come to its stopping units, its stores performed (R129, R314, R372, R373): the
state with its pending stores performed, and the answer. An atomic that waits for its release part is abandoned
30,000 ticks after the request (R99). -/
def crewStopped (s : State) (c : Nat) : State × Bool :=
  let w := s.crew c
  let busy := w.reel.wait.begun ||
    w.kites.has (fun x => x.st == .draining || x.wait.outside || x.vq.any (·.load.isSome) || (x.releasing && !(switchLate s c))) ||
    (s.ctxs.has fun x => x.tops.any fun o => o.core == c) || !(portsLinked s c)
  if busy then (s, false)
  else
    let s := flushPieces (iter 16 (fun k s => flushPend s c k) s) c
    release s c 3

/-- Every crew of some cores come to its stopping units. -/
def crewsStopped (s : State) : List Nat → State × Bool
  | [] => (s, true)
  | c :: cs =>
    let (s, ok) := crewStopped s c
    if ok then crewsStopped s cs else (s, false)

/-- A kite as it is saved (R129, R135): what its queue had dispatched has completed, and a rep issues anew. -/
def Kite.saved (x : Kite) : Kite :=
  { x with vq := x.vq.filter fun e => e.marker.isSome || !e.dispatched
           fpflags := x.vq.foldl (fun f e => if e.marker.isNone && e.dispatched then f ||| e.flags else f) x.fpflags
           repRun := false, mmRun := false }

/-- A crew as it is saved (Table 18-9), with the record-cache entries of its context. -/
def Crew.saved (w : Crew) (cache : List RecEntry) : Crew :=
  { w with kites := w.kites.each Kite.saved
           rcache := cache.filter fun e => e.ctx == w.ctx
           ports := w.ports.each fun p => { p with cmds := p.cmds.map fun m => { m with banks := [] } } }

/-- The owner of the release records of a saved crew's spaces. -/
def savedOwner (fl index : Nat) : Nat := 256 + 16 * fl + index

/-- Release records of the spaces of a core under another owner. -/
def moveSpRels (s : State) (from_ to_ : Nat) : State :=
  { s with sprels := s.sprels.map fun r => if (r.space = 1 ∨ r.space = 4) ∧ r.owner = from_ then { r with owner := to_ } else r }

/-- The crew of a core saved with its flight; the core is free. -/
def saveCrew (s : State) (fl c : Nat) : State :=
  let w := s.crew c
  let s := s.modFlight fl fun f => { f with saved := f.saved ++ [w.saved (s.core c).rcache] }
  let s := s.modCore c fun k => { k with rcache := k.rcache.filter fun e => e.ctx != w.ctx }
  let s := moveSpRels s c (savedOwner fl w.index)
  { s with crews := s.crews.del c, resvs := s.resvs.del c }

/-- The slots whose queues have left with their last flight pass on (R352). -/
def passSlots (s : State) : State :=
  iter 32 (fun i s =>
    let m := s.slots.get i
    match m.queue with
    | some q => if m.leaving && !(onCores s q) then passSlot s i else s
    | none => s) s

/-- SWITCH_OUT_COMPLETE, R373, R374: the collector holds every acknowledgement of flight `unit`. -/
def execSwitchOutComplete (s : State) : Host.Outcome State Fault Refusal :=
  let fl := s.ev.unit
  .next (
    match s.flights.find fl with
    | none => s
    | some f =>
      if f.st ≠ .stopping then s
      else
        let (s', ok) := crewsStopped s (crewCores s fl)
        if !ok then s
        else
          let s := (crewCores s' fl).foldl (fun s c => saveCrew s fl c) s'
          let t := flightNow s f
          passSlots (s.modFlight fl fun f => { f with st := .saved, savedAt := t, relane := false }))

/-- The parts of the unit that a command has under way; of a PAGE command those of page i. -/
def underWay (s : State) (c port : Nat) (m : Cmd) (i : Nat) : UItems :=
  match cmdOpc m.d with
  | 0x01 => .ok s (linItems m m.units)
  | 0x02 => .ok s (tensItems m m.units)
  | 0x03 => .ok s (rowsItems m m.units)
  | 0x11 => gatherItems s c port m false m.units
  | 0x12 => gatherItems s c port m true m.units
  | 0x21 => if m.pages.contains i then .hold else pageItems s c port m i
  | _ => .hold

/-- What of a unit the abandonment leaves performed (R373): the words, in their order, whose bits are set. -/
def partUnit (s : State) (c port : Nat) (m : Cmd) (mask i : Nat) : State :=
  match underWay s c port m i with
  | .ok s is =>
    (match runItems { s with ev := { s.ev with sub := 1 } } c port { m with todo := [] } is with
      | .ok s _ todo => performPieces s c m ((todo.zipIdx).filterMap fun e => if bit mask e.2 then some e.1 else none)
      | _ => s)
  | _ => s

/-- ABANDONMENT, R373: the unit under way at port `sub` of core `item` of flight `unit`, of which the words whose bits
are set in `value` have been performed; it is performed again in full on resumption. Of e2, page `old` of the command
of the core that `cores` numbers among those served. -/
def execAbandonment (s : State) : Host.Outcome State Fault Refusal :=
  .next (
    match s.flights.find s.ev.unit with
    | none => s
    | some f =>
      let c := s.ev.item
      if f.st ≠ .stopping ∨ flightNow s f < f.since + 30000 ∨ (s.crew c).flight ≠ s.ev.unit ∨ s.hasCrew c = false then s
      else
        match (nextServed s c s.ev.sub)[s.ev.cores.headD 0]? with
        | some m =>
          if m.started && decide (m.units < cmdUnits m.d m.dst) then partUnit s c s.ev.sub m s.ev.value s.ev.old else s
        | none => s)

/-! ## Resumption -/

/-- A vector register under a shorter grant of m bytes (R120). -/
def VReg.shorten (r : VReg) (m : Nat) : VReg :=
  { r with data := r.data % 2 ^ (8 * m), inval := r.inval % 2 ^ (m / 16), scale := r.scale % 2 ^ (8 * (m / 16))
           spare := r.spare % 2 ^ (8 * (m / 16)) }

/-- Whether a kite has lost elements under a grant of m bytes (R120). -/
def Kite.loses (x : Kite) (m : Nat) : Bool :=
  x.st != .absent && (decide (m < x.vlen) || x.vq.any fun e => e.marker.isNone && decide (m < e.ctx.len))

/-- Whether kite k of a crew loses elements under a grant of m (R120): by itself, or by a move of an accumulator that
waits in a tile queue. -/
def Crew.loses (w : Crew) (k : Nat) (x : Kite) (m : Nat) : Bool :=
  x.loses m || (x.st != .absent && w.tq.has fun q => q.any fun o =>
    o.owner == k && (o.op == 0x93 || o.op == 0x94) && Nat.blt m o.ctx.len)

/-- The crew without the queued moves of a kite that has lost elements (R120). -/
def Crew.dropMoves (w : Crew) (k : Nat) : Crew :=
  { w with tq := w.tq.each fun q => q.filter fun o => !(o.owner == k && (o.op == 0x93 || o.op == 0x94)) }

/-- A kite under the grant of a resumption at tick t (R78, R103, R117, R118, R120, R130). DESIGN CHOICE (log 30): the bits
that a predicate gains under a larger MVLB read 0; R120 names vector registers alone, and R130 the bits that are kept. -/
def Kite.regrant (x : Kite) (m t : Nat) : Kite :=
  let short := m < x.mvlb
  { x with v := if short then x.v.each fun r => r.shorten m else x.v
           p := if short then x.p.each fun b => b % 2 ^ (2 * m) else x.p
           vlen := min x.vlen m, mvlb := m, mvlChg := m != x.mvlb, waitCount := 0, dispWait := 0, yielded := false
           since := t }

/-- The refill of a buffer that is valid, as its crew resumes (R78). -/
def refillValid (s : State) (c k j : Nat) : State := if ((s.kite c k).buf j).valid then refill s c k j else s

/-- A kite of a resumed crew that R120 parks: none of its waiting vector instructions runs. -/
def parkLost (s : State) (c k m : Nat) : State :=
  let t := trapAt 0x0D 0 m
  let s := (s.modCrew c fun w => w.dropMoves k).modKite c k fun x => { x with vq := x.vq.filter fun e => e.marker.isSome }
  if (s.kite c k).st = .parked then lateTrap s c k t none else trapKite s c k t .here none

/-- The greatest N of a tile under g column groups (R223). -/
def Tile.widest (e : Tile) (g : Nat) : Nat := (if e.pair then 24 else 12) * g

/-- The tile of accumulator t released as a resumption takes it away (R244): it reads zero, its queue is dropped,
and its owner is parked. -/
def loseTile (s : State) (c t : Nat) : State :=
  let e := (s.crew c).tiles.get t
  match e.owner with
  | none => s
  | some k =>
    if e.m = 0 ∨ e.n ≤ e.widest (s.crew c).groups then s
    else
      let ts := if e.pair then [t, t + 1] else [t]
      let s := s.modCrew c fun w =>
        { w.releaseTiles ts with acc := ts.foldl (fun (a : Tab Acc) i => a.del i) w.acc
                                 tq := ts.foldl (fun (q : Tab (List MatOp)) i => q.del i) w.tq }
      if (s.kite c k).st = .parked then lateTrap s c k (tileTrap t) none else trapKite s c k (tileTrap t) .here none

/-- A command with its promise moved d ticks later (R274). -/
def Cmd.delayed (m : Cmd) (d : Nat) : Cmd := { m with promise := m.promise + d, svcEnd := m.svcEnd + d }

/-- A reel as it resumes at tick t: its instruction, which has had no effect, starts again after PREEMPT (R372, R376),
but for the end of its crew. -/
def Reel.resumed (r : Reel) (t : Nat) : Reel :=
  { r with wait := if r.wait = .crewDone then .crewDone else .none, since := t }

/-- A saved crew on a core at tick t, d ticks after its switch-out: before its kites are looked at. -/
def Crew.resumed (w : Crew) (k : Core) (t d : Nat) : Crew :=
  let m := grantLen k w.n
  { w with mvlb := m, colGood := colsGood k, rcache := [], preempt := true
           kites := w.kites.each fun x => x.regrant m t
           reel := w.reel.resumed t
           ports := w.ports.each fun p => { p with cmds := p.cmds.map fun c => c.delayed d } }

/-- The crew with the acquires that a resumption makes for its agents (R298, R311, R314): nothing that a die holds from
before tick t serves them. -/
def Crew.acquired (w : Crew) (t : Nat) : Crew :=
  { w with kites := w.kites.each fun x => { x with acqDev := t, acqSys := t }
           reel := { w.reel with acqDev := t, acqSys := t } }

/-- An event put into a list that rises by its agent, behind those of the same one. -/
def insertEvent (e : Event) : List Event → List Event
  | [] => [e]
  | f :: fs => if e.agent < f.agent then e :: f :: fs else f :: insertEvent e fs

/-- The crew with the events posted after its first n in the order of R367 for one clock: the lower kite first. -/
def Crew.orderEvents (w : Crew) (n : Nat) : Crew :=
  { w with events := w.events.take n ++ (w.events.drop n).foldl (fun l e => insertEvent e l) [] }

/-- A crew of flight fl, saved as w, restored on core c (R120, R244, R314, R375). -/
def restoreCrew (s : State) (fl c t d : Nat) (w : Crew) : State :=
  let m := grantLen (s.core c) w.n
  let lost := (w.kites.filter fun e => w.loses e.1 e.2 m).map (·.1)
  let s := s.modCore c fun k =>
    { k.clearL1 with rcache := (w.rcache ++ k.rcache.filter fun e => e.ctx != w.ctx).take 32 }
  let s := { s with crews := s.crews.set c ((w.resumed (s.core c) t d).acquired (nextTick s)) }
  let s := moveSpRels s (savedOwner fl w.index) c
  let s := iter 16 (fun k s => refillValid (refillValid s c k 0) c k 1) s
  let s := lost.foldl (fun s k => parkLost s c k m) s
  (iter 4 (fun i s => loseTile s c i) s).modCrew c fun x => x.orderEvents w.events.length

/-- Core numbers of a flight's records under a renaming. -/
def Flight.rename (f : Flight) (g : Nat → Nat) : Flight :=
  let names := fun (l : List (Nat × Nat)) => l.map fun a => (g a.1, a.2)
  { f with cores := f.cores.map g
           bars := f.bars.each fun b => { b with arr := names b.arr, past := b.past.each names }
           tsArr := f.tsArr.each fun l => l.map fun p => { p with core := g p.core }
           tsDone := f.tsDone.each fun l => l.map fun p => { p with core := g p.core } }

/-- Whether some cores can take the saved crews of a flight (R375). -/
def coresTake (s : State) (f : Flight) (cs : List Nat) : Bool :=
  let cl := clusterOf (cs.headD 0)
  cs.length == f.saved.length && distinct cs == cs && bit s.module.clus cl && decide (cl < 12) &&
    (cs.zip f.saved).all fun p =>
      let own := f.cores.getD p.2.index 192
      clusterOf p.1 == cl && !(s.hasCrew p.1) && !(s.core p.1).bad &&
        (p.1 == own || decide (p.2.mvlb ≤ grantLen (s.core p.1) p.2.n))

/-- Whether a flight may resume on a cluster (R342, R352, R375, R392). -/
def mayResume (s : State) (f : Flight) (cl : Nat) : Bool :=
  let a := s.ascents.get f.ascent
  served s a.queue && !s.module.stopped && (s.ctx a.ctx).st != 2 && spanRoom s cl a.ctx &&
    (a.chipsp == 0 || f.cluster / 6 == cl / 6)

/-- RESUMPTION, R375, R376: flight `unit` on the cores given, one for each of its saved crews in order; CYCLE of the die
has reached the tick of the switch-out (R20, R77). -/
def execResumption (s : State) : Host.Outcome State Fault Refusal :=
  let fl := s.ev.unit
  let cs := s.ev.cores
  let cl := clusterOf (cs.headD 0)
  .next (
    match s.flights.find fl with
    | none => s
    | some f =>
      match sharedFit s cl f.cores.length with
      | none => s
      | some o =>
        if f.st ≠ .saved ∨ coresTake s f cs = false ∨ mayResume s f cl = false ∨ (s.die (cl / 6)).cycle < f.savedAt then s
        else
          let ctx := flightCtx s f
          let t := (s.die (cl / 6)).cycle
          let new := (f.saved.map fun w => f.cores.getD w.index 192).zip cs
          let g := fun c => match new.find? fun p => p.1 == c with | some p => p.2 | none => c
          let crews := cs.zip f.saved
          let s := takeSpans s cl ctx
          let s := s.modFlight fl fun f =>
            { f.rename g with st := .placed, cluster := cl, offset := o, saved := [], since := t }
          let s := crews.foldl (fun s p => restoreCrew s fl p.1 t (t - f.savedAt) p.2) s
          let s := dropSpans s f.cluster ctx
          let s := if (s.ascents.get f.ascent).aborted then cs.foldl (fun s c => startEnd s c none) s else s
          capture s ctx 5 t (fl :: cs))

/-! ## The end of crews -/

/-- Whether every command, store and kite of an ending crew is done (R356): the state after the release, and the
answer. -/
def crewDone (s : State) (c : Nat) : State × Bool :=
  let w := s.crew c
  if w.ending && w.kites.all (fun e => e.2.st == .landed || e.2.st == .absent) && w.ports.all (fun p => p.2.cmds.isEmpty) &&
      !(s.ctxs.has fun x => x.tops.any fun o => o.core == c) then
    release s c 4
  else (s, false)

/-- A flight whose crews have all ended ends (R201, R337, R356). -/
def endFlight (s : State) (fl : Nat) (f : Flight) : State :=
  let ctx := flightCtx s f
  let s := { s with flights := s.flights.del fl, sprels := s.sprels.filter fun r => !(r.space == 2 && r.owner == fl) }
  let s := dropSpans s f.cluster ctx
  let s := s.modAscent f.ascent fun a => { a with finished := a.finished + 1 }
  let a := s.ascents.get f.ascent
  let s := if a.finished = a.nflt then completeAscent s f.ascent else s
  passSlots (freeIdle s)

/-- What the flight keeps of a crew that has ended (R397): its tiles are released (R243), and its core's memories go back
(R201). -/
def Crew.afterEnd (w : Crew) : Crew :=
  { w with tiles := [], acc := [], tq := [], recs := [], scratch := [], lanes := [], rcache := [], events := [], ended := true }

/-- CREW_END, R356: the crew on core `unit`. -/
def execCrewEnd (s : State) : Host.Outcome State Fault Refusal :=
  let c := s.ev.unit
  let fl := (s.crew c).flight
  .next (
    match s.flights.find fl with
    | none => s
    | some f =>
      let (s', ok) := crewDone s c
      if s.hasCrew c = false ∨ f.st ≠ .placed ∨ ok = false then s
      else
        let s := s'.modFlight fl fun f => { f with ended := f.ended ++ [(s'.crew c).afterEnd] }
        let s := { s with crews := s.crews.del c, resvs := s.resvs.del c
                          sprels := s.sprels.filter fun r => !((r.space == 1 || r.space == 4) && r.owner == c) }
        if crewCores s fl = [] then endFlight s fl f else s)

/-! ## Batch slots -/

/-- Whether something still holds a page of a slot's generation: a command that captured it, or an access of the
context under way to it (R362). -/
def pageHeld (s : State) (n : Nat) (d : DrainPage) : Bool :=
  let x := s.ctx n
  let holds := fun (w : Crew) => w.ctx == n && w.ports.has fun p => p.cmds.any fun m =>
    m.slots.any fun e => e.slot == d.slot && e.gen == d.gen && e.page == d.page
  let lines := (List.range 512).map fun i => (canonical s.module (x.slotPool + d.page * 65536 + 128 * i)).map lineOf
  let in_ := fun (a : Nat) => lines.contains (some (lineOf a))
  s.crews.has holds || (s.flights.has fun f => f.saved.any holds) ||
    (s.cores.has fun k => k.wp.any fun e => e.ctx == n && e.bytes.any fun w => in_ w.addr) ||
    let atomic := fun (o : WaitOn) => match o with | .atomicOp a => in_ a | _ => false
    s.crews.has fun w => w.ctx == n && (atomic w.reel.wait || w.kites.has fun y =>
      (y.pend.any fun p => p.bytes.any fun b => in_ b.addr) || atomic y.wait)

/-- SLOT_PAGE_DRAIN, R362: page `item` of the pool of context `unit` returns to it. -/
def execSlotPageDrain (s : State) : Host.Outcome State Fault Refusal :=
  let n := s.ev.unit % 64
  .next (
    match (s.ctx n).drain.find? fun d => d.page == s.ev.item with
    | none => s
    | some d =>
      if pageHeld s n d then s
      else s.modCtx n fun x => { x with drain := x.drain.filter fun e => e.page != d.page })

end Sys2Proof.Machine
end

