-- ==== Sys2Proof/Machine/Sched.lean ====
section
/-!
DEFINITION. What a step does around the instruction it runs (log 1): the turns of kites and reels, the choice
of the issue stage (R55 to R58), ticks (R20), and the choices that the manual leaves to the machine.
Open points: logs 1 (DESIGN CHOICE), 5 (DESIGN CHOICE), 9 (DEDUCED), 11 (DEDUCED), 33 (DEDUCED, DESIGN CHOICE), 34 (DEDUCED).
-/
namespace Sys2Proof.Machine

/-- The rows of the opcode table that are events of the machine and its surroundings, not instructions of a
kite or a reel. -/
def isEvent : Instr → Bool
  | .blockFillEnd | .waitConditionClear | .drainComplete | .sleepExpiry | .kiteWaitDeadline | .queueStall
  | .arrivalMarker | .writePathDrain | .fix | .bleach | .tintFree | .lin | .tens | .rows | .samp | .gath | .scat
  | .page | .cancel | .commandComplete | .arrivalCounterIncrement | .promiseMissed | .mcastTimeout
  | .bankReservationLimit | .userEventTake | .notifyWrite | .queueDescriptorWrite | .abort | .contextEntryWrite
  | .devnum | .tlbinvAll | .tlbinvAsid | .tlbinvAsidGen | .tlbinvPages | .tlbinvSpans | .invalidationComplete
  | .pageRequest | .resident | .denied | .noFrame | .loadFw | .attest | .cert | .replayCtl | .replayRead
  | .registerWrite | .hostBarAccess | .hostAtomicop | .queueBind | .quantumEnd | .recordTake | .recordStart
  | .graphNodeStart | .flightPlacement | .switchOut | .switchOutComplete | .abandonment | .resumption | .crewEnd
  | .slotPageDrain | .uncorrectableError | .correctedError | .portTrained | .portDown | .moduleReset
  | .bringupReady | .throttle | .thermalStop | .thermalRecovery | .peerAccess | .atomicopCompletion | .lostRead
  | .kBlock | .vectorInstructionComplete => true
  | _ => false

/-! ## Ticks -/

/-- CYCLE of a die, one tick on (R20). -/
def Die.tick (d : Die) : Die := { d with cycle := (d.cycle + 1) % 2 ^ 64 }

/-- A tick on both dies. -/
def tick (s : State) : State := (s.modDie 0 Die.tick).modDie 1 Die.tick

/-- A tick on one die, if the two stay within 2 ticks of each other (R20). -/
def tickDie (s : State) (d : Nat) : State :=
  if d < 2 ∧ (s.die d).cycle + 1 ≤ (s.die (1 - d)).cycle + 2 then s.modDie d Die.tick else s

/-! ## The turn of a kite -/

/-- The position of the instruction a kite issues next: its own, or the target of its running rep (R134), or the
one that R53 has still to find. -/
def Kite.issuePos (x : Kite) : Except Trap (Nat × Nat) :=
  if x.repRun || x.resume == .after then x.nextPos else .ok (x.cur, x.idx)

/-- What a FLYING kite issues: its next instruction, or the trap in its place, DATA_ERROR for a word of a bad
line (R54), ILLEGAL_OP for a word that is no instruction (R31). -/
def Kite.fetch (x : Kite) : Except Trap Instr :=
  match x.issuePos with
  | .error t => .error t
  | .ok (j, i) =>
    let b := x.buf j
    let a := BitVec.ofNat 64 (b.base + 12 * i)
    if (slotLines i).any fun l => b.bad.contains l then .error { cause := 0x0D, va := a }
    else match x.wordAt (j, i) with
      | some w => .ok w
      | none => .error { cause := 0x01, va := a }

/-- The turn of a kite that flies: a resumption's refill that is still to be made (R78), or the trap in place of its
instruction, or its instruction and the state before it. -/
def flyTurn (s : State) (c k : Nat) : State × Option Instr :=
  let x := s.kite c k
  if x.buf0.refill then (refill s c k 0, none)
  else if x.buf1.refill then (refill s c k 1, none)
  else match x.fetch with
    | .error t => (trapKite s c k t x.keeps none, none)
    | .ok i => if x.resume = .after then (advance s c k, none) else (s, some i)

/-- The turn of a kite: the instruction that it issues, if it is FLYING, its crew is not being switched out
(R372) and it has not yielded this clock (R58), and the state before it; or the state with its trap. During a
switch-out an atomic that waits for its release part goes on, until it is abandoned (R99). -/
def kiteTurn (s : State) (c k : Nat) : State × Option Instr :=
  let x := s.kite c k
  if !(s.crewRuns c) then
    (if s.hasCrew c && x.releasing && !(switchLate s c) then
      (s.modKite c k fun x => { x with st := .flying, wait := .none }, x.wordAt (x.cur, x.idx))
     else (s, none))
  else if x.st ≠ .flying then (s, none)
  else if x.yielded then (s.modKite c k fun x => { x with yielded := false }, none)
  else flyTurn s c k

/-- The turn of a reel: a user event where one is due (R367), else its next instruction; or the state with the
exception of its fetch or of an illegal word (R36, R37). A waiting reel executes its instruction anew; during a
switch-out it only ends one that it has begun (R372). -/
def reelTurn (s : State) (c : Nat) : State × Option Instr :=
  if !(s.crewRuns c || (s.hasCrew c && (s.reelOf c).wait.begun)) || (s.crew c).ending then (s, none)
  else
    let (s, taken) := settleReel s c
    if taken then (s, none)
    else match reelFetch s c with
      | .error e => (raiseExc c e, none)
      | .ok (w, s) =>
        match decodeReel w with
        | some i => (s, some i)
        | none => (reelIllegal s c w, none)

/-! ## The issue stage -/

/-- The slot in which a kite competes (R55): V for OP 0x40 and above, S below and for a position that traps
before its word is known. -/
def Kite.inSlotV (x : Kite) : Bool :=
  match x.issuePos with
  | .error _ => false
  | .ok (j, i) =>
    let b := x.buf j
    if (slotLines i).any fun l => b.bad.contains l then false
    else match b.words[i]? with
      | some w => decide (0x40 ≤ (w.extractLsb' 88 8).toNat)
      | none => false

/-- What the issue stage makes of a kite's next instruction on a clock (R49, R55): nothing, a wait, or its issue. -/
inductive Accepts where | nothing | waits | issues
  deriving DecidableEq, Repr

/-- Whether a kite that has not yielded flies with a next instruction of which the issue stage makes `a`. -/
def kiteFinds (ready : State → Nat → Nat → Accepts) (a : Accepts) (s : State) (c k : Nat) : Bool :=
  (s.kite c k).st == .flying && !(s.kite c k).yielded && ready s c k == a

/-- Whether a kite is ready for a slot (R55): its operands are available, and the sequencer, the matrix array or the
engine can accept its instruction. -/
def kiteReady (ready : State → Nat → Nat → Accepts) (s : State) (c : Nat) (v : Bool) (k : Nat) : Bool :=
  (s.kite c k).inSlotV == v && kiteFinds ready .issues s c k

/-- The kite of R56 among those ready for a slot: aged ones first, the largest wait count, the lowest KID;
then the lowest ROLE; then round-robin from the one after the last that the slot issued for that role. -/
def chooseKite (s : State) (c : Nat) (rr : Tab Nat) (ks : List Nat) : Option Nat :=
  let x := s.kite c
  let aged := ks.filter fun k => (x k).agecap ≤ (x k).waitCount
  let best := aged.foldl (fun b k => max b (x k).waitCount) 0
  match aged.find? fun k => (x k).waitCount == best with
  | some k => some k
  | none =>
    match (List.range 3).find? fun r => ks.any fun k => (x k).role == r with
    | none => none
    | some r =>
      let mine := ks.filter fun k => (x k).role == r
      let last := match rr.find r with | some k => k | none => 15
      match mine.find? fun k => last < k with
      | some k => some k
      | none => mine.head?

/-- A clock of the issue stage of a core (R55, R56): the kites whose next instruction has to wait become WAITING (R49),
and those chosen for the two slots take their turns next, the lower first, so that events posted on one clock stand in
that order (R367); the wait counts of the others ready rise, those of the sequencer for instructions that it does not
dispatch (R124), and a kite that has yielded may be ready on the next clock. -/
def clock (ready : State → Nat → Nat → Accepts) (s : State) (c : Nat) : State :=
  let held := (List.range 16).filter (kiteFinds ready .waits s c)
  let readyS := (List.range 16).filter (kiteReady ready s c false)
  let readyV := (List.range 16).filter (kiteReady ready s c true)
  let chosenS := chooseKite s c (s.core c).rrS readyS
  let chosenV := chooseKite s c (s.core c).rrV readyV
  let role := fun k => (s.kite c k).role
  let s := iter 16 (fun k s =>
    if (s.kite c k).st = .absent then s
    else s.modKite c k fun x =>
      let waits := (readyS.contains k && chosenS != some k) || (readyV.contains k && chosenV != some k)
      { x with waitCount := if waits then x.waitCount + 1 else 0, yielded := false
               dispWait := if x.vq.any (fun e => e.marker.isNone && !e.dispatched) then x.dispWait + 1 else 0 }) s
  let s := s.modCore c fun p =>
    { p with rrS := match chosenS with | some k => p.rrS.set (role k) k | none => p.rrS
             rrV := match chosenV with | some k => p.rrV.set (role k) k | none => p.rrV }
  let turns := match chosenS, chosenV with
    | some a, some b => if a ≤ b then [a, b] else [b, a]
    | a, b => a.toList ++ b.toList
  { s with moves := (held ++ turns).map (fun k => Move.kite c k false) ++ s.moves }

/-! ## Choices of the machine -/

/-- What a store performs together (R97, R204, R297): its bytes in one line of global memory, or of a bank. -/
def PendStore.pieces (p : PendStore) : List (List WByte) := byBlock (if p.space = 0 then 128 else 64) p.bytes

/-- Whether pending store i of a kite may perform: its data has arrived, and the scalar ones come in
order (R300). -/
def Kite.mayStore (x : Kite) (i : Nat) (p : PendStore) : Bool :=
  !p.late && (!p.scalar || !((x.pend.take i).any (·.scalar)))

/-- The n-th piece of pending store i of a kite performs (R300), with the release that the store carries (R305). -/
def storePerforms (s : State) (c k i n : Nat) : State :=
  let x := s.kite c k
  match x.pend[i]? with
  | none => s
  | some p =>
    match p.pieces[n]? with
    | none => s
    | some g =>
      if !(x.mayStore i p) then s
      else
        let rest := p.bytes.filter fun w => !(g.contains w)
        (performPend s c { p with bytes := g }).modKite c k fun x =>
          { x with pend := if rest.isEmpty then dropAt i x.pend else modifyAt (fun p => { p with bytes := rest }) i x.pend }

/-- A byte that vector reads of a kite's strip may take ahead of program order (R300): as it is now, or as pending
store src − 1 writes it. -/
def aheadByte (s : State) (c k space a src : Nat) : Option Byte :=
  let x := s.kite c k
  let now := if space = 0 then engineByte s c (s.crew c).ctx x.tintv a else memGet (spMem s c space) a
  if src = 0 then some now
  else
    match x.pend[src - 1]? with
    | none => none
    | some p => if p.space = space then (p.bytes.find? fun w => w.addr == a).map (mergeByte now) else none

/-- The strip of a kite that flies takes a byte ahead (R213, R300); an access whose view is being fixed waits (R284). -/
def readAhead (s : State) (c k space a src : Nat) : State :=
  let x := s.kite c k
  if !(s.crewRuns c) || !(x.st == .flying || x.st == .waiting) || viewFixing s (s.crew c).ctx x.tintv then s
  else
    match aheadByte s c k space a src with
    | none => s
    | some b => s.modKite c k fun x => { x with ahead := { space := space, addr := a, value := b } :: x.ahead }

/-- The entry for the block of 2^k pages from page `first` of the run of a TLB entry of one page: the block
lies within the run, and its first VA page and PFN are multiples of 2^k; what is left of the run goes with it (R332). -/
def TlbEntry.block (t : TlbEntry) (k first : Nat) : Option TlbEntry :=
  let n := 2 ^ k
  let last := t.vpn + min (pteRun t.leaf) (511 - t.vpn % 512)
  let pfn := ptePfn t.leaf + (first - t.vpn)
  if t.pages = 1 ∧ t.vpn ≤ first ∧ first + n - 1 ≤ last ∧ first % n = 0 ∧ pfn % n = 0 then
    some { t with vpn := first, pages := n, leaf := setBits (setBits t.leaf 12 46 pfn) 3 9 (last - first) }
  else none

/-- A TLB holds a block of a run as one entry; with FT = 1 RUN is ignored (R335). -/
def tlbBlock (s : State) (c i k first : Nat) : State :=
  match (s.core c).tlb[i]? with
  | none => s
  | some t =>
    if s.ctxs.any fun x => x.2.valid && x.2.ft && x.2.asid == t.asid && x.2.gen == t.gen then s
    else match t.block k first with
      | none => s
      | some t => s.modCore c fun p => { p with tlb := t :: p.tlb }

/-- A miss of a context in a leader set of a memory-side cache moves its selector (R322). -/
def leaderMiss (s : State) (ctx : Nat) (near : Bool) : State :=
  s.modCtx ctx fun x =>
    { x with selector := if near then min 1023 (x.selector + 1) else x.selector - 1 }

/-- A byte of host memory or of a peer's memory that its own software changes (R330; log 33). -/
def outsideWrite (s : State) (a : Nat) (b : Byte) : State :=
  if hostBase ≤ a ∧ a < 2 * peerBase then commit s a [b] else s

/-- The host sizes BAR 4 to 2^n bytes, from 1 GiB to 1 TiB (R381); WINBASE is aligned to the window. -/
def barSize (s : State) (n : Nat) : State :=
  if 30 ≤ n ∧ n ≤ 40 then s.modModule fun m => { m with barLog2 := n, winbase := m.winbase / 2 ^ n * 2 ^ n } else s

/-- A move that runs no instruction. -/
def otherMove (ready : State → Nat → Nat → Accepts) (s : State) : Move → State
  | .tick => tick s
  | .tickDie d => tickDie s d
  | .clock c => clock ready s c
  | .storePerforms c k i n => storePerforms s c k i n
  | .readAhead c k space a src => readAhead s c k space a src
  | .fillLine c k j i => fillLine s c k j i
  | .enginePiece c port id n near => enginePiece s c port id n near
  | .guestDrop d i => guestDrop s d i
  | .tlbDrop c i => s.modCore c fun p => { p with tlb := dropAt i p.tlb }
  | .walkDrop c i => s.modCore c fun p => { p with wc := dropAt i p.wc }
  | .icDrop c i => s.modCore c fun p => { p with ic := dropAt i p.ic }
  | .tlbBlock c i k first => tlbBlock s c i k first
  | .leaderMiss ctx near => leaderMiss s ctx near
  | .outside a b => outsideWrite s a b
  | .file ctx va n => s.modModule fun m => { m with files := m.files.set (fileKey ctx va) n }
  | .barSize n => barSize s n
  | .event _ _ | .kite _ _ _ | .reel _ => s

/-- What a step does before its instruction: the state, and the instruction that runs in it, if one does. With
no move given, a tick passes. -/
def turn (ready : State → Nat → Nat → Accepts) (s : State) : State × Option Instr :=
  match s.moves with
  | [] => (tick s, none)
  | m :: ms =>
    let s := { s with moves := ms }
    match m with
    | .event i a => if isEvent i then ({ s with ev := a }, some i) else (s, none)
    | .kite c k hold => kiteTurn { s with cur := .kite c k, hold := hold } c k
    | .reel c => reelTurn { s with cur := .reel c } c
    | m => (otherMove ready s m, none)

end Sys2Proof.Machine
end

