-- ==== Sys2Proof/Machine/Errors.lean ====
section
/-!
DEFINITION. Errors of the hardware (R22, R54, R237, R242, R274, R377 to R380): the report, the loss of data, the trap
of the agent that met it, and the retirement of a lane group. `EvArgs.err` says what the error is.
Open points: log 31 (DEDUCED, DESIGN CHOICE).
-/
namespace Sys2Proof.Machine

/-- Whether an error has one of the units of Table 18-10 (R378). -/
def errKnown (e : ErrDesc) : Bool := decide (1 ≤ e.unit) && decide (e.unit ≤ 13)

/-- CORRECTED_ERROR, R377: a report of severity 0, and nothing else. -/
def execCorrectedError (s : State) : Host.Outcome State Fault Refusal :=
  .next (if errKnown s.ev.err then report s s.ev.err 0 else s)

/-- Whether an error retires its lane group (R380): in a lane group, the matrix array or an accumulator, in a shape
register, or in the slice of a lane. -/
def retires (e : ErrDesc) : Bool :=
  decide (e.lg < 8) && decide (e.core < 192) && ([1, 2, 3, 13].contains e.unit || e.unit == 4)

/-- Lane group g of a core retired: out of LANEGOOD at once, and the flight there is to be switched out. -/
def retireGroup (s : State) (c g : Nat) : State :=
  let s := s.modCore c fun k => { k with laneBad := setBit k.laneBad g true }
  if s.hasCrew c then s.modFlight (s.crew c).flight fun f => { f with relane := true } else s

/-- Whether the crew on a core was granted lane group g, which is now retired: it goes on using it until its flight has
been switched out. -/
def usesGroup (s : State) (c g : Nat) : Bool :=
  s.hasCrew c &&
    (bit (s.crew c).colGood g || (bit (s.core c).colBad g && decide (grantLen (s.core c) (s.crew c).n < (s.crew c).mvlb)))

/-- The element index of an error, 0 where it names none. -/
def errElt (e : ErrDesc) : Nat := if e.elt = 4294967295 then 0 else e.elt

/-- The late DATA_ERROR of a kite. -/
def dataTrap (s : State) (c k va elt : Nat) : State :=
  if (s.kite c k).st = .absent then s else lateTrap s c k (trapAt 0x0D va elt) none

/-- A lane group's error (R363): the validity of the block that it touched, and the kite's trap with its position. -/
def laneError (s : State) (e : ErrDesc) : State :=
  let c := e.core
  let k := e.agent
  if 16 ≤ k then s
  else
    let s := if e.unit = 1 ∧ e.reg < 32 then
        s.modKite c k fun x => { x with v := x.v.mod e.reg fun r => { r with inval := setBit r.inval (errElt e / 32) true } }
      else s
    dataTrap s c k 0 ((e.reg % 256) <<< 40 ||| e.lg <<< 32 ||| errElt e)

/-- The columns of a tile that lie beside column group g of a core (R223): the first, and how many. -/
def besideGroup (w : Crew) (e : Tile) (g : Nat) : Nat × Nat :=
  let per := if e.pair then 24 else 12
  (per * countBelow g fun i => bit w.colGood i, if bit w.colGood g then per else 0)

/-- An error of the array or of an accumulator slice (R242): the validity beside the group is cleared in every row,
and the owner traps. -/
def arrayError (s : State) (e : ErrDesc) : State :=
  let c := e.core
  let w := s.crew c
  let t := w.tileBase (e.reg % 4)
  let tile := w.tiles.get t
  match tile.owner with
  | none => s
  | some k =>
    let (lo, n) := besideGroup w tile e.lg
    let hi := min (lo + n) tile.n
    let bs := (List.range ((tile.n + 31) / 32)).filter fun b => decide (32 * b < hi) && decide (lo < 32 * b + 32)
    let w := if hi ≤ lo then w else
      iter tile.m (fun i w => bs.foldl (fun (w : Crew) b => w.setGroup t i b false) w) w
    let s := s.modCrew c fun _ => w
    dataTrap s c k 0 ((e.reg % 4) <<< 40 ||| e.lg <<< 32 ||| (e.row % 2 ^ 16) <<< 16 ||| e.col % 2 ^ 16)

/-- An engine's command that meets bad data ends (R251, R274): the first that its port serves. -/
def engineError (s : State) (e : ErrDesc) : State :=
  let port := e.agent - 17
  match (nextServed s e.core port).find? fun m => m.started with
  | some m => failCmd e.core port m { s := s, stat := 5, aux := e.addr }
  | none => s

/-- An mma that meets bad data stops before its block (R237); with NOACC its tile has been cleared by then (R233). -/
def mmaError (s : State) (e : ErrDesc) : State :=
  let t := e.reg % 4
  match (s.crew e.core).tq.get t with
  | m :: _ =>
    if m.op = 0x92 ∧ m.stopped = false ∧ m.kb < m.blocks then
      let (s, m) := beginMma s e.core t m
      mmaStop (s.modCrew e.core fun w => w.modHead t fun _ => m) e.core t m (trapAt 0x0D e.addr (32 * m.kb)) none
    else s
  | [] => s

/-- Whether an agent of a core can have met an error. -/
def errorAgent (s : State) (e : ErrDesc) : Bool := decide (e.core < 192) && s.hasCrew e.core

/-! ### Data that a kite reads -/

/-- The position and the load of the oldest vector load under way of a kite. -/
def Kite.firstLoad (x : Kite) : Option (Nat × HeldLoad) :=
  (x.vq.zipIdx).findSome? fun e => e.1.load.map fun h => (e.2, h)

/-- The trap of the data of a load under way: with the element of the error, or its first; of an nshld, with the address
of one byte of its image (R195). -/
def HeldLoad.lostTrap (h : HeldLoad) (elt : Nat) : Trap :=
  let l := ((h.elems.find? fun l => l.i == elt).orElse fun _ => h.elems.head?).getD {}
  if h.was.isEmpty then trapAt 0x0D l.va l.i
  else trapAt 0x0D ((h.elems.head?.getD {}).va + elt % (2 * h.elems.length)) 0

/-- A vector load under way whose data is lost (R207, R364): it leaves its destination unchanged, a reader of bound
registers its streams' positions too (R215), and the kite traps late. -/
def loadLost (s : State) (c k i : Nat) (h : HeldLoad) (elt : Nat) : State :=
  let drop := fun x : Kite =>
    let x := match x.vq[i]? with
      | some e =>
        if e.trails then
          { x.unstepStreams e.ctx (vecReads e.op e.f) with
            pend := if storesVec e.op then x.pend.filter fun p => !p.late else x.pend }
        else x
      | none => x
    { x with vq := dropAt i x.vq }
  lateTrap (s.modKite c k drop) c k (h.lostTrap elt) none

/-- What a kite would do with an instruction that reads scalar data, an atomic, or an mrec. -/
def scalarRead (s : State) : Instr → Option (Host.Outcome State Fault Refusal)
  | .ld f => some (execLd f s)
  | .ldsp f => some (execLdsp f s)
  | .mrec f => some (execMrec f s)
  | .cas f => some (execCas f s)
  | .amoAdd f => some (execAmoAdd f s)
  | .amoAnd f => some (execAmoAnd f s)
  | .amoOr f => some (execAmoOr f s)
  | .amoXor f => some (execAmoXor f s)
  | .amoMin f => some (execAmoMin f s)
  | .amoMax f => some (execAmoMax f s)
  | .amoMinn f => some (execAmoMinn f s)
  | .amoMaxn f => some (execAmoMaxn f s)
  | .amoSwap f => some (execAmoSwap f s)
  | .famoAddF32 f => some (execFamoAddF32 f s)
  | .famoAddBf16 f => some (execFamoAddBf16 f s)
  | .famoMinF32 f => some (execFamoMinF32 f s)
  | .famoMaxF32 f => some (execFamoMaxF32 f s)
  | _ => none

/-- Whether an instruction of a kite has passed its checks and retired, from its outcome. -/
def ranThrough (s : State) (c k : Nat) : Option (Host.Outcome State Fault Refusal) → Bool
  | some (.next t) =>
    let x := t.kite c k
    x.st != .parked && x != s.kite c k && (match x.wait with | .none | .fill _ => true | _ => false)
  | _ => false

/-- A kite's instruction whose data is lost, after its checks (R207, R211, R215, R219, R364): a scalar read, an atomic
or an mrec traps in place, with its register unchanged; an mmv stops before its element; a vldff, an nshld, or a reader
of a bound register issues without effect, and the kite traps late. -/
def readLost (s : State) (c k : Nat) (e : ErrDesc) : State :=
  let x := s.kite c k
  let s := { s with cur := .kite c k, hold := false }
  match if s.crewRuns c && x.st == .flying && x.resume != .after then x.fetch else .error (trapAt 0 0 0) with
  | .error _ => s
  | .ok i =>
    match carugParts i with
    | none => s
    | some (op, _, _, f) =>
      if !(legalInstr i) || x.blocked (s.crew c) k op f false then s
      else if !(elementGuard op) && !(x.guardBit f 0) then s
      else
        let late := fun (va elt : Nat) => lateTrap (retire s c k f.yld) c k (trapAt 0x0D va elt) none
        let n := errElt e
        if ranThrough s c k (scalarRead s i) then trapKite s c k (trapAt 0x0D (x.memAddr f.b) 0) .here none
        else if op = 0x74 then
          (if ranThrough s c k (some (execVldff f s)) && ((x.capture f).taken f.ty.toNat).contains n then
            late ((x.memAddr f.b + n * (widthOf f.ty.toNat / 8)) % 2 ^ 64) n else s)
        else if op = 0x88 then
          (match if x.queueOpen s c k then readImageAt s c k f.rd.toNat (x.memAddr f.b) else .error (.wait s .none) with
            | .ok (us, _, _) => late (x.memAddr f.b + n % (2 * us.length)) 0
            | .error _ => s)
        else if op = 0x79 then
          (match mmvStep (fun _ _ _ v _ => (v, 0)) f s c k x with
            | .stay _ =>
              let i := if x.mmAct then x.mmIdx else 0
              settleLate
                (trapKite (s.modKite c k fun x => { x with mmAct := true, mmIdx := i }) c k (trapAt 0x0D e.addr i) .here none)
                c k
            | _ => s)
        else if decide (0x40 ≤ op) && (vecReads op f).any (fun r => (x.binds.find r).isSome) && x.queueOpen s c k then
          (match decodeAll s c k (x.capture f) (vecReads op f) with
            | .ok _ => late e.addr n
            | .error _ => s)
        else s

/-- The data that a kite reads is lost: that of its oldest load under way, or with `row` 1 or none under way that of its
next instruction. -/
def kiteLost (s : State) (c k : Nat) (e : ErrDesc) : State :=
  match if e.row = 1 then none else (s.kite c k).firstLoad with
  | some (i, h) => loadLost s c k i h (errElt e)
  | none => readLost s c k e

/-- What data that is lost does to the agent that met it (R54, R237, R274, R377). -/
def lostData (s : State) (e : ErrDesc) : State :=
  if !(errorAgent s e) then s
  else if e.unit = 12 then
    (if 16 ≤ e.agent then s
     else s.modKite e.core e.agent fun x =>
       x.setBuf (e.row % 2) { x.buf (e.row % 2) with bad := e.col :: (x.buf (e.row % 2)).bad })
  else if e.agent < 16 then kiteLost s e.core e.agent e
  else if 17 ≤ e.agent ∧ e.agent ≤ 19 then engineError s e
  else if e.agent = 20 then mmaError s e
  else s

/-- A lane slice of an on-chip space is bad (R380): a vector load under way loses its data; else the kite traps late. -/
def sliceError (s : State) (e : ErrDesc) : State :=
  if 16 ≤ e.agent then lostData s e
  else match (s.kite e.core e.agent).firstLoad with
    | some (i, h) => loadLost s e.core e.agent i h (errElt e)
    | none => dataTrap s e.core e.agent e.addr (errElt e)

/-- What an error of the kinds that retire a group does to the agent that met it (R242, R363, R380). -/
def groupError (s : State) (e : ErrDesc) : State :=
  if !(errorAgent s e) then s
  else if e.unit = 2 ∨ e.unit = 3 then arrayError s e
  else if e.unit = 4 then sliceError s e
  else laneError s e

/-- An error that retires a group (R380); one in a group already retired is not reported, and has its effects on a crew
that still uses the group. -/
def retiringError (s : State) (e : ErrDesc) : State :=
  if bit (s.core e.core).laneBad e.lg then (if usesGroup s e.core e.lg then groupError s e else s)
  else groupError (retireGroup (report s e 2) e.core e.lg) e

/-- UNCORRECTABLE_ERROR, R377, R380. -/
def execUncorrectableError (s : State) : Host.Outcome State Fault Refusal :=
  let e := s.ev.err
  .next (
    if !(errKnown e) then s
    else if retires e then retiringError s e
    else lostData (report s e 1) e)

end Sys2Proof.Machine
end

