-- ==== Sys2Proof/Machine/Scalar.lean ====
section
/-!
DEFINITION. Integer arithmetic, comparison and moves of the scalar unit (R29, R79 to R83).
-/
namespace Sys2Proof.Machine

/-- The index of a register operand. -/
def regOf (o : Operand) : Nat := opdValue o

/-- s[A] := g(b, c), with b = s[B] and c the C operand (R81). -/
def Kite.intOp (k : Kite) (f : Fields) (g : Word → Word → Word) : Kite :=
  k.sset (regOf f.a) (g (k.opd f.b) (k.opd f.c))

/-- Every bit of p[A] := g(b, c) (R82). -/
def Kite.cmpOp (k : Kite) (f : Fields) (g : Word → Word → Bool) : Kite :=
  k.pfill (regOf f.a) (g (k.opd f.b) (k.opd f.c))

/-- An integer instruction. -/
def runInt (i : Instr) (f : Fields) (s : State) (g : Word → Word → Word) : Host.Outcome State Fault Refusal :=
  .next (issueReg i s fun k => k.intOp f g)

/-- A comparison. -/
def runCmp (i : Instr) (f : Fields) (s : State) (g : Word → Word → Bool) : Host.Outcome State Fault Refusal :=
  .next (issueReg i s fun k => k.cmpOp f g)

/-- The count of a shift, c[5:0]. -/
def shiftCount (c : Word) : Nat := c.toNat % 64

/-- The smaller of two words by an order; the larger with the order reversed. -/
def pickBy (lt : Word → Word → Bool) (b c : Word) : Word := if lt b c then b else c

/-- div.s of R81. -/
def divS (b c : Word) : Word := if c = 0 then BitVec.allOnes 64 else BitVec.ofInt 64 (b.toInt.tdiv c.toInt)

/-- div.n of R81. -/
def divN (b c : Word) : Word := if c = 0 then BitVec.allOnes 64 else BitVec.ofNat 64 (b.toNat / c.toNat)

/-- rem.s of R81: it takes the sign of the dividend. -/
def remS (b c : Word) : Word := if c = 0 then b else BitVec.ofInt 64 (b.toInt.tmod c.toInt)

/-- rem.n of R81. -/
def remN (b c : Word) : Word := if c = 0 then b else BitVec.ofNat 64 (b.toNat % c.toNat)

/-- The number of leading zero bits among the low n bits (R83). -/
def leadingZeros (n x : Nat) : Nat :=
  match n with
  | 0 => 0
  | m + 1 => if bit x m then 0 else 1 + leadingZeros m x

/-- The number of one bits among the low n bits (R83). -/
def onesIn (n x : Nat) : Nat := countBelow n (bit x)

/-- add, R81. -/
def execAdd (f : Fields) (s : State) := runInt (.add f) f s fun b c => b + c
/-- sub, R81. -/
def execSub (f : Fields) (s : State) := runInt (.sub f) f s fun b c => b - c
/-- and, R81. -/
def execAnd (f : Fields) (s : State) := runInt (.and f) f s fun b c => b &&& c
/-- or, R81. -/
def execOr (f : Fields) (s : State) := runInt (.or f) f s fun b c => b ||| c
/-- xor, R81. -/
def execXor (f : Fields) (s : State) := runInt (.xor f) f s fun b c => b ^^^ c
/-- shl, R81. -/
def execShl (f : Fields) (s : State) := runInt (.shl f) f s fun b c => b <<< shiftCount c
/-- shr, R81. -/
def execShr (f : Fields) (s : State) := runInt (.shr f) f s fun b c => b >>> shiftCount c
/-- sra, R81: floor division fills with the sign. -/
def execSra (f : Fields) (s : State) := runInt (.sra f) f s fun b c => b.sshiftRight (shiftCount c)
/-- mul, R81. -/
def execMul (f : Fields) (s : State) := runInt (.mul f) f s fun b c => b * c
/-- mulh.s, R81. -/
def execMulhS (f : Fields) (s : State) :=
  runInt (.mulhS f) f s fun b c => BitVec.ofInt 64 (b.toInt * c.toInt / 2 ^ 64)
/-- mulh.n, R81. -/
def execMulhN (f : Fields) (s : State) :=
  runInt (.mulhN f) f s fun b c => BitVec.ofNat 64 (b.toNat * c.toNat / 2 ^ 64)
/-- mulh.sn, R81. -/
def execMulhSn (f : Fields) (s : State) :=
  runInt (.mulhSn f) f s fun b c => BitVec.ofInt 64 (b.toInt * c.toNat / 2 ^ 64)
/-- div.s, R81. -/
def execDivS (f : Fields) (s : State) := runInt (.divS f) f s divS
/-- div.n, R81. -/
def execDivN (f : Fields) (s : State) := runInt (.divN f) f s divN
/-- rem.s, R81. -/
def execRemS (f : Fields) (s : State) := runInt (.remS f) f s remS
/-- rem.n, R81. -/
def execRemN (f : Fields) (s : State) := runInt (.remN f) f s remN
/-- min, R81. -/
def execMin (f : Fields) (s : State) := runInt (.min f) f s (pickBy fun b c => b.slt c)
/-- minn, R81. -/
def execMinn (f : Fields) (s : State) := runInt (.minn f) f s (pickBy fun b c => b.ult c)
/-- max, R81. -/
def execMax (f : Fields) (s : State) := runInt (.max f) f s (pickBy fun b c => c.slt b)
/-- maxn, R81. -/
def execMaxn (f : Fields) (s : State) := runInt (.maxn f) f s (pickBy fun b c => c.ult b)
/-- cmp.eq, R82. -/
def execCmpEq (f : Fields) (s : State) := runCmp (.cmpEq f) f s fun b c => b == c
/-- cmp.ne, R82. -/
def execCmpNe (f : Fields) (s : State) := runCmp (.cmpNe f) f s fun b c => b != c
/-- cmp.lt, R82. -/
def execCmpLt (f : Fields) (s : State) := runCmp (.cmpLt f) f s fun b c => b.slt c
/-- cmp.ge, R82. -/
def execCmpGe (f : Fields) (s : State) := runCmp (.cmpGe f) f s fun b c => !(b.slt c)
/-- cmp.ltn, R82. -/
def execCmpLtn (f : Fields) (s : State) := runCmp (.cmpLtn f) f s fun b c => b.ult c
/-- cmp.gen, R82. -/
def execCmpGen (f : Fields) (s : State) := runCmp (.cmpGen f) f s fun b c => !(b.ult c)

/-- li, R29: the 40-bit immediate, sign-extended. -/
def execLi (f : Fields) (imm : BitVec 40) (s : State) : Host.Outcome State Fault Refusal :=
  .next (issueReg (.li f imm) s fun k => k.sset (regOf f.a) (imm.signExtend 64))
/-- mov, R83. -/
def execMov (f : Fields) (s : State) := runInt (.mov f) f s fun b _ => b
/-- sel, R83: s[B] if s[A] was nonzero, s[C] otherwise. -/
def execSel (f : Fields) (s : State) : Host.Outcome State Fault Refusal :=
  .next (issueReg (.sel f) s fun k => k.intOp f fun b c => if k.sget (regOf f.a) ≠ 0 then b else c)
/-- clz, R83. -/
def execClz (f : Fields) (s : State) :=
  runInt (.clz f) f s fun b _ => BitVec.ofNat 64 (leadingZeros 64 b.toNat)
/-- popc, R83. -/
def execPopc (f : Fields) (s : State) :=
  runInt (.popc f) f s fun b _ => BitVec.ofNat 64 (onesIn 64 b.toNat)

end Sys2Proof.Machine
end

