-- ==== Sys2Proof/Machine/TintInstr.lean ====
section
/-!
DEFINITION. The tint instructions of a kite (R290).
Open points: log 27 (DEDUCED).
-/
namespace Sys2Proof.Machine

/-- A trap of R290: FAULTVA 0, and the given FAULTELT. -/
def tintTrap (cause elt : Nat) : Trap := trapAt cause 0 elt

/-- regb, R290. -/
def execRegb (f : Fields) (s : State) : Host.Outcome State Fault Refusal :=
  .next (issue (.regb f) s fun s c k _ =>
    let s := closeStrip s c k
    let x := s.kite c k
    let ctx := (s.crew c).ctx
    let t := x.tintv
    let tab := s.ctx ctx
    if x.region.isSome then .raise s (tintTrap 0x09 5) .here none
    else if !(tab.isLive t) then .raise s (tintTrap 0x08 t) .here none
    else if (tab.tint t).depth = 16 then .raise s (tintTrap 0x09 4) .here none
    else
      match tab.freeTint with
      | none => .raise s (tintTrap 0x09 3) .here none
      | some n =>
        let s := s.modCtx ctx fun y => y.open_ n t
        .done (s.modKite c k fun y =>
          let y := { y with region := some { tint := n, parent := t, cur := y.cur, idx := y.idx }, tintv := n }
          match f.a with
          | .s i => y.sset i.toNat (BitVec.ofNat 64 n)
          | _ => y))

/-- rege, R290: the fix of the region's tint is requested, and the kite waits for it; the fix, as it completes,
closes the region and lets the kite retire. -/
def execRege (f : Fields) (s : State) : Host.Outcome State Fault Refusal :=
  .next (issue (.rege f) s fun s c k _ =>
    let s := closeStrip s c k
    let ctx := (s.crew c).ctx
    match (s.kite c k).region with
    | none => .done s
    | some r =>
      if !((s.ctx ctx).isLive r.tint) then .raise s (tintTrap 0x08 r.tint) .here none
      else
        let (s, out) := release s c 3
        if !out then .wait s .release
        else
          let op : TintOp := { bleach := false, tint := r.tint, core := c, agent := k }
          .wait (s.modCtx ctx fun y => { y with tops := y.tops ++ [op] }) (.tint r.tint))

/-- hview, R290. -/
def execHview (f : Fields) (s : State) : Host.Outcome State Fault Refusal :=
  .next (issue (.hview f) s fun s c k x =>
    let s := closeStrip s c k
    let t := (x.opd f.b).toNat
    if x.region.isSome then .raise s (tintTrap 0x09 5) .here none
    else if 1023 < t ∨ (s.ctx (s.crew c).ctx).isLive t = false then .raise s (tintTrap 0x08 t) .here none
    else
      let old : Word := BitVec.ofNat 64 x.tintv
      .done (s.modKite c k fun y => { y.sset (opdValue f.a) old with tintv := t }))

end Sys2Proof.Machine
end

