-- ==== Sys2Proof/Machine/Dispatch.lean ====
section
/-! DEFINITION. The meaning of each instruction: one arm for each row of the opcode table. -/

namespace Sys2Proof.Machine

/-- The instruction i run by the agent `cur`, or the event i with the arguments `ev`. -/
def exec (i : Instr) (s : State) : Host.Outcome State Fault Refusal :=
  match i with
  | .add f => Sys2Proof.Machine.execAdd f s
  | .sub f => Sys2Proof.Machine.execSub f s
  | .and f => Sys2Proof.Machine.execAnd f s
  | .or f => Sys2Proof.Machine.execOr f s
  | .xor f => Sys2Proof.Machine.execXor f s
  | .shl f => Sys2Proof.Machine.execShl f s
  | .shr f => Sys2Proof.Machine.execShr f s
  | .sra f => Sys2Proof.Machine.execSra f s
  | .mul f => Sys2Proof.Machine.execMul f s
  | .mulhS f => Sys2Proof.Machine.execMulhS f s
  | .mulhN f => Sys2Proof.Machine.execMulhN f s
  | .mulhSn f => Sys2Proof.Machine.execMulhSn f s
  | .divS f => Sys2Proof.Machine.execDivS f s
  | .divN f => Sys2Proof.Machine.execDivN f s
  | .remS f => Sys2Proof.Machine.execRemS f s
  | .remN f => Sys2Proof.Machine.execRemN f s
  | .min f => Sys2Proof.Machine.execMin f s
  | .minn f => Sys2Proof.Machine.execMinn f s
  | .max f => Sys2Proof.Machine.execMax f s
  | .maxn f => Sys2Proof.Machine.execMaxn f s
  | .cmpEq f => Sys2Proof.Machine.execCmpEq f s
  | .cmpNe f => Sys2Proof.Machine.execCmpNe f s
  | .cmpLt f => Sys2Proof.Machine.execCmpLt f s
  | .cmpGe f => Sys2Proof.Machine.execCmpGe f s
  | .cmpLtn f => Sys2Proof.Machine.execCmpLtn f s
  | .cmpGen f => Sys2Proof.Machine.execCmpGen f s
  | .li f imm => Sys2Proof.Machine.execLi f imm s
  | .mov f => Sys2Proof.Machine.execMov f s
  | .sel f => Sys2Proof.Machine.execSel f s
  | .clz f => Sys2Proof.Machine.execClz f s
  | .popc f => Sys2Proof.Machine.execPopc f s
  | .br f => Sys2Proof.Machine.execBr f s
  | .jmpNear f => Sys2Proof.Machine.execJmpNear f s
  | .jmpFar f => Sys2Proof.Machine.execJmpFar f s
  | .jmpReg f => Sys2Proof.Machine.execJmpReg f s
  | .call f => Sys2Proof.Machine.execCall f s
  | .ret f => Sys2Proof.Machine.execRet f s
  | .qbr f => Sys2Proof.Machine.execQbr f s
  | .fetchb f => Sys2Proof.Machine.execFetchb f s
  | .land f => Sys2Proof.Machine.execLand f s
  | .yield f => Sys2Proof.Machine.execYield f s
  | .nop f => Sys2Proof.Machine.execNop f s
  | .trap f => Sys2Proof.Machine.execTrap f s
  | .sleepu f => Sys2Proof.Machine.execSleepu f s
  | .csrr f => Sys2Proof.Machine.execCsrr f s
  | .csrw f => Sys2Proof.Machine.execCsrw f s
  | .ld f => Sys2Proof.Machine.execLd f s
  | .st f => Sys2Proof.Machine.execSt f s
  | .ldsp f => Sys2Proof.Machine.execLdsp f s
  | .stsp f => Sys2Proof.Machine.execStsp f s
  | .amoAdd f => Sys2Proof.Machine.execAmoAdd f s
  | .amoAnd f => Sys2Proof.Machine.execAmoAnd f s
  | .amoOr f => Sys2Proof.Machine.execAmoOr f s
  | .amoXor f => Sys2Proof.Machine.execAmoXor f s
  | .amoMin f => Sys2Proof.Machine.execAmoMin f s
  | .amoMax f => Sys2Proof.Machine.execAmoMax f s
  | .amoMinn f => Sys2Proof.Machine.execAmoMinn f s
  | .amoMaxn f => Sys2Proof.Machine.execAmoMaxn f s
  | .amoSwap f => Sys2Proof.Machine.execAmoSwap f s
  | .cas f => Sys2Proof.Machine.execCas f s
  | .famoAddF32 f => Sys2Proof.Machine.execFamoAddF32 f s
  | .famoAddBf16 f => Sys2Proof.Machine.execFamoAddBf16 f s
  | .famoMinF32 f => Sys2Proof.Machine.execFamoMinF32 f s
  | .famoMaxF32 f => Sys2Proof.Machine.execFamoMaxF32 f s
  | .fenceFull f => Sys2Proof.Machine.execFenceFull f s
  | .fenceRel f => Sys2Proof.Machine.execFenceRel f s
  | .fenceAcq f => Sys2Proof.Machine.execFenceAcq f s
  | .fenceStrip f => Sys2Proof.Machine.execFenceStrip f s
  | .barArrive f => Sys2Proof.Machine.execBarArrive f s
  | .barWait f => Sys2Proof.Machine.execBarWait f s
  | .regb f => Sys2Proof.Machine.execRegb f s
  | .rege f => Sys2Proof.Machine.execRege f s
  | .hview f => Sys2Proof.Machine.execHview f s
  | .qpush f => Sys2Proof.Machine.execQpush f s
  | .qpop f => Sys2Proof.Machine.execQpop f s
  | .qpeek f => Sys2Proof.Machine.execQpeek f s
  | .tsendLeft f => Sys2Proof.Machine.execTsendLeft f s
  | .tsendRight f => Sys2Proof.Machine.execTsendRight f s
  | .trecv f => Sys2Proof.Machine.execTrecv f s
  | .setvl f => Sys2Proof.Machine.execSetvl f s
  | .getmvl f => Sys2Proof.Machine.execGetmvl f s
  | .rep f => Sys2Proof.Machine.execRep f s
  | .plogicAnd f => Sys2Proof.Machine.execPlogicAnd f s
  | .plogicOr f => Sys2Proof.Machine.execPlogicOr f s
  | .plogicXor f => Sys2Proof.Machine.execPlogicXor f s
  | .plogicAndn f => Sys2Proof.Machine.execPlogicAndn f s
  | .plogicNot f => Sys2Proof.Machine.execPlogicNot f s
  | .plogicSet f => Sys2Proof.Machine.execPlogicSet f s
  | .plogicClear f => Sys2Proof.Machine.execPlogicClear f s
  | .pcnt f => Sys2Proof.Machine.execPcnt f s
  | .pfirst f => Sys2Proof.Machine.execPfirst f s
  | .vperm f => Sys2Proof.Machine.execVperm f s
  | .vslideUp f => Sys2Proof.Machine.execVslideUp f s
  | .vslideDown f => Sys2Proof.Machine.execVslideDown f s
  | .vtrans8 f => Sys2Proof.Machine.execVtrans8 f s
  | .vzipZip f => Sys2Proof.Machine.execVzipZip f s
  | .vzipUnzip f => Sys2Proof.Machine.execVzipUnzip f s
  | .vbcast f => Sys2Proof.Machine.execVbcast f s
  | .viota f => Sys2Proof.Machine.execViota f s
  | .vext f => Sys2Proof.Machine.execVext f s
  | .vins f => Sys2Proof.Machine.execVins f s
  | .vadd f => Sys2Proof.Machine.execVadd f s
  | .vsub f => Sys2Proof.Machine.execVsub f s
  | .vmul f => Sys2Proof.Machine.execVmul f s
  | .vfma f => Sys2Proof.Machine.execVfma f s
  | .vdiv f => Sys2Proof.Machine.execVdiv f s
  | .vsqrt f => Sys2Proof.Machine.execVsqrt f s
  | .vmin f => Sys2Proof.Machine.execVmin f s
  | .vmax f => Sys2Proof.Machine.execVmax f s
  | .vabs f => Sys2Proof.Machine.execVabs f s
  | .vneg f => Sys2Proof.Machine.execVneg f s
  | .vand f => Sys2Proof.Machine.execVand f s
  | .vor f => Sys2Proof.Machine.execVor f s
  | .vxor f => Sys2Proof.Machine.execVxor f s
  | .vshl f => Sys2Proof.Machine.execVshl f s
  | .vshrLog f => Sys2Proof.Machine.execVshrLog f s
  | .vshrAri f => Sys2Proof.Machine.execVshrAri f s
  | .vcmpEq f => Sys2Proof.Machine.execVcmpEq f s
  | .vcmpNe f => Sys2Proof.Machine.execVcmpNe f s
  | .vcmpLt f => Sys2Proof.Machine.execVcmpLt f s
  | .vcmpLe f => Sys2Proof.Machine.execVcmpLe f s
  | .vcmpGt f => Sys2Proof.Machine.execVcmpGt f s
  | .vcmpGe f => Sys2Proof.Machine.execVcmpGe f s
  | .vcmpUo f => Sys2Proof.Machine.execVcmpUo f s
  | .vcmpOrd f => Sys2Proof.Machine.execVcmpOrd f s
  | .vsel f => Sys2Proof.Machine.execVsel f s
  | .vmulh f => Sys2Proof.Machine.execVmulh f s
  | .vmadd f => Sys2Proof.Machine.execVmadd f s
  | .vsat f => Sys2Proof.Machine.execVsat f s
  | .vsfnExp2 f => Sys2Proof.Machine.execVsfnExp2 f s
  | .vsfnLog2 f => Sys2Proof.Machine.execVsfnLog2 f s
  | .vsfnRcp f => Sys2Proof.Machine.execVsfnRcp f s
  | .vsfnRsqrt f => Sys2Proof.Machine.execVsfnRsqrt f s
  | .vsfnTanh f => Sys2Proof.Machine.execVsfnTanh f s
  | .vsfnSigmoid f => Sys2Proof.Machine.execVsfnSigmoid f s
  | .vsfnErf f => Sys2Proof.Machine.execVsfnErf f s
  | .vsfnSin f => Sys2Proof.Machine.execVsfnSin f s
  | .vclass f => Sys2Proof.Machine.execVclass f s
  | .vcvtHalve f => Sys2Proof.Machine.execVcvtHalve f s
  | .vcvtDouble f => Sys2Proof.Machine.execVcvtDouble f s
  | .vcvtq f => Sys2Proof.Machine.execVcvtq f s
  | .vbsclRdscale f => Sys2Proof.Machine.execVbsclRdscale f s
  | .vbsclWrscale f => Sys2Proof.Machine.execVbsclWrscale f s
  | .vbsclRdvalid f => Sys2Proof.Machine.execVbsclRdvalid f s
  | .vbsclWrvalid f => Sys2Proof.Machine.execVbsclWrvalid f s
  | .vbsclRdspare f => Sys2Proof.Machine.execVbsclRdspare f s
  | .vbsclWrspare f => Sys2Proof.Machine.execVbsclWrspare f s
  | .vld f => Sys2Proof.Machine.execVld f s
  | .vst f => Sys2Proof.Machine.execVst f s
  | .vldx f => Sys2Proof.Machine.execVldx f s
  | .vstx f => Sys2Proof.Machine.execVstx f s
  | .vldff f => Sys2Proof.Machine.execVldff f s
  | .vldb f => Sys2Proof.Machine.execVldb f s
  | .vstb f => Sys2Proof.Machine.execVstb f s
  | .vbind f => Sys2Proof.Machine.execVbind f s
  | .vunbind f => Sys2Proof.Machine.execVunbind f s
  | .mmvCopy f => Sys2Proof.Machine.execMmvCopy f s
  | .mmvAdd f => Sys2Proof.Machine.execMmvAdd f s
  | .mmvMul f => Sys2Proof.Machine.execMmvMul f s
  | .mmvFma f => Sys2Proof.Machine.execMmvFma f s
  | .mmvCvt f => Sys2Proof.Machine.execMmvCvt f s
  | .mmvMax f => Sys2Proof.Machine.execMmvMax f s
  | .mmvMin f => Sys2Proof.Machine.execMmvMin f s
  | .nredAdd f => Sys2Proof.Machine.execNredAdd f s
  | .nredMin f => Sys2Proof.Machine.execNredMin f s
  | .nredMax f => Sys2Proof.Machine.execNredMax f s
  | .nredAnd f => Sys2Proof.Machine.execNredAnd f s
  | .nredOr f => Sys2Proof.Machine.execNredOr f s
  | .nredXor f => Sys2Proof.Machine.execNredXor f s
  | .nscanAdd f => Sys2Proof.Machine.execNscanAdd f s
  | .nscanMin f => Sys2Proof.Machine.execNscanMin f s
  | .nscanMax f => Sys2Proof.Machine.execNscanMax f s
  | .nscanAnd f => Sys2Proof.Machine.execNscanAnd f s
  | .nscanOr f => Sys2Proof.Machine.execNscanOr f s
  | .nscanXor f => Sys2Proof.Machine.execNscanXor f s
  | .npack f => Sys2Proof.Machine.execNpack f s
  | .ndist f => Sys2Proof.Machine.execNdist f s
  | .nlen f => Sys2Proof.Machine.execNlen f s
  | .nnest f => Sys2Proof.Machine.execNnest f s
  | .nflat f => Sys2Proof.Machine.execNflat f s
  | .nsort f => Sys2Proof.Machine.execNsort f s
  | .nshld f => Sys2Proof.Machine.execNshld f s
  | .nshst f => Sys2Proof.Machine.execNshst f s
  | .nkrd f => Sys2Proof.Machine.execNkrd f s
  | .nkwr f => Sys2Proof.Machine.execNkwr f s
  | .tshapeCore f => Sys2Proof.Machine.execTshapeCore f s
  | .tshapeFlight f => Sys2Proof.Machine.execTshapeFlight f s
  | .mrec f => Sys2Proof.Machine.execMrec f s
  | .mma f => Sys2Proof.Machine.execMma f s
  | .maccrd f => Sys2Proof.Machine.execMaccrd f s
  | .maccwr f => Sys2Proof.Machine.execMaccwr f s
  | .macczero f => Sys2Proof.Machine.execMacczero f s
  | .mwait f => Sys2Proof.Machine.execMwait f s
  | .epush f => Sys2Proof.Machine.execEpush f s
  | .epop f => Sys2Proof.Machine.execEpop f s
  | .estat f => Sys2Proof.Machine.execEstat f s
  | .spsrch f => Sys2Proof.Machine.execSpsrch f s
  | .rcsnap f => Sys2Proof.Machine.execRcsnap f s
  | .rcfenceAll f => Sys2Proof.Machine.execRcfenceAll f s
  | .rcfenceAddr f => Sys2Proof.Machine.execRcfenceAddr f s
  | .kiteBridle rd rs1 rs2 => Sys2Proof.Machine.execKiteBridle rd rs1 rs2 s
  | .kiteFly rd rs1 rs2 => Sys2Proof.Machine.execKiteFly rd rs1 rs2 s
  | .kiteWait rd rs1 rs2 => Sys2Proof.Machine.execKiteWait rd rs1 rs2 s
  | .kiteKill rd rs1 => Sys2Proof.Machine.execKiteKill rd rs1 s
  | .kiteRole rd rs1 rs2 => Sys2Proof.Machine.execKiteRole rd rs1 rs2 s
  | .kiteStat rd rs1 => Sys2Proof.Machine.execKiteStat rd rs1 s
  | .kiteTint rd rs1 rs2 => Sys2Proof.Machine.execKiteTint rd rs1 rs2 s
  | .kiteMvl rd => Sys2Proof.Machine.execKiteMvl rd s
  | .qPush q rs1 => Sys2Proof.Machine.execQPush q rs1 s
  | .qPop q rd => Sys2Proof.Machine.execQPop q rd s
  | .qPeek q rd => Sys2Proof.Machine.execQPeek q rd s
  | .ePush e rd rs1 => Sys2Proof.Machine.execEPush e rd rs1 s
  | .ePop e rd rs1 => Sys2Proof.Machine.execEPop e rd rs1 s
  | .eStat e rd => Sys2Proof.Machine.execEStat e rd s
  | .reelSleepu rs1 => Sys2Proof.Machine.execReelSleepu rs1 s
  | .cyc rd => Sys2Proof.Machine.execCyc rd s
  | .hypOpen rd rs1 => Sys2Proof.Machine.execHypOpen rd rs1 s
  | .hypFix rd rs1 => Sys2Proof.Machine.execHypFix rd rs1 s
  | .hypBleach rd rs1 => Sys2Proof.Machine.execHypBleach rd rs1 s
  | .hypStat rd rs1 => Sys2Proof.Machine.execHypStat rd rs1 s
  | .hypEnter rd rs1 => Sys2Proof.Machine.execHypEnter rd rs1 s
  | .fbarArrive rd rs1 rs2 => Sys2Proof.Machine.execFbarArrive rd rs1 rs2 s
  | .fbarWait rd rs1 rs2 => Sys2Proof.Machine.execFbarWait rd rs1 rs2 s
  | .errPop rd rs1 => Sys2Proof.Machine.execErrPop rd rs1 s
  | .slotAdmit rd rs1 rs2 => Sys2Proof.Machine.execSlotAdmit rd rs1 rs2 s
  | .slotRetire rd rs1 => Sys2Proof.Machine.execSlotRetire rd rs1 s
  | .gpRd rd rs1 => Sys2Proof.Machine.execGpRd rd rs1 s
  | .ascentDone => Sys2Proof.Machine.execAscentDone s
  | .uevRet rd rs1 => Sys2Proof.Machine.execUevRet rd rs1 s
  | .blockFillEnd => Sys2Proof.Machine.execBlockFillEnd s
  | .waitConditionClear => Sys2Proof.Machine.execWaitConditionClear s
  | .drainComplete => Sys2Proof.Machine.execDrainComplete s
  | .sleepExpiry => Sys2Proof.Machine.execSleepExpiry s
  | .kiteWaitDeadline => Sys2Proof.Machine.execKiteWaitDeadline s
  | .queueStall => Sys2Proof.Machine.execQueueStall s
  | .arrivalMarker => Sys2Proof.Machine.execArrivalMarker s
  | .writePathDrain => Sys2Proof.Machine.execWritePathDrain s
  | .fix => Sys2Proof.Machine.execFix s
  | .bleach => Sys2Proof.Machine.execBleach s
  | .tintFree => Sys2Proof.Machine.execTintFree s
  | .lin => Sys2Proof.Machine.execLin s
  | .tens => Sys2Proof.Machine.execTens s
  | .rows => Sys2Proof.Machine.execRows s
  | .samp => Sys2Proof.Machine.execSamp s
  | .gath => Sys2Proof.Machine.execGath s
  | .scat => Sys2Proof.Machine.execScat s
  | .page => Sys2Proof.Machine.execPage s
  | .cancel => Sys2Proof.Machine.execCancel s
  | .commandComplete => Sys2Proof.Machine.execCommandComplete s
  | .arrivalCounterIncrement => Sys2Proof.Machine.execArrivalCounterIncrement s
  | .promiseMissed => Sys2Proof.Machine.execPromiseMissed s
  | .mcastTimeout => Sys2Proof.Machine.execMcastTimeout s
  | .bankReservationLimit => Sys2Proof.Machine.execBankReservationLimit s
  | .userEventTake => Sys2Proof.Machine.execUserEventTake s
  | .notifyWrite => Sys2Proof.Machine.execNotifyWrite s
  | .queueDescriptorWrite => Sys2Proof.Machine.execQueueDescriptorWrite s
  | .abort => Sys2Proof.Machine.execAbort s
  | .contextEntryWrite => Sys2Proof.Machine.execContextEntryWrite s
  | .devnum => Sys2Proof.Machine.execDevnum s
  | .tlbinvAll => Sys2Proof.Machine.execTlbinvAll s
  | .tlbinvAsid => Sys2Proof.Machine.execTlbinvAsid s
  | .tlbinvAsidGen => Sys2Proof.Machine.execTlbinvAsidGen s
  | .tlbinvPages => Sys2Proof.Machine.execTlbinvPages s
  | .tlbinvSpans => Sys2Proof.Machine.execTlbinvSpans s
  | .invalidationComplete => Sys2Proof.Machine.execInvalidationComplete s
  | .pageRequest => Sys2Proof.Machine.execPageRequest s
  | .resident => Sys2Proof.Machine.execResident s
  | .denied => Sys2Proof.Machine.execDenied s
  | .noFrame => Sys2Proof.Machine.execNoFrame s
  | .loadFw => Sys2Proof.Machine.execLoadFw s
  | .attest => Sys2Proof.Machine.execAttest s
  | .cert => Sys2Proof.Machine.execCert s
  | .replayCtl => Sys2Proof.Machine.execReplayCtl s
  | .replayRead => Sys2Proof.Machine.execReplayRead s
  | .registerWrite => Sys2Proof.Machine.execRegisterWrite s
  | .hostBarAccess => Sys2Proof.Machine.execHostBarAccess s
  | .hostAtomicop => Sys2Proof.Machine.execHostAtomicop s
  | .queueBind => Sys2Proof.Machine.execQueueBind s
  | .quantumEnd => Sys2Proof.Machine.execQuantumEnd s
  | .recordTake => Sys2Proof.Machine.execRecordTake s
  | .recordStart => Sys2Proof.Machine.execRecordStart s
  | .graphNodeStart => Sys2Proof.Machine.execGraphNodeStart s
  | .flightPlacement => Sys2Proof.Machine.execFlightPlacement s
  | .switchOut => Sys2Proof.Machine.execSwitchOut s
  | .switchOutComplete => Sys2Proof.Machine.execSwitchOutComplete s
  | .abandonment => Sys2Proof.Machine.execAbandonment s
  | .resumption => Sys2Proof.Machine.execResumption s
  | .crewEnd => Sys2Proof.Machine.execCrewEnd s
  | .slotPageDrain => Sys2Proof.Machine.execSlotPageDrain s
  | .uncorrectableError => Sys2Proof.Machine.execUncorrectableError s
  | .correctedError => Sys2Proof.Machine.execCorrectedError s
  | .portTrained => Sys2Proof.Machine.execPortTrained s
  | .portDown => Sys2Proof.Machine.execPortDown s
  | .moduleReset => Sys2Proof.Machine.execModuleReset s
  | .bringupReady => Sys2Proof.Machine.execBringupReady s
  | .throttle => Sys2Proof.Machine.execThrottle s
  | .thermalStop => Sys2Proof.Machine.execThermalStop s
  | .thermalRecovery => Sys2Proof.Machine.execThermalRecovery s
  | .riscVInstruction rv => Sys2Proof.Machine.execRiscVInstruction rv s
  | .peerAccess => Sys2Proof.Machine.execPeerAccess s
  | .atomicopCompletion => Sys2Proof.Machine.execAtomicopCompletion s
  | .lostRead => Sys2Proof.Machine.execLostRead s
  | .kBlock => Sys2Proof.Machine.execKBlock s
  | .vectorInstructionComplete => Sys2Proof.Machine.execVectorInstructionComplete s

end Sys2Proof.Machine
end

