-- ==== Sys2Proof/Machine/Fetch.lean ====
section
/-!
DEFINITION. The placing of an instruction at the point where the next step fetches (log 7), which stands for
the bring-up, launch and load that the host makes; and which kites the issue stage can take.
Open points: log 1 (DEDUCED).
-/
namespace Sys2Proof.Machine

/-- The waits of R49 in which a kite's next instruction cannot issue: it has not issued while one holds it. -/
def WaitOn.holds : WaitOn → Bool
  | .qpush _ | .qpop _ | .tsend _ | .trecv _ | .sleep _ | .barArrive _ | .barWait _ | .mwait _ | .tile _ | .epush _
  | .pushRelease _ _ | .epop _ | .flags => true
  | _ => false

/-- Whether a kite waits before its instruction, which has not issued: of a block fill, where it has not moved. -/
def Kite.heldAt (x : Kite) (cur idx : Nat) : Bool :=
  x.st == .waiting && (x.wait.holds ||
    match x.wait with | .fill _ => x.cur == cur && x.idx == idx | _ => false)

/-- What the issue stage makes of the next instruction of a kite (R49, R55), seen by running it with `ex`: it would
wait, its operands, the sequencer, the matrix array or the engine are not ready for it, or it issues. The raised
wait count shows a jump to its own slot, which only clears it, for an issue. -/
def acceptsBy (ex : Instr → State → Host.Outcome State Fault Refusal) (s : State) (c k : Nat) : Accepts :=
  match kiteTurn { s with cur := .kite c k, hold := false } c k with
  | (_, none) => .issues
  | (t, some i) =>
    let t := t.modKite c k fun x => { x with waitCount := x.waitCount + 1 }
    match ex i t with
    | .next u =>
      if u = t then .nothing
      else if (u.kite c k).heldAt (t.kite c k).cur (t.kite c k).idx then .waits
      else .issues
    | _ => .issues

/-- The virtual address of the placed code. -/
def codeVa : Nat := 0x1000
/-- The physical address of the placed page tables and code, in module memory. -/
def codePa : Nat := lpddrBase

/-- The core with no cached translation and no cached line of code. -/
def Core.freshFetch (k : Core) : Core := { k with tlb := [], wc := [], ic := [] }

/-- The crew that the placing finds on core 0, or a launched one of one kite. -/
def crewOrNew (s : State) : Crew :=
  if s.hasCrew 0 then s.crew 0
  else { n := 1, mvlb := 16384, colGood := 255, kites := [(0, Kite.launch 0 16384)] }

/-- Four levels of page table that map the page of code, U, X and W granted, and its table entries. -/
def codeTables (m : List Host.Cell) : List Host.Cell :=
  let table := fun (i : Nat) => toBytes 8 ((codePa + 0x1000 * i) ||| 3)
  let leaf := toBytes 8 ((codePa + 0x4000) ||| 5 ||| 2 ^ 58 ||| 2 ^ 59)
  let m := memWrite m codePa (table 1)
  let m := memWrite m (codePa + 0x1000) (table 2)
  let m := memWrite m (codePa + 0x2000) (table 3)
  memWrite m (codePa + 0x3000 + 8) leaf

/-- The state with module memory usable, a crew on core 0 and its context's tables mapping the code. -/
def placed (s : State) : State :=
  let w := crewOrNew s
  let s := { s with crews := s.crews.set 0 w, mem := codeTables s.mem }
  let s := s.modModule fun m => { m with devnum := 0, lpddr := true }
  let s := s.modCtx w.ctx fun x => { x with root := codePa, ft := false, valid := true }
  s.modCore 0 Core.freshFetch

/-- A word of the reel placed at its pc, and the reel's turn next. -/
def placeReelWord (s : State) (w : RWord) : State :=
  let s := placed s
  let s := { s with mem := memWrite s.mem (codePa + 0x4000) (toBytes 4 w.toNat) }
  let s := s.modCrew 0 fun c => { c with ending := false, events := [], preempt := false }
  let s := s.modReel 0 fun r => { r with pc := codeVa, sup := false, wait := .none }
  { s with moves := .reel 0 :: s.moves }

/-- A Carug word placed in slot 0 of buffer 0 of kite 0, FLYING there, and the kite's turn next. -/
def placeKiteWord (s : State) (w : CWord) : State :=
  let s := placed s
  let b : Buf := { valid := true, base := codeVa, slots := 32, words := w :: List.replicate 31 0 }
  let s := s.modKite 0 0 fun x =>
    { x with st := .flying, wait := .none, yielded := false, repRun := false, resume := .here, buf0 := b, buf1 := {}
             cur := 0, idx := 0 }
  { s with moves := .kite 0 0 false :: s.moves }

end Sys2Proof.Machine
end

