-- ==== Sys2Proof/Machine/Step.lean ====
section
/-!
DEFINITION. One step of the machine, and the placing of an instruction where the next step runs it.
-/
namespace Sys2Proof.Machine

/-- One step: the next move of the state, and the instruction it runs, if it runs one. -/
def step (s : State) : Host.Outcome State Fault Refusal :=
  match turn (acceptsBy exec) s with
  | (s, some i) => exec i s
  | (s, none) => .next s

/-- The state with the instruction of nbits bits w where the next step fetches and runs it (log 7): a word of
the reel in memory at the reel's pc, or a Carug word in a block buffer of kite 0. -/
def State.withFetchWord (s : State) (nbits w : Nat) : State :=
  if nbits ≤ 32 then placeReelWord s (BitVec.ofNat 32 w) else placeKiteWord s (BitVec.ofNat 96 w)

end Sys2Proof.Machine
end

