-- ==== Sys2Proof/Safety.lean ====
section
/-!
DEFINITION. The terms that statements use: canonical memory, when an instruction of a kite or of the reel runs,
and what leaves the rest of the machine as it was.
-/
namespace Sys2Proof.Machine

/-- The module's memory is in canonical form. -/
def State.memOk (s : State) : Prop := Memory.wf s.mem = true

/-- The memories of a crew, its scratchpad and its lanes, are in canonical form. -/
def Crew.memOk (w : Crew) : Prop := Memory.wf w.scratch = true ∧ Memory.wf w.lanes = true

/-- The on-chip memories are in canonical form: of every crew, placed or saved, the shared memory of every flight,
and every chip scratchpad. -/
def State.onChipOk (s : State) : Prop :=
  (∀ e ∈ s.crews, e.2.memOk) ∧ (∀ e ∈ s.flights, Memory.wf e.2.shared = true ∧ ∀ w ∈ e.2.saved, w.memOk) ∧
    ∀ c ∈ s.chips, Memory.wf c.data = true

/-- The table of the crews lists a core once, in rising order. -/
def State.crewsOk (s : State) : Prop := (s.crews.map (·.1)).Pairwise (· < ·)

/-! ## When a kite's instruction runs -/

/-- The guard lets the instruction run: it is read per element, or bit 0 of it is set (R26). -/
def guardOpen (i : Instr) (x : Kite) : Bool :=
  match carugParts i with
  | some (op, _, _, f) => elementGuard op || x.guardBit f 0
  | none => false

/-- Nothing holds the instruction back (R55): no load under way has its registers or comes before the end of its strip,
no operand read of an earlier strip is left before its access, and no scalar store waits before it (R123, R300, R301). -/
def notBlocked (i : Instr) (s : State) (c k : Nat) : Bool :=
  match carugParts i with
  | some (op, _, _, f) => !((s.kite c k).blocked (s.crew c) k op f s.hold)
  | none => false

/-- Kite k of core c is FLYING and it is its turn, and the instruction is one that the encoding admits: what
holds when a word that the kite fetched has been decoded (R30, R49). -/
structure Turns (i : Instr) (s : State) (c k : Nat) : Prop where
  turn   : s.cur = .kite c k
  flying : (s.kite c k).st = .flying
  legal  : i.WellFormed

/-- The turn of a kite with an instruction whose guard lets it run, and which nothing holds back. -/
structure Issues (i : Instr) (s : State) (c k : Nat) : Prop extends Turns i s c k where
  guard : guardOpen i (s.kite c k) = true
  free  : notBlocked i s c k = true

/-- The turn of a kite with an instruction of the vector queue that the sequencer takes and performs at once
(R123): an entry is free, nothing of the kite waits before it, and no source is a bound register (R215). -/
structure VecIssues (i : Instr) (op : Nat) (f : Fields) (s : State) (c k : Nat) : Prop extends Issues i s c k where
  room  : (s.kite c k).vq.length < 8
  ahead : (s.kite c k).undispatched = false
  taken : s.hold = false
  moves : movesQueued s c k = false
  plain : ∀ r ∈ vecReads op f, (s.kite c k).binds.find r = none

/-- The kite after an instruction of the vector queue that performed at once: last use, SEED, its entry (R123, R127,
R146). -/
def Kite.vecDone (x : Kite) (op : Nat) (f : Fields) (fl : Nat) : Kite :=
  ((x.finishLst op f).advanceSeed f).enqueue { op := op, f := f, flags := fl }

/-! ## When the reel's instruction runs -/

/-- It is the turn of the reel of core c, of a crew that is there and has not begun to end. -/
structure ReelTurns (s : State) (c : Nat) : Prop where
  turn   : s.cur = .reel c
  crew   : s.hasCrew c = true
  going  : (s.crew c).ending = false

/-! ## What stays -/

/-- Everything but the crew on core c is as before. -/
def OnlyCrew (c : Nat) (s t : State) : Prop :=
  t = { s with crews := t.crews } ∧ ∀ d, d ≠ c → t.crews.find d = s.crews.find d

/-- Everything but kite k of core c is as before. -/
def OnlyKite (c k : Nat) (s t : State) : Prop :=
  OnlyCrew c s t ∧ t.crew c = { s.crew c with kites := (t.crew c).kites } ∧ ∀ j, j ≠ k → t.kite c j = s.kite c j

/-- The kite moved to a position by an instruction that retires or transfers control: WAITING there while the
buffer fills (R53), FLYING otherwise. -/
def Kite.movedTo (x : Kite) (p : Nat × Nat) (yld : Bool) : Kite :=
  { x with waitCount := 0, yielded := yld, cur := p.1, idx := p.2, resume := .here
           st := if (x.buf p.1).filling then .waiting else .flying
           wait := if (x.buf p.1).filling then .fill p.1 else .none }

/-- A kite with its position, its waiting and its place in the issue stage taken from another. -/
def Kite.movedLike (x y : Kite) : Kite :=
  { x with st := y.st, wait := y.wait, cur := y.cur, idx := y.idx, resume := y.resume, waitCount := y.waitCount
           yielded := y.yielded }

/-- The kite finds a position after its own, and no rep runs on it: an instruction that retires moves it there. -/
structure GoesOn (s : State) (c k : Nat) : Prop where
  single : (s.kite c k).repRun = false
  found  : ∃ p, (s.kite c k).nextPos = .ok p

/-- Every byte of the module's memory and of the memories of the host and of the peers is as before. -/
def SameMemory (s t : State) : Prop := ∀ a, memGet t.mem a = memGet s.mem a

end Sys2Proof.Machine
end

