-- ==== Sys2Proof/Certificates/Slice0/Obligations.lean ====
section
/-!
DEFINITION. The statements for the provers. A statement about an instruction of a kite assumes that it issues
(`Issues`): the kite is FLYING with the instruction, its guard lets it run, and nothing holds it back. `retire` is the end of an
instruction that falls through; what it does is stated on its own.
-/
open Sys2Proof Sys2Proof.Machine

/-! ## The scalar unit -/

namespace Sys2Proof.Machine

/-- The results of R81 as integers, to be taken modulo 2^64: b and c are read unsigned by `toNat` and in two's
complement by `toInt`; division of integers here rounds down, and `tdiv` toward zero. -/
def intRules : List ((Fields → Instr) × (Word → Word → Int)) :=
  [(.add, fun b c => b.toNat + c.toNat),
   (.sub, fun b c => b.toNat - c.toNat),
   (.shl, fun b c => b.toNat * 2 ^ (c.toNat % 64)),
   (.shr, fun b c => b.toNat / 2 ^ (c.toNat % 64)),
   (.sra, fun b c => b.toInt / 2 ^ (c.toNat % 64)),
   (.mul, fun b c => b.toNat * c.toNat),
   (.mulhS, fun b c => b.toInt * c.toInt / 2 ^ 64),
   (.mulhN, fun b c => b.toNat * c.toNat / 2 ^ 64),
   (.mulhSn, fun b c => b.toInt * c.toNat / 2 ^ 64),
   (.divS, fun b c => if c = 0 then 2 ^ 64 - 1 else b.toInt.tdiv c.toInt),
   (.divN, fun b c => if c = 0 then 2 ^ 64 - 1 else b.toNat / c.toNat),
   (.remS, fun b c => if c = 0 then b.toInt else b.toInt - c.toInt * b.toInt.tdiv c.toInt),
   (.remN, fun b c => if c = 0 then b.toNat else b.toNat % c.toNat),
   (.min, fun b c => min b.toInt c.toInt),
   (.max, fun b c => max b.toInt c.toInt),
   (.minn, fun b c => min b.toNat c.toNat),
   (.maxn, fun b c => max b.toNat c.toNat)]

/-- The bitwise functions of R81. -/
def bitRules : List ((Fields → Instr) × (Bool → Bool → Bool)) :=
  [(.and, fun b c => b && c), (.or, fun b c => b || c), (.xor, fun b c => xor b c)]

/-- The tests of R82, FN 0 to 5. -/
def cmpRules : List ((Fields → Instr) × (Word → Word → Prop)) :=
  [(.cmpEq, fun b c => b = c), (.cmpNe, fun b c => b ≠ c), (.cmpLt, fun b c => b.toInt < c.toInt),
   (.cmpGe, fun b c => c.toInt ≤ b.toInt), (.cmpLtn, fun b c => b.toNat < c.toNat),
   (.cmpGen, fun b c => c.toNat ≤ b.toNat)]

/-- How R81 reads a scalar operand: s[C] for a register, and an immediate of 16 bits extended with its sign in class 12
and with zeros in class 13. -/
def OperandRead : Prop :=
  ∀ x : Kite, (∀ r, x.opd (.s r) = x.sget r.toNat) ∧ (∀ v, x.opd (.simm v) = BitVec.ofInt 64 v.toInt) ∧
    ∀ v, x.opd (.uimm v) = BitVec.ofNat 64 v.toNat

/-- The instructions that write one scalar register and nothing else (R81, R83), but for li. -/
def scalarForms : List (Fields → Instr) := intRules.map (·.1) ++ bitRules.map (·.1) ++ [.mov, .sel, .clz, .popc]

end Sys2Proof.Machine

/-- R81: each integer instruction writes its result modulo 2^64 to s[A] and retires: add, sub, shl, shr, sra, mul,
mulh.s, mulh.n, mulh.sn, div.s, div.n, rem.s, rem.n, min, max, minn and maxn as integers, and, or and xor bit by bit; b and c are read as
the rule says. -/
def Obligations.IntegerResults : Prop :=
  OperandRead ∧
  (∀ e ∈ intRules, ∀ (s : State) (c k : Nat) (f : Fields), Issues (e.1 f) s c k →
    exec (e.1 f) s = .next (retire (s.modKite c k fun x =>
      x.sset (regOf f.a) (BitVec.ofInt 64 (e.2 (x.opd f.b) (x.opd f.c)))) c k f.yld)) ∧
  ∀ e ∈ bitRules, ∀ (s : State) (c k : Nat) (f : Fields), Issues (e.1 f) s c k →
    ∃ r : Word,
      (∀ j < 64, r.getLsbD j = e.2 (((s.kite c k).opd f.b).getLsbD j) (((s.kite c k).opd f.c).getLsbD j)) ∧
      exec (e.1 f) s = .next (retire (s.modKite c k fun x => x.sset (regOf f.a) r) c k f.yld)

/-- R82: cmp writes the result of its test to every bit of p[A], for FN 0 to 5; its operands are read as in R81. -/
def Obligations.ComparisonFillsPredicate : Prop :=
  OperandRead ∧
  ∀ e ∈ cmpRules, ∀ (s : State) (c k : Nat) (f : Fields), Issues (e.1 f) s c k →
    ∃ t, exec (e.1 f) s = .next (retire t c k f.yld) ∧
      (∃ q, t = s.modKite c k fun x => { x with p := q }) ∧
      (∀ j < (s.kite c k).pbits,
        bit ((t.kite c k).pget (regOf f.a)) j = true ↔ e.2 ((s.kite c k).opd f.b) ((s.kite c k).opd f.c)) ∧
      ∀ r, r ≠ regOf f.a → (t.kite c k).pget r = (s.kite c k).pget r

/-- R83, R29: li writes its immediate, sign-extended; mov its B operand; sel s[B] or s[C] by s[A] before; clz the
leading zero bits of s[B], popc its one bits; the operand of mov is read as in R81. -/
def Obligations.MoveResults : Prop :=
  OperandRead ∧
  (∀ (s : State) (c k : Nat) (f : Fields) (imm : BitVec 40), Issues (.li f imm) s c k →
    exec (.li f imm) s = .next (retire (s.modKite c k fun x =>
      x.sset (regOf f.a) (BitVec.ofInt 64 imm.toInt)) c k f.yld)) ∧
  (∀ (s : State) (c k : Nat) (f : Fields), Issues (.mov f) s c k →
    exec (.mov f) s = .next (retire (s.modKite c k fun x => x.sset (regOf f.a) (x.opd f.b)) c k f.yld)) ∧
  (∀ (s : State) (c k : Nat) (f : Fields), Issues (.sel f) s c k →
    exec (.sel f) s = .next (retire (s.modKite c k fun x =>
      x.sset (regOf f.a) (if x.sget (regOf f.a) = 0 then x.opd f.c else x.opd f.b)) c k f.yld)) ∧
  (∀ (s : State) (c k : Nat) (f : Fields), Issues (.clz f) s c k →
    ∃ n : Nat, n ≤ 64 ∧ ((s.kite c k).opd f.b).toNat < 2 ^ (64 - n) ∧
      (n < 64 → 2 ^ (63 - n) ≤ ((s.kite c k).opd f.b).toNat) ∧
      exec (.clz f) s = .next (retire (s.modKite c k fun x => x.sset (regOf f.a) (BitVec.ofNat 64 n)) c k f.yld)) ∧
  (∀ (s : State) (c k : Nat) (f : Fields), Issues (.popc f) s c k →
    exec (.popc f) s = .next (retire (s.modKite c k fun x =>
      x.sset (regOf f.a)
        (BitVec.ofNat 64 ((List.range 64).filter fun j => ((s.kite c k).opd f.b).getLsbD j).length)) c k f.yld))

/-- R79, R28: s0 reads as zero and a write to it is discarded; a write of another register is what it reads as,
and leaves every other one alone. -/
def Obligations.ScalarRegisterZero : Prop :=
  ∀ (x : Kite) (i j : Nat) (w : Word),
    x.sget 0 = 0 ∧ x.sset 0 w = x ∧ (i ≠ 0 → (x.sset i w).sget i = w) ∧
    (j ≠ i → (x.sset i w).sget j = x.sget j)

/-- The frame of the scalar instructions: where the kite goes on, every register but s[A], every flag, special
register and predicate, every other kite and all of memory are as before. -/
def Sys2Proof.Machine.ScalarFrame : Prop :=
  ∀ e ∈ scalarForms, ∀ (s : State) (c k : Nat) (f : Fields), Issues (e f) s c k → GoesOn s c k →
    ∃ t, exec (e f) s = .next t ∧ OnlyKite c k s t ∧ SameMemory s t ∧
      t.kite c k = ({ s.kite c k with s := (t.kite c k).s } : Kite).movedLike (t.kite c k) ∧
      ∀ r, r ≠ regOf f.a → (t.kite c k).sget r = (s.kite c k).sget r

/-- The frame of li and of the comparisons, which write one register: s[A], or p[A]. -/
def Sys2Proof.Machine.PredicateFrame : Prop :=
  (∀ (s : State) (c k : Nat) (f : Fields) (imm : BitVec 40), Issues (.li f imm) s c k → GoesOn s c k →
    ∃ t, exec (.li f imm) s = .next t ∧ OnlyKite c k s t ∧ SameMemory s t ∧
      t.kite c k = ({ s.kite c k with s := (t.kite c k).s } : Kite).movedLike (t.kite c k) ∧
      ∀ r, r ≠ regOf f.a → (t.kite c k).sget r = (s.kite c k).sget r) ∧
  ∀ e ∈ cmpRules, ∀ (s : State) (c k : Nat) (f : Fields), Issues (e.1 f) s c k → GoesOn s c k →
    ∃ t, exec (e.1 f) s = .next t ∧ OnlyKite c k s t ∧ SameMemory s t ∧
      t.kite c k = ({ s.kite c k with p := (t.kite c k).p } : Kite).movedLike (t.kite c k) ∧
      ∀ r, r ≠ regOf f.a → (t.kite c k).pget r = (s.kite c k).pget r

/-- The frame of the scalar instructions: every one of them writes one register, scalar or predicate, and moves on. -/
def Obligations.ScalarWriteFrame : Prop := ScalarFrame ∧ PredicateFrame

/-! ## Positions and control -/

/-- R53, R55: an instruction that retires outside a rep moves the kite to the position that `next` gives, WAITING there
while that buffer fills; with no such position the kite stays FLYING, competes for slot S, and parks in its turn with
the trap of locate, to resume after the instruction. -/
def Sys2Proof.Machine.RetirementMovesOn : Prop :=
  (∀ (s : State) (c k : Nat) (yld : Bool), (s.kite c k).repRun = false →
    (∀ p, (s.kite c k).nextPos = .ok p → retire s c k yld = s.modKite c k fun x => x.movedTo p yld) ∧
    ∀ t, (s.kite c k).nextPos = .error t →
      retire s c k yld = (s.modKite c k fun x =>
        { x with waitCount := 0, yielded := yld, st := .flying, wait := .none, resume := .after })) ∧
  ∀ (s : State) (c k : Nat) (t : Trap), s.crewRuns c = true → (s.kite c k).st = .flying →
    (s.kite c k).resume = .after → (s.kite c k).nextPos = .error t → (s.kite c k).inSlotV = false ∧
      ((s.kite c k).yielded = false → (s.kite c k).buf0.refill = false → (s.kite c k).buf1.refill = false →
        kiteTurn s c k = (trapKite s c k t .after none, none))

/-- R53: `next` steps to the following slot of the buffer, and from the last one resolves the address after it;
locate takes the current buffer first, needs a multiple of 12 from the base, raises MISALIGNED inside a buffer
otherwise, and BLOCK_MISS outside both. -/
def Sys2Proof.Machine.LocateRule : Prop :=
  (∀ x : Kite, x.idx + 1 < (x.buf x.cur).slots → x.nextPos = .ok (x.cur, x.idx + 1)) ∧
  (∀ x : Kite, (x.buf x.cur).slots ≤ x.idx + 1 →
    x.nextPos = x.locate ((x.buf x.cur).base + 12 * (x.buf x.cur).slots)) ∧
  ∀ (x : Kite) (a : Nat),
    let inside := fun j => (x.buf j).valid = true ∧ (x.buf j).base ≤ a ∧ a < (x.buf j).base + 12 * (x.buf j).slots
    let at_ := fun j => inside j ∧ (a - (x.buf j).base) % 12 = 0
    (at_ x.cur → x.locate a = .ok (x.cur, (a - (x.buf x.cur).base) / 12)) ∧
    (¬ at_ x.cur → at_ (1 - x.cur) → x.locate a = .ok (1 - x.cur, (a - (x.buf (1 - x.cur)).base) / 12)) ∧
    (¬ at_ x.cur → ¬ at_ (1 - x.cur) → inside x.cur ∨ inside (1 - x.cur) →
      x.locate a = .error { cause := 0x03, va := BitVec.ofNat 64 a }) ∧
    (¬ inside x.cur → ¬ inside (1 - x.cur) → x.locate a = .error { cause := 0x02, va := BitVec.ofNat 64 a })

/-- R26: under a false scalar guard that no vldff has still to write every Carug instruction but rep (OP 0x42,
`Obligations.Repetitions`) only retires. -/
def Sys2Proof.Machine.ClosedGuard : Prop :=
  ∀ (i : Instr) (s : State) (c k op a b : Nat) (f : Fields), Turns i s c k → carugParts i = some (op, a, b, f) →
    op ≠ 0x42 → guardOpen i (s.kite c k) = false → (s.kite c k).guardComes f = false → exec i s = .next (retire s c k f.yld)

/-- R53, R26: how a kite moves on, and how an address is located. Details are by the reading of log 9. -/
def Obligations.Positions : Prop := RetirementMovesOn ∧ LocateRule ∧ ClosedGuard

namespace Sys2Proof.Machine

/-- The condition of br (R71): s[A] is nonzero, or bit 0 of p[A] is set. -/
def branchCond (x : Kite) : Operand → Prop
  | .p i => bit (x.pget i.toNat) 0 = true
  | o => x.opd o ≠ 0

/-- A valid buffer with a slot of that number (R71). -/
def HasSlot (x : Kite) (j i : Nat) : Prop := (x.buf j).valid = true ∧ i < (x.buf j).slots

/-- The state with the entry at the head of a queue of a core taken by a kite, whose later reads are read anew. -/
def popped (s : State) (c k q : Nat) : State := (s.setQueueOf c q (s.queueOf c q).tail).modKite c k Kite.readAnew

end Sys2Proof.Machine

/-- R71: br goes to its slot of the current buffer if its condition holds and falls through otherwise; jmp.near and
jmp.far go to a slot of the current and of the other buffer; jmp.reg and ret to the position of an address. -/
def Sys2Proof.Machine.JumpTargets : Prop :=
  (∀ (s : State) (c k : Nat) (f : Fields), Issues (.br f) s c k →
    (¬ branchCond (s.kite c k) f.a → exec (.br f) s = .next (retire s c k f.yld)) ∧
    (branchCond (s.kite c k) f.a → HasSlot (s.kite c k) (s.kite c k).cur (opdValue f.b) →
      exec (.br f) s = .next (s.modKite c k fun x => x.movedTo (x.cur, opdValue f.b) f.yld))) ∧
  (∀ (s : State) (c k : Nat) (f : Fields), Issues (.jmpNear f) s c k →
    HasSlot (s.kite c k) (s.kite c k).cur (opdValue f.b) →
      exec (.jmpNear f) s = .next (s.modKite c k fun x => x.movedTo (x.cur, opdValue f.b) f.yld)) ∧
  (∀ (s : State) (c k : Nat) (f : Fields), Issues (.jmpFar f) s c k →
    HasSlot (s.kite c k) (1 - (s.kite c k).cur) (opdValue f.b) →
      exec (.jmpFar f) s = .next (s.modKite c k fun x => x.movedTo (1 - x.cur, opdValue f.b) f.yld)) ∧
  (∀ (s : State) (c k : Nat) (f : Fields) (p : Nat × Nat), Issues (.jmpReg f) s c k →
    (s.kite c k).locate ((s.kite c k).opd f.b).toNat = .ok p →
      exec (.jmpReg f) s = .next (s.modKite c k fun x => x.movedTo p f.yld)) ∧
  ∀ (s : State) (c k : Nat) (f : Fields) (p : Nat × Nat), Issues (.ret f) s c k →
    (s.kite c k).locate ((s.kite c k).opd f.a).toNat = .ok p →
      exec (.ret f) s = .next (s.modKite c k fun x => x.movedTo p f.yld)

/-- R71: call writes the address of the slot after it to s[A] and goes to its slot or to the address that s[B] held
before; qbr takes the entry at the head of its queue and goes to its slot if bit 0 of it is set. -/
def Sys2Proof.Machine.CallAndQueueBranch : Prop :=
  (∀ (s : State) (c k : Nat) (f : Fields) (i : BitVec 16), Issues (.call f) s c k → f.b = .uimm i →
    HasSlot (s.kite c k) (s.kite c k).cur i.toNat →
    exec (.call f) s = .next (s.modKite c k fun x =>
      (x.sset (opdValue f.a) (BitVec.ofNat 64 ((x.buf x.cur).base + 12 * (x.idx + 1)))).movedTo
        (x.cur, i.toNat) f.yld)) ∧
  (∀ (s : State) (c k : Nat) (f : Fields) (r : BitVec 5) (p : Nat × Nat), Issues (.call f) s c k → f.b = .s r →
    (s.kite c k).locate ((s.kite c k).sget r.toNat).toNat = .ok p →
    exec (.call f) s = .next (s.modKite c k fun x =>
      (x.sset (opdValue f.a) (BitVec.ofNat 64 ((x.buf x.cur).base + 12 * (x.idx + 1)))).movedTo p f.yld)) ∧
  ∀ (s : State) (c k : Nat) (f : Fields) (w : Word), Issues (.qbr f) s c k →
    (s.queueOf c (opdValue f.a)).head? = some w →
    (w.getLsbD 0 = false → exec (.qbr f) s = .next (retire (popped s c k (opdValue f.a)) c k f.yld)) ∧
    (w.getLsbD 0 = true → HasSlot (s.kite c k) (s.kite c k).cur (opdValue f.b) →
      exec (.qbr f) s = .next ((popped s c k (opdValue f.a)).modKite c k fun x =>
        x.movedTo (x.cur, opdValue f.b) f.yld))

/-- R71: a target slot that its buffer has not, or an address that locate refuses, parks the kite with BLOCK_MISS or
with the trap of locate, for each of the transfers; call has written its link by then, and qbr has taken its entry. -/
def Sys2Proof.Machine.TransferFaults : Prop :=
  (∀ (s : State) (c k : Nat) (f : Fields), Issues (.br f) s c k → branchCond (s.kite c k) f.a →
    ¬ HasSlot (s.kite c k) (s.kite c k).cur (opdValue f.b) →
    exec (.br f) s = .next (trapKite s c k
      (trapAt 0x02 (((s.kite c k).buf (s.kite c k).cur).base + 12 * opdValue f.b) 0) .here none)) ∧
  (∀ (s : State) (c k : Nat) (f : Fields) (t : Trap), Issues (.ret f) s c k →
    (s.kite c k).locate ((s.kite c k).opd f.a).toNat = .error t →
    exec (.ret f) s = .next (trapKite s c k t .here none)) ∧
  (∀ (s : State) (c k : Nat) (f : Fields) (r : BitVec 5) (t : Trap), Issues (.call f) s c k → f.b = .s r →
    (s.kite c k).locate ((s.kite c k).sget r.toNat).toNat = .error t →
    exec (.call f) s = .next (trapKite
      (s.modKite c k fun x =>
        x.sset (opdValue f.a) (BitVec.ofNat 64 ((x.buf x.cur).base + 12 * (x.idx + 1)))) c k t
      (.locate ((s.kite c k).sget r.toNat).toNat) none)) ∧
  (∀ (s : State) (c k : Nat) (f : Fields), Issues (.jmpNear f) s c k →
    ¬ HasSlot (s.kite c k) (s.kite c k).cur (opdValue f.b) →
    exec (.jmpNear f) s = .next (trapKite s c k
      (trapAt 0x02 (((s.kite c k).buf (s.kite c k).cur).base + 12 * opdValue f.b) 0) .here none)) ∧
  (∀ (s : State) (c k : Nat) (f : Fields), Issues (.jmpFar f) s c k →
    ¬ HasSlot (s.kite c k) (1 - (s.kite c k).cur) (opdValue f.b) →
    exec (.jmpFar f) s = .next (trapKite s c k
      (trapAt 0x02 (((s.kite c k).buf (1 - (s.kite c k).cur)).base + 12 * opdValue f.b) 0) .here none)) ∧
  (∀ (s : State) (c k : Nat) (f : Fields) (t : Trap), Issues (.jmpReg f) s c k →
    (s.kite c k).locate ((s.kite c k).opd f.b).toNat = .error t →
    exec (.jmpReg f) s = .next (trapKite s c k t .here none)) ∧
  (∀ (s : State) (c k : Nat) (f : Fields) (i : BitVec 16), Issues (.call f) s c k → f.b = .uimm i →
    ¬ HasSlot (s.kite c k) (s.kite c k).cur i.toNat →
    exec (.call f) s = .next (trapKite
      (s.modKite c k fun x =>
        x.sset (opdValue f.a) (BitVec.ofNat 64 ((x.buf x.cur).base + 12 * (x.idx + 1)))) c k
      (trapAt 0x02 (((s.kite c k).buf (s.kite c k).cur).base + 12 * i.toNat) 0)
      (.slot (s.kite c k).cur i.toNat) none)) ∧
  ∀ (s : State) (c k : Nat) (f : Fields) (w : Word), Issues (.qbr f) s c k →
    (s.queueOf c (opdValue f.a)).head? = some w → w.getLsbD 0 = true →
    ¬ HasSlot (s.kite c k) (s.kite c k).cur (opdValue f.b) →
    exec (.qbr f) s = .next (trapKite (popped s c k (opdValue f.a)) c k
      (trapAt 0x02 (((s.kite c k).buf (s.kite c k).cur).base + 12 * opdValue f.b) 0)
      (.slot (s.kite c k).cur (opdValue f.b)) none)

/-- R71, R107: qbr on an empty queue waits for an entry. -/
def Sys2Proof.Machine.QueueBranchWaits : Prop :=
  ∀ (s : State) (c k : Nat) (f : Fields), Issues (.qbr f) s c k → s.queueOf c (opdValue f.a) = [] →
    exec (.qbr f) s = .next (waitKite s c k (.qpop (opdValue f.a)))

/-- R71: the transfers of control, where they trap, and where qbr waits. -/
def Obligations.Transfers : Prop := JumpTargets ∧ CallAndQueueBranch ∧ TransferFaults ∧ QueueBranchWaits

/-- R74, R58, R76: nop only retires; yield retires with the kite not ready on the next clock; sleepu retires once
CYCLE has reached s[A], and waits for it otherwise. -/
def Sys2Proof.Machine.PlainControl : Prop :=
  (∀ (s : State) (c k : Nat) (f : Fields), Issues (.nop f) s c k → exec (.nop f) s = .next (retire s c k f.yld)) ∧
  (∀ (s : State) (c k : Nat) (f : Fields), Issues (.yield f) s c k → exec (.yield f) s = .next (retire s c k true)) ∧
  ∀ (s : State) (c k : Nat) (f : Fields), Issues (.sleepu f) s c k →
    (((s.kite c k).opd f.a).toNat ≤ s.cycle c → exec (.sleepu f) s = .next (retire s c k f.yld)) ∧
    (s.cycle c < ((s.kite c k).opd f.a).toNat →
      exec (.sleepu f) s = .next (waitKite s c k (.sleep ((s.kite c k).opd f.a).toNat)))

/-- R75: trap parks the kite with SW_TRAP, its own address and its number, and resumes after it. -/
def Sys2Proof.Machine.TrapInstruction : Prop :=
  ∀ (s : State) (c k : Nat) (f : Fields), Issues (.trap f) s c k →
    exec (.trap f) s = .next (trapKite s c k (trapAt 0x0E (s.kite c k).addr (opdValue f.a)) .after none)

/-- R74, R58, R76, R75: nop, yield, sleepu and trap. -/
def Obligations.PlainControlAndTrap : Prop := PlainControl ∧ TrapInstruction

/-- R363 to R365: a kite outside a region that takes a trap records its address and element, parks at its position
with the cause, and posts its event to the reel; nothing else changes: no other kite, no queue, tile, port or memory
of the crew, and nothing outside it. -/
def Sys2Proof.Machine.TrapParks : Prop :=
  ∀ (s : State) (c k : Nat) (t : Trap) (r : Resume) (q : Option Nat), (s.kite c k).region = none →
    ∃ u, trapKite s c k t r q = u ∧ OnlyCrew c s u ∧ SameMemory s u ∧
      u.kite c k = { s.kite c k with
        faultva := t.va, faultelt := t.elt, st := .parked, cause := t.cause, wait := .none, repRun := false
        mmRun := false, resume := r, req := none } ∧
      (∀ j, j ≠ k → u.kite c j = s.kite c j) ∧
      u.crew c = { s.crew c with
        kites := (u.crew c).kites
        events := (s.crew c).events ++ [{ cause := t.cause, va := t.va, agent := k, park := true }] }

/-- R364, R73: a late trap of a kite that is FLYING or WAITING parks it where it stands; one in the midst of an instruction
that it has issued keeps the trap till that is over, and parks then; any other kite keeps its state, and the trap is a
further event. -/
def Sys2Proof.Machine.LateTraps : Prop :=
  ∀ (s : State) (c k : Nat) (t : Trap) (q : Option Nat),
    let x := s.kite c k
    let runs := (x.st = .flying ∨ x.st = .waiting) ∧ x.wait ≠ .rewind
    (runs → x.midway = false → lateTrap s c k t q = trapKite s c k t x.keeps q) ∧
    (runs → x.midway = true → lateTrap s c k t q = s.modKite c k fun y =>
      { y with late := y.late ++ [{ cause := t.cause, va := t.va, elt := t.elt, req := q }] }) ∧
    (¬ runs → (lateTrap s c k t q).kite c k = { x with faultva := t.va, faultelt := t.elt } ∧
      ((lateTrap s c k t q).crew c).events = (s.crew c).events ++ [{ cause := t.cause, va := t.va, agent := k }]) ∧
    (runs → x.midway = true → settleLate s c k = s) ∧
    (runs → x.midway = false → x.region = none →
      x.late = [{ cause := t.cause, va := t.va, elt := t.elt, req := q }] →
      ((settleLate s c k).kite c k).st = .parked ∧ ((settleLate s c k).kite c k).cause = t.cause ∧
        ((settleLate s c k).kite c k).faultva = t.va ∧ ((settleLate s c k).kite c k).late = [])

/-- R363 to R365, R73: taking a trap at once, and taking it late. -/
def Obligations.TrapParksKite : Prop := TrapParks ∧ LateTraps

/-- R73: land closes the strip and moves a kite without an open region to DRAINING at its position. -/
def Sys2Proof.Machine.LandDrains : Prop :=
  ∀ (s : State) (c k : Nat) (f : Fields), Issues (.land f) s c k →
    (s.kite c k).region = none → (s.kite c k).pend = [] →
    ∃ t, exec (.land f) s = .next t ∧ SameMemory s t ∧ (t.kite c k).st = .draining ∧
      (t.kite c k).cur = (s.kite c k).cur ∧ (t.kite c k).idx = (s.kite c k).idx ∧
      (t.kite c k).reads = [] ∧ (t.kite c k).s = (s.kite c k).s ∧ (t.kite c k).v = (s.kite c k).v ∧
      (t.kite c k).p = (s.kite c k).p ∧ (t.kite c k).repAct = false ∧ (t.kite c k).mmAct = false

/-- R72: fetchb into the buffer that is not current, from a 64-byte aligned address whose pages grant fetch, starts the
fill and goes on at once; into the current buffer it raises ILLEGAL_OP, from another address MISALIGNED. -/
def Sys2Proof.Machine.FetchbStartsFill : Prop :=
  ∀ (s : State) (c k : Nat) (f : Fields), Issues (.fetchb f) s c k →
    let x := s.kite c k
    let a := x.fetchbAddr f
    (opdValue f.a = x.cur → exec (.fetchb f) s = .next (trapKite s c k (trapAt 0x01 x.addr 0) .here none)) ∧
    (opdValue f.a ≠ x.cur → a % 64 ≠ 0 →
      exec (.fetchb f) s = .next (trapKite s c k (trapAt 0x03 a 0) .here none)) ∧
    ∀ pas s', opdValue f.a ≠ x.cur → a % 64 = 0 →
      blockXlat s a (fun s a => kiteXlat s c k a .fetch 0) 6 = .ok (pas, s') →
      exec (.fetchb f) s = .next (retire (s'.modKite c k fun y =>
        y.setBuf (opdValue f.a) { valid := true, filling := true, base := a, slots := 32, pas := pas }) c k f.yld)

/-- R72, R73: land and fetchb. Details are by the reading of log 9. -/
def Obligations.LandAndFetch : Prop := LandDrains ∧ FetchbStartsFill

/-- R84, R87: csrr writes the value of a control register to s[A], reading MVL clears its CHG; csrw writes s[B] or the
immediate under the register's access codes; either waits, for FPFLAGS, while an earlier instruction of the kite can
still set a flag. -/
def Sys2Proof.Machine.ControlRegisters : Prop :=
  (∀ (s : State) (c k : Nat) (f : Fields), Issues (.csrr f) s c k →
    (opdValue f.b = 0x006 → flagsBusy s c k = true → exec (.csrr f) s = .next (waitKite s c k .flags)) ∧
    (opdValue f.b = 0x006 → flagsBusy s c k = false → exec (.csrr f) s = .next (retire (s.modKite c k fun x =>
      x.sset (opdValue f.a) (BitVec.ofNat 64 x.fpflags)) c k f.yld)) ∧
    (opdValue f.b = 0x003 → exec (.csrr f) s = .next (retire (s.modKite c k fun x =>
      ({ x with mvlChg := false } : Kite).sset (opdValue f.a)
        (BitVec.ofNat 64 (2 ^ 63 * x.mvlChg.toNat + x.mvlb))) c k f.yld)) ∧
    (opdValue f.b ≠ 0x003 → opdValue f.b ≠ 0x006 → exec (.csrr f) s = .next (retire (s.modKite c k fun x =>
      x.sset (opdValue f.a) (csrValue s c k (opdValue f.b))) c k f.yld))) ∧
  (∀ (s : State) (c k : Nat) (f : Fields), Issues (.csrw f) s c k →
    (opdValue f.a = 0x006 → flagsBusy s c k = true → exec (.csrw f) s = .next (waitKite s c k .flags)) ∧
    (¬ (opdValue f.a = 0x006 ∧ flagsBusy s c k = true) → exec (.csrw f) s = .next (retire (s.modKite c k fun x =>
      x.csrPut (opdValue f.a) (x.opd f.b)) c k f.yld))) ∧
  (∀ s c k, csrValue s c k 0x010 = BitVec.ofNat 64 (s.cycle c)) ∧ (∀ s c k, csrValue s c k 0x000 = BitVec.ofNat 64 k) ∧
  (∀ s c k, csrValue s c k 0x011 = (s.kite c k).seed) ∧ (∀ s c k, csrValue s c k 0x020 = (s.kite c k).faultva) ∧
  (∀ s c k, csrValue s c k 0x021 = (s.kite c k).faultelt)

/-- R51, R86: what a csrw of ROLE, FPCTL, FPFLAGS, STATUS, AGECAP and SEED stores. -/
def Sys2Proof.Machine.ControlRegisterWrites : Prop :=
  ∀ (x : Kite) (w : Word),
    (x.csrPut 0x002 w = if w.toNat % 4 = 3 then x else { x with role := w.toNat % 4 }) ∧
    (x.csrPut 0x005 w = { x with rm := if w.toNat % 8 < 6 then w.toNat % 8 else x.rm
                                 ftz := w.getLsbD 3, sat := w.getLsbD 4 }) ∧
    (x.csrPut 0x006 w = { x with fpflags := w.toNat % 32 }) ∧
    (x.csrPut 0x007 w = if w.getLsbD 0 then { x with scx := false } else x) ∧
    (x.csrPut 0x00B w = { x with agecap :=
      if w.toNat % 8192 < 16 then 16 else if 4096 < w.toNat % 8192 then 4096 else w.toNat % 8192 }) ∧
    x.csrPut 0x011 w = { x with seed := w }

/-- R84, R86, R87, R51: csrr and csrw. -/
def Obligations.KiteControlRegisters : Prop := ControlRegisters ∧ ControlRegisterWrites

/-! ## Queues, tethers, barriers -/

/-- R107, R101: qpush appends its value and waits while the queue holds 16 entries; qpop takes the head and waits while
the queue is empty; qpeek gives the head and leaves it, with p[C] all ones, or 0 and all zeros from an empty queue. -/
def Sys2Proof.Machine.KiteQueues : Prop :=
  (∀ (s : State) (c k : Nat) (f : Fields), Issues (.qpush f) s c k →
    ((s.queueOf c (opdValue f.a)).length < 16 →
      exec (.qpush f) s = .next (retire (s.setQueueOf c (opdValue f.a)
        (s.queueOf c (opdValue f.a) ++ [(s.kite c k).opd f.b])) c k f.yld)) ∧
    (16 ≤ (s.queueOf c (opdValue f.a)).length →
      exec (.qpush f) s = .next (waitKite s c k (.qpush (opdValue f.a))))) ∧
  (∀ (s : State) (c k : Nat) (f : Fields), Issues (.qpop f) s c k →
    (∀ w, (s.queueOf c (opdValue f.b)).head? = some w →
      exec (.qpop f) s = .next (retire ((popped s c k (opdValue f.b)).modKite c k fun x =>
        x.sset (opdValue f.a) w) c k f.yld)) ∧
    (s.queueOf c (opdValue f.b) = [] → exec (.qpop f) s = .next (waitKite s c k (.qpop (opdValue f.b))))) ∧
  (∀ (s : State) (c k : Nat) (f : Fields), Issues (.qpeek f) s c k → f.c = .none →
    exec (.qpeek f) s = .next (retire (s.modKite c k fun x =>
      x.sset (opdValue f.a) ((s.queueOf c (opdValue f.b)).headD 0)) c k f.yld)) ∧
  ∀ (s : State) (c k : Nat) (f : Fields) (i : BitVec 4), Issues (.qpeek f) s c k → f.c = .p i →
    exec (.qpeek f) s = .next (retire (s.modKite c k fun x =>
      (x.sset (opdValue f.a) ((s.queueOf c (opdValue f.b)).headD 0)).pfill i.toNat
        (decide (s.queueOf c (opdValue f.b) ≠ []))) c k f.yld)

/-- R104, R105, R107: tsend.left reaches t1 of kite (KID − 1) mod CREW, tsend.right t0 of kite (KID + 1) mod CREW, and
waits while the port holds 4 entries; trecv takes the head of the kite's own port and waits while it is empty. -/
def Sys2Proof.Machine.Tethers : Prop :=
  (∀ (s : State) (c k : Nat) (f : Fields), Issues (.tsendLeft f) s c k →
    let j := (k + (s.crew c).n - 1) % (s.crew c).n
    ((s.kite c j).t1.length < 4 → exec (.tsendLeft f) s = .next (retire (s.modKite c j fun y =>
      { y with t1 := (s.kite c j).t1 ++ [(s.kite c k).opd f.b] }) c k f.yld)) ∧
    (4 ≤ (s.kite c j).t1.length → exec (.tsendLeft f) s = .next (waitKite s c k (.tsend 0)))) ∧
  (∀ (s : State) (c k : Nat) (f : Fields), Issues (.tsendRight f) s c k →
    let j := (k + 1) % (s.crew c).n
    ((s.kite c j).t0.length < 4 → exec (.tsendRight f) s = .next (retire (s.modKite c j fun y =>
      { y with t0 := (s.kite c j).t0 ++ [(s.kite c k).opd f.b] }) c k f.yld)) ∧
    (4 ≤ (s.kite c j).t0.length → exec (.tsendRight f) s = .next (waitKite s c k (.tsend 1)))) ∧
  ∀ (s : State) (c k : Nat) (f : Fields), Issues (.trecv f) s c k →
    (∀ w l, (s.kite c k).port (opdValue f.b) = w :: l →
      exec (.trecv f) s = .next (retire (s.modKite c k fun x =>
        (x.readAnew.setPort (opdValue f.b) l).sset (opdValue f.a) w) c k f.yld)) ∧
    ((s.kite c k).port (opdValue f.b) = [] → exec (.trecv f) s = .next (waitKite s c k (.trecv (opdValue f.b))))

/-- R101, R104 to R107: the queue and tether instructions. -/
def Obligations.QueuesAndTethers : Prop := KiteQueues ∧ Tethers

/-- R110, R111: bar.arrive of a unit of the flight closes the strip; while an earlier arrival of the kite there has not
completed it waits; otherwise its marker, of the unit's current phase, goes into the vector queue and the arrival is
noted. bar.wait waits while the kite's latest arrival has not completed, and then goes on; a unit out of range raises
ACCESS. -/
def Sys2Proof.Machine.KiteBarriers : Prop :=
  (∀ (s : State) (c k : Nat) (f : Fields), Issues (.barArrive f) s c k →
    let u := (s.kite c k).barUnitNo f
    let t := closeStrip s c k
    (2 * flightSize s c ≤ u → exec (.barArrive f) s = .next (trapKite s c k (trapAt 0x04 u 0) .here none)) ∧
    (u < 2 * flightSize s c → outstanding t c u (t.kite c k).arr = true →
      exec (.barArrive f) s = .next (waitKite t c k (.barArrive u))) ∧
    (u < 2 * flightSize s c → outstanding t c u (t.kite c k).arr = false →
      (t.kite c k).vq.length < 8 →
      exec (.barArrive f) s = .next (retire (t.modKite c k fun x => { x with
        vq := x.vq ++ [{ dispatched := false, marker := some {
          unit := u, phase := (barUnit t c u).phase, scope := opdValue f.b
          count := match f.c with | .uimm n => n.toNat | _ => flightSize t c * (t.crew c).n } }]
        arr := x.arr.set u (barUnit t c u).phase }) c k f.yld))) ∧
  ∀ (s : State) (c k : Nat) (f : Fields), Issues (.barWait f) s c k →
    let u := (s.kite c k).barUnitNo f
    (2 * flightSize s c ≤ u → exec (.barWait f) s = .next (trapKite s c k (trapAt 0x04 u 0) .here none)) ∧
    (u < 2 * flightSize s c → outstanding s c u (s.kite c k).arr = true →
      exec (.barWait f) s = .next (waitKite s c k (.barWait u)))

/-- R111, R112: bar.wait of a kite whose latest arrival has completed, or that has none, acquires at its scope, at both
scopes; STATUS.SCX is set where the scope of an arrival of that phase and the waiter's do not include each other's
core. That the wait uses up the arrival, so that a second one tests no scope, is the choice of log 12. -/
def Sys2Proof.Machine.BarrierWaits : Prop :=
  ∀ (s : State) (c k : Nat) (f : Fields), Issues (.barWait f) s c k →
    let u := (s.kite c k).barUnitNo f
    let d := s.module.devnum
    let scope := opdValue f.b
    u < 2 * flightSize s c → outstanding s c u (s.kite c k).arr = false →
    ∃ y : Kite, (∃ bad : Bool, (bad = true ↔ ∃ p, (s.kite c k).arr.find u = some p ∧
          ∃ e ∈ (barUnit s c u).past.get p, ¬ (includes c d scope e.1 d = true ∧ includes e.1 d e.2 c d = true)) ∧
        y = { (s.kite c k).readAnew with arr := (s.kite c k).arr.del u, scx := (s.kite c k).scx || bad }) ∧
      (scope ≠ 1 → exec (.barWait f) s = .next (retire (s.modKite c k fun _ => y) c k f.yld)) ∧
      (scope = 1 → exec (.barWait f) s = .next (retire (kiteAcquire (s.modKite c k fun _ => y) c k 1) c k f.yld))

/-- R110: an arrival at a barrier unit joins its phase; the first of a phase sets how many the phase takes, and the
last of them completes it and starts the next phase with none. -/
def Sys2Proof.Machine.BarrierPhases : Prop :=
  ∀ (b : BarUnit) (core count scope : Nat),
    let n := if b.arr = [] then count else b.n
    (b.arr.length + 1 < n → (b.arrive core count scope).phase = b.phase ∧ (b.arrive core count scope).n = n ∧
      (b.arrive core count scope).arr = b.arr ++ [(core, scope)]) ∧
    (n ≤ b.arr.length + 1 →
      (b.arrive core count scope).phase = b.phase + 1 ∧ (b.arrive core count scope).arr = [] ∧
      (b.arrive core count scope).past.get b.phase = b.arr ++ [(core, scope)])

/-- R108 to R111: the barrier instructions and the phases of a barrier. -/
def Obligations.Barriers : Prop := KiteBarriers ∧ BarrierWaits ∧ BarrierPhases

/-! ## Scalar memory -/

/-- R89, R90: a global load by a kite that is no orphan, from an aligned address that translates, under a view that is
not being fixed, writes the bytes that the line gives to s[A], extended as TY says; a load from an on-chip space reads
the space. -/
def Sys2Proof.Machine.LoadsGiveBytes : Prop :=
  (∀ (s s' : State) (c k : Nat) (f : Fields) (p : Xlat), Issues (.ld f) s c k →
    let x := s.kite c k
    let n := accessBytes f
    kiteOrphan s c x = false → x.memAddr f.b % n = 0 →
    translate s c (s.crew c).ctx (x.memAddr f.b) .load .kite = .ok (p, s') →
    viewFixing s' (s'.crew c).ctx x.tintv = false →
    let r := loadLine (noteRead s' c k (lineRec s' (lineOf p.a))) c (s'.crew c).ctx x.tintv x.acq p n f.rd.toNat false
    exec (.ld f) s = .next (retire (r.2.modKite c k fun y =>
      y.sset (opdValue f.a) (extendTy f.ty.toNat n (ofBytes r.1))) c k f.yld)) ∧
  ∀ (s : State) (c k : Nat) (f : Fields), Issues (.ldsp f) s c k →
    let a := (s.kite c k).memAddr f.b
    let n := accessBytes f
    let sp := f.fn.toNat
    a % n = 0 → a + n ≤ extent s c sp →
    exec (.ldsp f) s = .next (retire ((noteRead s c k (spRec s c sp (a / 64))).modKite c k fun y =>
      y.sset (opdValue f.a) (extendTy f.ty.toNat n (memRead (spMem s c sp) a n))) c k f.yld)

/-- R90, R302: a committed load past an L1 without the line, with nothing buffered in its core or at the guest lines of its
die, and of no guest line, gives the committed bytes. -/
def Sys2Proof.Machine.LoadGivesCommitted : Prop :=
  ∀ (s : State) (c ctx n rd : Nat) (q : Acq) (x : Xlat) (reel : Bool),
    (s.core c).wp = [] → (s.core c).l1 = [] → dieStores s (dieOf c) = [] → isGuest s.module (dieOf c) x.cl x.a = false →
    (loadLine s c ctx 0 q x n rd reel).1 = memBytes s.mem x.a n

/-- R90: a load sees the kite's own latest store: after bytes of one line enter the write path under a view, a load of
them under that view, past the L1, gives those bytes. -/
def Sys2Proof.Machine.LoadSeesOwnStore : Prop :=
  ∀ (s : State) (c ctx view rd a : Nat) (q : Acq) (x : Xlat) (v : Nat) (n : Nat) (rel : Option Nat),
    n = 1 ∨ n = 2 ∨ n = 4 ∨ n = 8 → a % n = 0 → x.a = a → x.cl ≠ 0 → (s.core c).wp = [] →
    (s.ctx ctx).resolve view = view →
    (loadLine (storeBytes s c ctx view rel false (wbytes a (toBytes n v))) c ctx view q x n rd false).1 = toBytes n v

/-- R89, R90, R302: ld and ldsp, and the bytes that a load gives. Details are by the reading of log 6. -/
def Obligations.ScalarLoads : Prop := LoadsGiveBytes ∧ LoadGivesCommitted ∧ LoadSeesOwnStore

/-- R89, R90, R302: a global store by a kite that is no orphan, to an aligned address that translates, puts the low
bytes of s[B] at the translated address into the write path of the core under the kite's view; a store to an on-chip
space writes them to the space. -/
def Sys2Proof.Machine.ScalarStoresAct : Prop :=
  (∀ (s s' s'' : State) (c k : Nat) (f : Fields) (p : Xlat), Issues (.st f) s c k → s.hold = false →
    let x := s.kite c k
    let n := accessBytes f
    let a := x.memAddr f.a
    kiteOrphan s c x = false → a % n = 0 →
    translate s c (s.crew c).ctx a .store .kite = .ok (p, s') →
    kiteReserve s' c x.tintv [lineOf p.a] (fun _ => (a, 0)) false = .ok s'' →
    exec (.st f) s = .next (retire (storeBytes
      (s''.modKite c k fun y => { y with relNext := none }) c (s''.crew c).ctx x.tintv (s''.kite c k).relNext false
      ((wbytes p.a (toBytes n (x.opd f.b).toNat)).map fun w => { w with cl := p.cl })) c k f.yld)) ∧
  ∀ (s : State) (c k : Nat) (f : Fields), Issues (.stsp f) s c k → s.hold = false → f.fn.toNat ≠ 0 →
    let x := s.kite c k
    let a := x.memAddr f.a
    let n := accessBytes f
    let sp := f.fn.toNat
    a % n = 0 → a + n ≤ extent s c sp → x.relNext = none →
    exec (.stsp f) s = .next (retire (spWrite (s.modKite c k fun y => { y with relNext := none }) c sp
      (wbytes a (toBytes n (x.opd f.b).toNat))) c k f.yld)

/-- R213, R300: a store that the machine puts off joins the stores of the strip that have not performed, with its bytes,
its view and the release that a fence left. -/
def Sys2Proof.Machine.ScalarStoresPend : Prop :=
  (∀ (s s' s'' : State) (c k : Nat) (f : Fields) (p : Xlat), Issues (.st f) s c k → s.hold = true →
    let x := s.kite c k
    let n := accessBytes f
    let a := x.memAddr f.a
    kiteOrphan s c x = false → a % n = 0 →
    translate s c (s.crew c).ctx a .store .kite = .ok (p, s') →
    kiteReserve s' c x.tintv [lineOf p.a] (fun _ => (a, 0)) false = .ok s'' →
    exec (.st f) s = .next (retire (s''.modKite c k fun y => { y with
      relNext := none
      pend := y.pend ++ [{ scalar := true, view := x.tintv, rel := y.relNext
                           bytes := (wbytes p.a (toBytes n (x.opd f.b).toNat)).map fun w => { w with cl := p.cl } }] })
      c k f.yld)) ∧
  ∀ (s : State) (c k : Nat) (f : Fields), Issues (.stsp f) s c k → s.hold = true →
    let x := s.kite c k
    let a := x.memAddr f.a
    let n := accessBytes f
    a % n = 0 → a + n ≤ extent s c f.fn.toNat →
    exec (.stsp f) s = .next (retire (s.modKite c k fun y => { y with
      relNext := none
      pend := y.pend ++ [{ scalar := true, space := f.fn.toNat, rel := y.relNext
                           bytes := wbytes a (toBytes n (x.opd f.b).toNat) }] }) c k f.yld)

/-- R89, R90, R213, R300, R302: what a scalar store does, at once or put off. Details are by the reading of log 11. -/
def Obligations.ScalarStores : Prop := ScalarStoresAct ∧ ScalarStoresPend

/-- R89, R99: the orphan check comes first, then alignment: a misaligned load or store raises MISALIGNED with the
address, and an access to an on-chip space past its extent raises ACCESS. -/
def Obligations.ScalarAccessTraps : Prop :=
  (∀ (s : State) (c k : Nat) (f : Fields), Issues (.ld f) s c k →
    let a := (s.kite c k).memAddr f.b
    (kiteOrphan s c (s.kite c k) = true →
      exec (.ld f) s = .next (trapKite s c k (trapAt 0x08 a (s.kite c k).tintv) .here none)) ∧
    (kiteOrphan s c (s.kite c k) = false → a % accessBytes f ≠ 0 →
      exec (.ld f) s = .next (trapKite s c k (trapAt 0x03 a 0) .here none))) ∧
  (∀ (s : State) (c k : Nat) (f : Fields), Issues (.st f) s c k →
    let a := (s.kite c k).memAddr f.a
    (kiteOrphan s c (s.kite c k) = true →
      exec (.st f) s = .next (trapKite s c k (trapAt 0x08 a (s.kite c k).tintv) .here none)) ∧
    (kiteOrphan s c (s.kite c k) = false → a % accessBytes f ≠ 0 →
      exec (.st f) s = .next (trapKite s c k (trapAt 0x03 a 0) .here none))) ∧
  (∀ (s : State) (c k : Nat) (f : Fields), Issues (.ldsp f) s c k →
    let a := (s.kite c k).memAddr f.b
    (a % accessBytes f ≠ 0 → exec (.ldsp f) s = .next (trapKite s c k (trapAt 0x03 a 0) .here none)) ∧
    (a % accessBytes f = 0 → extent s c f.fn.toNat < a + accessBytes f →
      exec (.ldsp f) s = .next (trapKite s c k (trapAt 0x04 a 0) .here none))) ∧
  ∀ (s : State) (c k : Nat) (f : Fields), Issues (.stsp f) s c k →
    let a := (s.kite c k).memAddr f.a
    (a % accessBytes f ≠ 0 → exec (.stsp f) s = .next (trapKite s c k (trapAt 0x03 a 0) .here none)) ∧
    (a % accessBytes f = 0 → extent s c f.fn.toNat < a + accessBytes f →
      exec (.stsp f) s = .next (trapKite s c k (trapAt 0x04 a 0) .here none))

/-- The frame of stsp: every byte of the space outside the stored ones, the module's memory, every register of the
kite, every other kite and every other crew are as before; the stored bytes are the low bytes of s[B]. -/
def Sys2Proof.Machine.ScratchStoreFrame : Prop :=
  ∀ (s : State) (c k : Nat) (f : Fields), Issues (.stsp f) s c k → GoesOn s c k → s.hold = false →
    f.fn.toNat ≠ 0 → (s.kite c k).relNext = none →
    let a := (s.kite c k).memAddr f.a
    let n := accessBytes f
    let sp := f.fn.toNat
    Memory.wf (spMem s c sp) = true → a % n = 0 → a + n ≤ extent s c sp →
    ∃ t, exec (.stsp f) s = .next t ∧ SameMemory s t ∧
      (∀ b, (b < a ∨ a + n ≤ b) → memGet (spMem t c sp) b = memGet (spMem s c sp) b) ∧
      memRead (spMem t c sp) a n = ((s.kite c k).opd f.b).toNat % 2 ^ (8 * n) ∧
      t.kite c k = (s.kite c k).movedLike (t.kite c k) ∧ (∀ j, j ≠ k → t.kite c j = s.kite c j) ∧
      ∀ d, d ≠ c → t.crew d = s.crew d

/-- The frame of st: as it issues it writes no byte of memory; the bytes at the address that its operand names, and no
others, join the core's write path; every register of the kite but its release mark is as before. -/
def Sys2Proof.Machine.GlobalStoreFrame : Prop :=
  ∀ (s s' s'' : State) (c k : Nat) (f : Fields) (p : Xlat), Issues (.st f) s c k → GoesOn s c k → s.hold = false →
    let x := s.kite c k
    let n := accessBytes f
    let a := x.memAddr f.a
    kiteOrphan s c x = false → a % n = 0 →
    translate s c (s.crew c).ctx a .store .kite = .ok (p, s') →
    kiteReserve s' c x.tintv [lineOf p.a] (fun _ => (a, 0)) false = .ok s'' →
    ∃ t es, exec (.st f) s = .next t ∧ SameMemory s t ∧ (t.core c).wp = (s.core c).wp ++ es ∧
      (es.flatMap fun e => e.bytes.map fun w => (w.addr, w.value)) =
        (List.range n).map (fun j => (p.a + j, (x.opd f.b).toNat / 2 ^ (8 * j) % 256)) ∧
      t.kite c k = ({ x with relNext := none } : Kite).movedLike (t.kite c k) ∧
      ∀ j, j ≠ k → t.kite c j = s.kite c j

/-- R89, R90, R99, R302: the frames of stsp and st. -/
def Obligations.StoreFrames : Prop := ScratchStoreFrame ∧ GlobalStoreFrame

namespace Sys2Proof.Machine

/-- The functions of amo on 8n bits: the new value from the old one and the operand (R92). -/
def amoRules : List ((Fields → Instr) × (Nat → Nat → Nat → Nat)) :=
  [(.amoAdd, fun w o v => (o + v) % 2 ^ w), (.amoAnd, fun _ o v => o &&& v), (.amoOr, fun _ o v => o ||| v),
   (.amoXor, fun _ o v => o ^^^ v),
   (.amoMin, fun w o v => if toSigned w o ≤ toSigned w v then o else v),
   (.amoMax, fun w o v => if toSigned w v ≤ toSigned w o then o else v),
   (.amoMinn, fun _ o v => min o v), (.amoMaxn, fun _ o v => max o v), (.amoSwap, fun _ _ v => v)]

end Sys2Proof.Machine

/-- R92: a relaxed amo or cas on a scratchpad space reads the old value there, writes the new one, and gives the old
one, extended as TY says, to s[A]; a cas writes s[A + 1] only where the old value equals s[A]. -/
def Sys2Proof.Machine.ScratchAtomics : Prop :=
  (∀ e ∈ amoRules, ∀ (s : State) (c k : Nat) (f : Fields), Issues (e.1 f) s c k →
    f.xf = 0 → amoSpace f ≠ 0 → (s.kite c k).relNext = none →
    let x := s.kite c k
    let a := x.memAddr f.b
    let n := amoBytes f
    let old := memRead (spMem s c (amoSpace f)) a n
    a % n = 0 → a + n ≤ extent s c (amoSpace f) →
    exec (e.1 f) s = .next (retire ((noteRead (spWrite (s.modKite c k fun y => { y with relNext := none }) c (amoSpace f)
      (wbytes a (toBytes n (e.2 (8 * n) old ((x.opd f.a).toNat % 2 ^ (8 * n)))))) c k
        (spRec s c (amoSpace f) (a / 64))).modKite c k fun y =>
          y.sset (opdValue f.a) (extendTy f.ty.toNat n old)) c k f.yld)) ∧
  ∀ (s : State) (c k : Nat) (f : Fields), Issues (.cas f) s c k →
    f.xf = 0 → amoSpace f ≠ 0 → (s.kite c k).relNext = none →
    let x := s.kite c k
    let a := x.memAddr f.b
    let n := amoBytes f
    let old := memRead (spMem s c (amoSpace f)) a n
    a % n = 0 → a + n ≤ extent s c (amoSpace f) →
    (old = (x.opd f.a).toNat % 2 ^ (8 * n) →
      exec (.cas f) s = .next (retire ((noteRead (spWrite (s.modKite c k fun y => { y with relNext := none }) c (amoSpace f)
        (wbytes a (toBytes n ((x.sget (opdValue f.a + 1)).toNat % 2 ^ (8 * n))))) c k
          (spRec s c (amoSpace f) (a / 64))).modKite c k fun y =>
            y.sset (opdValue f.a) (extendTy f.ty.toNat n old)) c k f.yld)) ∧
    (old ≠ (x.opd f.a).toNat % 2 ^ (8 * n) →
      exec (.cas f) s = .next (retire ((noteRead (s.modKite c k fun y => { y with relNext := none }) c k
        (spRec s c (amoSpace f) (a / 64))).modKite c k fun y =>
          y.sset (opdValue f.a) (extendTy f.ty.toNat n old)) c k f.yld))

/-- R96: a famo on a scratchpad space writes its function of the old value and s[A], and gives the old value,
zero-extended, to s[A]; add and the minimum and maximum in F32, add in BF16. -/
def Sys2Proof.Machine.ScratchFloatAtomics : Prop :=
  ∀ e ∈ [(Instr.famoAddF32, 4), (Instr.famoAddBf16, 2), (Instr.famoMinF32, 4), (Instr.famoMaxF32, 4)],
    ∀ (s : State) (c k : Nat) (f : Fields), Issues (e.1 f) s c k →
    amoSpace f ≠ 0 → (s.kite c k).relNext = none →
    let x := s.kite c k
    let a := x.memAddr f.b
    let n : Nat := e.2
    let old := memRead (spMem s c (amoSpace f)) a n
    a % n = 0 → a + n ≤ extent s c (amoSpace f) →
    exec (e.1 f) s = .next (retire ((noteRead (spWrite (s.modKite c k fun y => { y with relNext := none }) c (amoSpace f)
      (wbytes a (toBytes n (famoNew f.fn.toNat old ((x.opd f.a).toNat % 2 ^ (8 * n)))))) c k
        (spRec s c (amoSpace f) (a / 64))).modKite c k fun y =>
          y.sset (opdValue f.a) (zext old (8 * n))) c k f.yld)

/-- R93, R95: an atomic at the home of a global address acts on the committed bytes: it returns the bytes that were
there, writes the new value over them, and leaves every other byte and every tinted version as they were. -/
def Sys2Proof.Machine.HomeAtomics : Prop :=
  ∀ (s : Sys2Proof.Machine.State) (c a n : Nat) (g : Nat → Option Nat) (rel : Option Nat),
    let r := Sys2Proof.Machine.atomicAtHome s c a n g rel
    r.1 = memRead s.mem a n ∧ r.2.vers = s.vers ∧ (∀ b, b < a ∨ a + n ≤ b → memGet r.2.mem b = memGet s.mem b) ∧
    (∀ v, Memory.wf s.mem = true → g (memRead s.mem a n) = some v → memRead r.2.mem a n = v % 2 ^ (8 * n)) ∧
    (g (memRead s.mem a n) = none → r.2.mem = s.mem)

/-- R92, R93, R95, R96: the atomics on an on-chip space, and at the home of a global address. Details are by the
readings of logs 10 and 28. -/
def Obligations.Atomics : Prop := ScratchAtomics ∧ ScratchFloatAtomics ∧ Sys2Proof.Machine.HomeAtomics

/-- R98: fence.strip closes the strip and retires; fence.acq at CORE scope checks the records that the strip met and
closes it; fence.rel and fence.full at CORE scope leave a release for the next store or atomic besides. Details are
by the reading of log 10. -/
def Obligations.CoreFences : Prop :=
  (∀ (s : State) (c k : Nat) (f : Fields), Issues (.fenceStrip f) s c k →
    exec (.fenceStrip f) s = .next (retire (closeStrip (flushPend s c k) c k) c k f.yld)) ∧
  (∀ (s : State) (c k : Nat) (f : Fields), Issues (.fenceAcq f) s c k →
    exec (.fenceAcq f) s = .next (retire (closeStrip (fenceAcquire (flushPend s c k) c k (opdValue f.a)) c k) c k f.yld)) ∧
  (∀ (s : State) (c k : Nat) (f : Fields), Issues (.fenceRel f) s c k → opdValue f.a = 0 →
    exec (.fenceRel f) s = .next (retire (leaveRelease (closeStrip (flushPend s c k) c k) c k 0) c k f.yld)) ∧
  ∀ (s : State) (c k : Nat) (f : Fields), Issues (.fenceFull f) s c k → opdValue f.a = 0 →
    exec (.fenceFull f) s = .next (retire (leaveRelease (closeStrip
      (fenceAcquire (flushPend s c k) c k 0) c k) c k 0) c k f.yld)

/-- R290, R299: regb closes the strip; outside a region, under a live view of depth below 16 and with a free tint n, it
opens n as a child of the view, notes the region and views n; rege outside a region only retires, and inside one, its
stores performed, asks for the fix of its tint and waits for it; hview under no region changes the view to a live tint
and gives the old one. -/
def Sys2Proof.Machine.RegionsOpenAndClose : Prop :=
  (∀ (s : State) (c k n : Nat) (f : Fields), Issues (.regb f) s c k →
    let u := closeStrip s c k
    let x := u.kite c k
    let tab := u.ctx (u.crew c).ctx
    x.region = none → tab.isLive x.tintv = true → (tab.tint x.tintv).depth ≠ 16 → tab.freeTint = some n →
    exec (.regb f) s = .next (retire ((u.modCtx (u.crew c).ctx fun y =>
        { y with tints := y.tints.set n { st := .live, parent := x.tintv, depth := (y.tint x.tintv).depth + 1 } }).modKite c k fun y =>
      let y := { y with region := some { tint := n, parent := x.tintv, cur := y.cur, idx := y.idx }, tintv := n }
      match f.a with
      | .s i => y.sset i.toNat (BitVec.ofNat 64 n)
      | _ => y) c k f.yld)) ∧
  (∀ (s : State) (c k : Nat) (f : Fields), Issues (.rege f) s c k →
    let u := closeStrip s c k
    ((u.kite c k).region = none → exec (.rege f) s = .next (retire u c k f.yld)) ∧
    ∀ r u', (u.kite c k).region = some r → (u.ctx (u.crew c).ctx).isLive r.tint = true → release u c 3 = (u', true) →
      exec (.rege f) s = .next (waitKite (u'.modCtx (u.crew c).ctx fun y =>
        { y with tops := y.tops ++ [{ bleach := false, tint := r.tint, core := c, agent := k }] }) c k (.tint r.tint))) ∧
  ∀ (s : State) (c k : Nat) (f : Fields), Issues (.hview f) s c k →
    let u := closeStrip s c k
    let t := ((s.kite c k).opd f.b).toNat
    (s.kite c k).region = none → t ≤ 1023 → (u.ctx (u.crew c).ctx).isLive t = true →
    exec (.hview f) s = .next (retire (u.modKite c k fun y =>
      { y.sset (opdValue f.a) (BitVec.ofNat 64 (s.kite c k).tintv) with tintv := t }) c k f.yld)

/-- R290: regb inside a region raises TINT_FULL with reason 5, under a view that is not live ORPHAN with the view, under
one of depth 16 TINT_FULL with reason 4, and with no free tint TINT_FULL with reason 3, in this order; rege of a region
whose tint is not live raises ORPHAN with the tint; hview inside a region raises TINT_FULL with reason 5, and of a tint
that is not live, or past the table, ORPHAN with the tint asked for. FAULTVA is 0. -/
def Sys2Proof.Machine.RegionTraps : Prop :=
  (∀ (s : State) (c k : Nat) (f : Fields), Issues (.regb f) s c k →
    let u := closeStrip s c k
    let x := u.kite c k
    let tab := u.ctx (u.crew c).ctx
    let traps := fun cause elt => exec (.regb f) s = .next (trapKite u c k (trapAt cause 0 elt) .here none)
    (∀ r, x.region = some r → traps 0x09 5) ∧
    (x.region = none → tab.isLive x.tintv = false → traps 0x08 x.tintv) ∧
    (x.region = none → tab.isLive x.tintv = true → (tab.tint x.tintv).depth = 16 → traps 0x09 4) ∧
    (x.region = none → tab.isLive x.tintv = true → (tab.tint x.tintv).depth ≠ 16 → tab.freeTint = none →
      traps 0x09 3)) ∧
  (∀ (s : State) (c k : Nat) (f : Fields) (r : Region), Issues (.rege f) s c k →
    let u := closeStrip s c k
    (u.kite c k).region = some r → (u.ctx (u.crew c).ctx).isLive r.tint = false →
    exec (.rege f) s = .next (trapKite u c k (trapAt 0x08 0 r.tint) .here none)) ∧
  ∀ (s : State) (c k : Nat) (f : Fields), Issues (.hview f) s c k →
    let u := closeStrip s c k
    let t := ((s.kite c k).opd f.b).toNat
    (∀ r, (s.kite c k).region = some r →
      exec (.hview f) s = .next (trapKite u c k (trapAt 0x09 0 5) .here none)) ∧
    ((s.kite c k).region = none → 1023 < t ∨ (u.ctx (u.crew c).ctx).isLive t = false →
      exec (.hview f) s = .next (trapKite u c k (trapAt 0x08 0 t) .here none))

/-- R290: regb, rege and hview. Details are by the readings of logs 9 and 27. -/
def Obligations.RegionInstructions : Prop := RegionsOpenAndClose ∧ RegionTraps
/-! ## Vectors -/

/-- R121, R122: setvl grants the smaller of the request and the capacity (an odd E2M1B request one more), closes the
strip, sets VL and gives the grant to s[A]; getmvl gives the capacity. Each takes an entry of the vector queue; with no
entry free the kite is not ready with it. -/
def Obligations.LengthInstructions : Prop :=
  (∀ (s : State) (c k : Nat) (f : Fields), Issues (.setvl f) s c k →
    let x := s.kite c k
    let cap := x.mvlb * 8 / widthOf f.ty.toNat
    let n := min (x.opd f.b).toNat cap
    let n := if f.ty = 8 ∧ n % 2 = 1 then n + 1 else n
    (8 ≤ x.vq.length → exec (.setvl f) s = .next s) ∧
    (x.vq.length < 8 →
      exec (.setvl f) s = .next (retire ((closeStrip s c k).modKite c k fun y =>
        { ({ y with vlen := n * widthOf f.ty.toNat / 8, vlty := f.ty.toNat } : Kite).sset (opdValue f.a)
            (BitVec.ofNat 64 n) with vq := y.vq ++ [{ op := 0x40, f := f }] }) c k f.yld))) ∧
  ∀ (s : State) (c k : Nat) (f : Fields), Issues (.getmvl f) s c k →
    (8 ≤ (s.kite c k).vq.length → exec (.getmvl f) s = .next s) ∧
    ((s.kite c k).vq.length < 8 →
      exec (.getmvl f) s = .next (retire (s.modKite c k fun y =>
        { y.sset (opdValue f.a) (BitVec.ofNat 64 (y.mvlb * 8 / widthOf f.ty.toNat)) with
          vq := y.vq ++ [{ op := 0x41, f := f }] }) c k f.yld))

/-- R133 to R135: a rep before a legal target starts the repetition, with REPST at its count and the step captured, and
the kite stays at the rep; one issued anew with no repetition left retires with its target and clears REPST; under a
false guard rep and target retire together; a count of 0 or above 65,535, or a target that no rep may have, raises
ILLEGAL_OP at the rep; and a target whose buffer is being filled is waited for. -/
def Sys2Proof.Machine.RepeatPrefix : Prop :=
  ∀ (s : State) (c k : Nat) (f : Fields), Turns (.rep f) s c k → (s.kite c k).vq.length < 8 →
    (s.kite c k).guardComes f = false → ∀ p, (s.kite c k).nextPos = .ok p →
    let x := s.kite c k
    let cnt := (x.opd f.a).toNat
    let open_ := guardOpen (.rep f) x = true
    let clean := (x.buf p.1).filling = false ∧ ∀ l ∈ slotLines p.2, l ∉ (x.buf p.1).bad
    let fits := ∃ i, x.wordAt p = some i ∧ repTarget i = true
    (¬ open_ → exec (.rep f) s = .next (retire (moveTo s c k p) c k f.yld)) ∧
    (open_ → clean → fits → x.repDone < cnt → cnt ≤ 65535 →
      exec (.rep f) s = .next (s.modKite c k fun y =>
        { y with repAct := true, repCount := cnt, repRun := true, repStep := x.opd f.c, waitCount := 0
                 yielded := f.yld, vq := y.vq ++ [{ op := 0x42, f := f }] })) ∧
    (open_ → clean → fits → 1 ≤ cnt → cnt ≤ 65535 → cnt ≤ x.repDone →
      exec (.rep f) s = .next (retire ((moveTo s c k p).modKite c k fun y =>
        { y with repAct := false, repDone := 0, repCount := 0, vq := y.vq ++ [{ op := 0x42, f := f }] }) c k f.yld)) ∧
    (open_ → (x.buf p.1).filling = true → x.repDone < cnt → cnt ≤ 65535 →
      exec (.rep f) s = .next (waitKite s c k (.fill p.1))) ∧
    (open_ → (clean ∧ ¬ fits) ∨ cnt = 0 ∨ 65535 < cnt →
      exec (.rep f) s = .next (trapKite s c k (trapAt 0x01 x.addr 0) .here none))

/-- R134: the end of a repetition that is not the last leaves the kite at its rep with DONE one higher and the index
register stepped; after the last one REPST is clear and the kite goes on after the target. -/
def Sys2Proof.Machine.RepetitionEnds : Prop :=
  ∀ (s : State) (c k r : Nat) (f : Fields) (yld : Bool), (s.kite c k).repRun = true →
    (s.kite c k).wordAt ((s.kite c k).cur, (s.kite c k).idx) = some (.rep f) → f.b = .s (BitVec.ofNat 5 r) → r < 32 →
    let x := s.kite c k
    let stepped := x.sset r (x.sget r + x.repStep)
    (x.repDone + 1 < x.repCount →
      retire s c k yld = s.modKite c k fun _ =>
        { stepped with repDone := x.repDone + 1, waitCount := 0, yielded := yld }) ∧
    ∀ p q, x.repCount ≤ x.repDone + 1 → x.nextPos = .ok p → ({ x with cur := p.1, idx := p.2 } : Kite).nextPos = .ok q →
      retire s c k yld = s.modKite c k fun _ =>
        ({ stepped with repAct := false, repDone := 0, repCount := 0, repRun := false } : Kite).movedTo q yld

/-- R133 to R135: the start of a repetition and its ends. Details are by the reading of log 9. -/
def Obligations.Repetitions : Prop := RepeatPrefix ∧ RepetitionEnds

namespace Sys2Proof.Machine

/-- The instructions of the vector queue that write predicates and move elements, with their OP and effect. -/
def moveForms : List ((Fields → Instr) × Nat × VBody) :=
  [(.plogicAnd, 0x43, plogicBody fun b c => b && c), (.plogicOr, 0x43, plogicBody fun b c => b || c),
   (.plogicXor, 0x43, plogicBody fun b c => xor b c), (.plogicAndn, 0x43, plogicBody fun b c => b && !c),
   (.plogicNot, 0x43, plogicBody fun b _ => !b), (.plogicSet, 0x43, plogicBody fun _ _ => true),
   (.plogicClear, 0x43, plogicBody fun _ _ => false), (.pcnt, 0x44, pcntBody), (.pfirst, 0x45, pfirstBody),
   (.vperm, 0x46, vpermBody), (.vslideUp, 0x47, vslideUpBody), (.vslideDown, 0x47, vslideDownBody),
   (.vtrans8, 0x48, vtrans8Body), (.vzipZip, 0x49, vzipBody), (.vzipUnzip, 0x49, vunzipBody),
   (.vbcast, 0x4A, vbcastBody), (.viota, 0x4B, viotaBody), (.vext, 0x4C, vextBody), (.vins, 0x4D, vinsBody)]

/-- Those of elementwise arithmetic on vectors (Table 8-1). -/
def arithForms : List ((Fields → Instr) × Nat × VBody) :=
  [(.vadd, 0x50, vaddBody), (.vsub, 0x51, vsubBody), (.vmul, 0x52, vmulBody), (.vfma, 0x53, vfmaBody),
   (.vdiv, 0x54, vdivBody), (.vsqrt, 0x55, vsqrtBody), (.vmin, 0x56, vminBody), (.vmax, 0x57, vmaxBody),
   (.vabs, 0x58, vabsBody), (.vneg, 0x59, vnegBody), (.vand, 0x5A, vandBody), (.vor, 0x5B, vorBody),
   (.vxor, 0x5C, vxorBody), (.vshl, 0x5D, vshlBody), (.vshrLog, 0x5E, vshrLogBody), (.vshrAri, 0x5E, vshrAriBody),
   (.vsel, 0x60, vselBody), (.vmulh, 0x61, vmulhBody), (.vmadd, 0x62, vmaddBody), (.vsat, 0x63, vsatBody),
   (.vsfnExp2, 0x64, vsfnBody 0), (.vsfnLog2, 0x64, vsfnBody 1), (.vsfnRcp, 0x64, vsfnBody 2),
   (.vsfnRsqrt, 0x64, vsfnBody 3), (.vsfnTanh, 0x64, vsfnBody 4), (.vsfnSigmoid, 0x64, vsfnBody 5),
   (.vsfnErf, 0x64, vsfnBody 6), (.vsfnSin, 0x64, vsfnBody 7), (.vcvtHalve, 0x66, vcvtBody false),
   (.vcvtDouble, 0x66, vcvtBody true)]

/-- Those of comparison, classification and block bytes, the quantising conversion, and the release of a binding. -/
def testForms : List ((Fields → Instr) × Nat × VBody) :=
  [(.vcmpEq, 0x5F, vcmpBody 0), (.vcmpNe, 0x5F, vcmpBody 1), (.vcmpLt, 0x5F, vcmpBody 2), (.vcmpLe, 0x5F, vcmpBody 3),
   (.vcmpGt, 0x5F, vcmpBody 4), (.vcmpGe, 0x5F, vcmpBody 5), (.vcmpUo, 0x5F, vcmpBody 6), (.vcmpOrd, 0x5F, vcmpBody 7),
   (.vclass, 0x65, vclassBody), (.vcvtq, 0x67, vcvtqBody), (.vbsclRdscale, 0x68, rdBytesBody VReg.scaleAt),
   (.vbsclWrscale, 0x68, wrscaleBody), (.vbsclRdvalid, 0x68, rdvalidBody), (.vbsclWrvalid, 0x68, wrvalidBody),
   (.vbsclRdspare, 0x68, rdBytesBody VReg.spareAt), (.vbsclWrspare, 0x68, wrspareBody),
   (.vunbind, 0x78, vunbindBody), (.nkrd, 0x8A, nkrdBody), (.nkwr, 0x8B, nkwrBody)]

/-- A signed or unsigned reading of an element, by its type (R163). -/
def operandInt (x : Kite) (ctx : VCtx) (ty : Nat) (o : Operand) (i : Nat) : Int := intVal ty (x.celem ctx ty o i).v

/-- The integer results of Table 8-2 and R164, to be taken modulo 2^w, from b and c and the width w. -/
def vecIntRules : List ((Fields → Instr) × Nat × (Nat → Int → Int → Int)) :=
  [(.vadd, 0x50, fun _ b c => b + c), (.vsub, 0x51, fun _ b c => b - c), (.vmul, 0x52, fun _ b c => b * c),
   (.vdiv, 0x54, fun _ b c => if c = 0 then -1 else b.tdiv c), (.vmin, 0x56, fun _ b c => min b c),
   (.vmax, 0x57, fun _ b c => max b c), (.vabs, 0x58, fun _ b _ => b.natAbs), (.vneg, 0x59, fun _ b _ => -b),
   (.vmulh, 0x61, fun w b c => b * c / 2 ^ w)]

/-- The bitwise results of R164, and the shifts of R165 by the low log2(w) bits of c, as bits j of width w. -/
def vecBitRules : List ((Fields → Instr) × Nat × (Nat → Nat → Nat → Nat → Bool)) :=
  [(.vand, 0x5A, fun _ b c j => b.testBit j && c.testBit j), (.vor, 0x5B, fun _ b c j => b.testBit j || c.testBit j),
   (.vxor, 0x5C, fun _ b c j => xor (b.testBit j) (c.testBit j)),
   (.vshl, 0x5D, fun w b c j => decide (c % w ≤ j) && b.testBit (j - c % w)),
   (.vshrLog, 0x5E, fun w b c j => decide (j + c % w < w) && b.testBit (j + c % w)),
   (.vshrAri, 0x5E, fun w b c j => b.testBit (min (j + c % w) (w - 1)))]

end Sys2Proof.Machine

/-- R123, R127: an instruction of the vector queue that the sequencer takes performs its effect on the kite, takes one
entry that delivers its flags, and retires; with no free entry the kite is not ready. The effect of each is the
function beside it. -/
def Obligations.VectorInstructionsPerform : Prop :=
  ∀ e ∈ moveForms ++ arithForms ++ testForms, ∀ (s : State) (c k : Nat) (f : Fields),
    (VecIssues (e.1 f) e.2.1 f s c k →
      exec (e.1 f) s = .next (retire (s.modKite c k fun x =>
        (e.2.2 x f (x.capture f)).1.vecDone e.2.1 f (e.2.2 x f (x.capture f)).2) c k f.yld)) ∧
    (Issues (e.1 f) s c k → 8 ≤ (s.kite c k).vq.length → exec (e.1 f) s = .next s)

/-- R163, R164, R119: on an integer type, vadd, vsub, vmul, vdiv, vmin, vmax, vabs, vneg and vmulh write each active,
guarded element with their function of the operands modulo 2^w, and keep every other element, every other register
and the flags. -/
def Sys2Proof.Machine.VectorIntegerResults : Prop :=
  ∀ e ∈ vecIntRules, ∀ (s : State) (c k : Nat) (f : Fields), VecIssues (e.1 f) e.2.1 f s c k → f.ty.toNat < 8 →
    let x := s.kite c k
    let ctx := x.capture f
    let ty := f.ty.toNat
    let w := widthOf ty
    ∃ y : Kite, exec (e.1 f) s = .next (retire (s.modKite c k fun _ => y.vecDone e.2.1 f 0) c k f.yld) ∧
      y = { x with v := y.v, binds := y.binds } ∧
      (∀ i, ((y.vget (opdValue f.a)).elem ty i : Int) =
        if i < ctx.len * 8 / w ∧ ctx.on i = true then
          e.2.2 w (operandInt x ctx ty f.b i) (operandInt x ctx ty f.c i) % 2 ^ w
        else (x.vget (opdValue f.a)).elem ty i) ∧
      ∀ r, r ≠ opdValue f.a → y.vget r = x.vget r

/-- R164, R165: vand, vor, vxor, vshl, vshr.log and vshr.ari write the bits that their rules give to each active, guarded
element, and keep every other element and register. -/
def Sys2Proof.Machine.VectorBitResults : Prop :=
  ∀ e ∈ vecBitRules, ∀ (s : State) (c k : Nat) (f : Fields), VecIssues (e.1 f) e.2.1 f s c k →
    let x := s.kite c k
    let ctx := x.capture f
    let ty := f.ty.toNat
    let w := widthOf ty
    ∃ y : Kite, exec (e.1 f) s = .next (retire (s.modKite c k fun _ => y.vecDone e.2.1 f 0) c k f.yld) ∧
      y = { x with v := y.v, binds := y.binds } ∧
      (∀ i < ctx.len * 8 / w, ctx.on i = true → ∀ j < w,
        ((y.vget (opdValue f.a)).elem ty i).testBit j =
          e.2.2 w (x.celem ctx ty f.b i).v (x.celem ctx ty f.c i).v j) ∧
      (∀ i, ¬ (i < ctx.len * 8 / w ∧ ctx.on i = true) →
        (y.vget (opdValue f.a)).elem ty i = (x.vget (opdValue f.a)).elem ty i) ∧
      ∀ r, r ≠ opdValue f.a → y.vget r = x.vget r

/-- R160: after an instruction writes elements of a register, a block in which it writes nothing keeps its validity bit;
in another block the bit is the AND of the source validities of the elements written there and, if the block keeps
an element, of its old bit. -/
def Sys2Proof.Machine.BlockValidity : Prop :=
  ∀ (r : VReg) (cap count j : Nat) (g : Nat → Option Out), count ≤ cap →
    let block := (List.range 32).map (32 * j + ·)
    let r' := r.writeValid cap count g
    let written := fun i => i < count ∧ (g i).isSome = true
    ((∀ i ∈ block, ¬ written i) → r'.valid j = r.valid j) ∧
    ((∃ i ∈ block, written i) →
      (r'.valid j = true ↔ (∀ i ∈ block, ∀ o, i < count → g i = some o → o.ok = true) ∧
        ((∃ i ∈ block, i < cap ∧ ¬ written i) → r.valid j = true)))

/-- R131, R132: plogic writes bit i of p[A], for active i whose guard bit is set, with its function of bits i of p[B] and
p[C], and keeps every other bit; pcnt gives the number of active i with bit i of p[B] and of the guard set, pfirst the
smallest such i or all ones. -/
def Obligations.PredicateInstructions : Prop :=
  (∀ e ∈ [(Instr.plogicAnd, fun b c => b && c), (.plogicOr, fun b c => b || c), (.plogicXor, fun b c => xor b c),
      (.plogicAndn, fun b c => b && !c), (.plogicNot, fun b _ => !b), (.plogicSet, fun _ _ => true),
      (.plogicClear, fun _ _ => false)],
    ∀ (s : State) (c k : Nat) (f : Fields), VecIssues (e.1 f) 0x43 f s c k →
    let x := s.kite c k
    let ctx := x.capture f
    ∃ y : Kite, exec (e.1 f) s = .next (retire (s.modKite c k fun _ => y.vecDone 0x43 f 0) c k f.yld) ∧
      y = { x with p := y.p } ∧ (∀ r, r ≠ opdValue f.a → y.pget r = x.pget r) ∧
      ∀ i < x.pbits, bit (y.pget (opdValue f.a)) i =
        if i < ctx.count f.ty.toNat ∧ ctx.on i = true then
          e.2 (bit (x.pget (opdValue f.b)) i) (bit (x.pget (opdValue f.c)) i)
        else bit (x.pget (opdValue f.a)) i) ∧
  (∀ (s : State) (c k : Nat) (f : Fields), VecIssues (.pcnt f) 0x44 f s c k →
    let x := s.kite c k
    let ctx := x.capture f
    exec (.pcnt f) s = .next (retire (s.modKite c k fun x => (x.sset (opdValue f.a) (BitVec.ofNat 64
      ((List.range (ctx.count f.ty.toNat)).countP fun i =>
        bit (x.pget (opdValue f.b)) i && ctx.on i))).vecDone 0x44 f 0) c k f.yld)) ∧
  ∀ (s : State) (c k : Nat) (f : Fields), VecIssues (.pfirst f) 0x45 f s c k →
    let x := s.kite c k
    let ctx := x.capture f
    let chosen := fun i => i < ctx.count f.ty.toNat ∧ bit (x.pget (opdValue f.b)) i = true ∧ ctx.on i = true
    (∀ i, chosen i → (∀ j < i, ¬ chosen j) →
      exec (.pfirst f) s = .next (retire (s.modKite c k fun x =>
        (x.sset (opdValue f.a) (BitVec.ofNat 64 i)).vecDone 0x45 f 0) c k f.yld)) ∧
    ((∀ i, ¬ chosen i) →
      exec (.pfirst f) s = .next (retire (s.modKite c k fun x =>
        (x.sset (opdValue f.a) (BitVec.allOnes 64)).vecDone 0x45 f 0) c k f.yld))

namespace Sys2Proof.Machine

/-- The element that a permute of one destination writes at i, if its guard lets it (R137): n is the number of active
elements, `src r j` element j of v[r] if j < n and else 0. -/
def permRules : List ((Fields → Instr) × Nat × (Kite → Fields → VCtx → (Nat → Nat → Nat) → Nat → Option Nat)) :=
  [(.vperm, 0x46, fun x f _ src i => some (src (opdValue f.b) ((x.vget (opdValue f.c)).elem f.ty.toNat i))),
   (.vslideUp, 0x47, fun _ f ctx src i =>
     if ctx.sc.toNat ≤ i then some (src (opdValue f.b) (i - ctx.sc.toNat)) else none),
   (.vslideDown, 0x47, fun _ f ctx src i => some (src (opdValue f.b) (i + ctx.sc.toNat))),
   (.vbcast, 0x4A, fun _ f ctx src _ =>
     match f.b with
     | .v r => some (src r.toNat ctx.sc.toNat)
     | _ => some (ctx.sb.toNat % 2 ^ widthOf f.ty.toNat)),
   (.viota, 0x4B, fun x f _ _ i =>
     match f.b with
     | .p r => some (((List.range i).countP fun j => bit (x.pget r.toNat) j) % 2 ^ widthOf f.ty.toNat)
     | _ => some (i % 2 ^ widthOf f.ty.toNat)),
   (.vins, 0x4D, fun _ f ctx _ i =>
     if i = ctx.sc.toNat then some (ctx.sb.toNat % 2 ^ widthOf f.ty.toNat) else none)]

end Sys2Proof.Machine

/-- R137: vperm, vslide.up, vslide.down, vbcast, viota and vins write each active, guarded element with what their rule
gives and keep every other element and register; vext gives the element that C names, extended by type. -/
def Sys2Proof.Machine.PermutesMove : Prop :=
  (∀ e ∈ permRules, ∀ (s : State) (c k : Nat) (f : Fields), VecIssues (e.1 f) e.2.1 f s c k →
    let x := s.kite c k
    let ctx := x.capture f
    let ty := f.ty.toNat
    let n := ctx.len * 8 / widthOf ty
    let src := fun r j => if j < n then (x.vget r).elem ty j else 0
    ∃ y : Kite, exec (e.1 f) s = .next (retire (s.modKite c k fun _ => y.vecDone e.2.1 f 0) c k f.yld) ∧
      y = { x with v := y.v, binds := y.binds } ∧ (∀ r, r ≠ opdValue f.a → y.vget r = x.vget r) ∧
      ∀ i, (y.vget (opdValue f.a)).elem ty i =
        match if i < n ∧ ctx.on i = true then e.2.2 x f ctx src i else none with
        | some v => v
        | none => (x.vget (opdValue f.a)).elem ty i) ∧
  ∀ (s : State) (c k : Nat) (f : Fields), VecIssues (.vext f) 0x4C f s c k →
    let x := s.kite c k
    let ctx := x.capture f
    let ty := f.ty.toNat
    let j := ctx.sc.toNat
    let e := if j < ctx.len * 8 / widthOf ty then (x.vget (opdValue f.b)).elem ty j else 0
    exec (.vext f) s = .next (retire (s.modKite c k fun x =>
      (if x.guardBit f j then x.sset (opdValue f.a) (if ty < 4 then sext e (widthOf ty) else BitVec.ofNat 64 e)
        else x).vecDone 0x4C f 0) c k f.yld)

/-- R137: vzip.zip interleaves v[B] and v[C] into v[A] and v[A + 1], vzip.unzip parts them again, and vtrans8 transposes
each 8 × 8 tile, under the guard bit of each destination element. -/
def Sys2Proof.Machine.ZipAndTranspose : Prop :=
  (∀ (s : State) (c k : Nat) (f : Fields), VecIssues (.vzipZip f) 0x49 f s c k →
    let x := s.kite c k
    let ctx := x.capture f
    let ty := f.ty.toNat
    let n := ctx.len * 8 / widthOf ty
    ∃ y : Kite, exec (.vzipZip f) s = .next (retire (s.modKite c k fun _ => y.vecDone 0x49 f 0) c k f.yld) ∧
      (∀ r, r ≠ opdValue f.a → r ≠ opdValue f.a + 1 → y.vget r = x.vget r) ∧
      ∀ d < 2, ∀ i < n, ctx.on i = true → (y.vget (opdValue f.a + d)).elem ty i =
        (x.vget (if (d * n + i) % 2 = 0 then opdValue f.b else opdValue f.c)).elem ty ((d * n + i) / 2)) ∧
  (∀ (s : State) (c k : Nat) (f : Fields), VecIssues (.vzipUnzip f) 0x49 f s c k →
    let x := s.kite c k
    let ctx := x.capture f
    let ty := f.ty.toNat
    let n := ctx.len * 8 / widthOf ty
    ∃ y : Kite, exec (.vzipUnzip f) s = .next (retire (s.modKite c k fun _ => y.vecDone 0x49 f 0) c k f.yld) ∧
      (∀ r, r ≠ opdValue f.a → r ≠ opdValue f.a + 1 → y.vget r = x.vget r) ∧
      ∀ d < 2, ∀ i < n, ctx.on i = true → (y.vget (opdValue f.a + d)).elem ty i =
        if 2 * i + d < n then (x.vget (opdValue f.b)).elem ty (2 * i + d)
        else (x.vget (opdValue f.c)).elem ty (2 * i + d - n)) ∧
  ∀ (s : State) (c k : Nat) (f : Fields), VecIssues (.vtrans8 f) 0x48 f s c k →
    let x := s.kite c k
    let ctx := x.capture f
    let ty := f.ty.toNat
    let n := ctx.len * 8 / widthOf ty
    ∃ y : Kite, exec (.vtrans8 f) s = .next (retire (s.modKite c k fun _ => y.vecDone 0x48 f 0) c k f.yld) ∧
      ∀ j < 8, ∀ i < n, ctx.on i = true → i / 8 * 8 + j < n → (y.vget (opdValue f.a + j)).elem ty i =
        (x.vget (opdValue f.b + i % 8)).elem ty (i / 8 * 8 + j)

/-- R137: the permutes. -/
def Obligations.PermuteResults : Prop := PermutesMove ∧ ZipAndTranspose

/-- R167, R168: on an integer type vcmp writes bit i of p[A], for active i whose guard bit is set and whose operands are
valid, with its comparison, and keeps every other bit; vsel writes every active element with that of v[B] where the
guard bit is set and with the C operand elsewhere. -/
def Sys2Proof.Machine.CompareAndSelect : Prop :=
  (∀ e ∈ [(Instr.vcmpEq, fun b c => b = c), (.vcmpNe, fun b c => b ≠ c), (.vcmpLt, fun b c => b < c),
      (.vcmpLe, fun b c => b ≤ c), (.vcmpGt, fun b c => c < b), (.vcmpGe, fun (b c : Int) => c ≤ b)],
    ∀ (s : State) (c k : Nat) (f : Fields), VecIssues (e.1 f) 0x5F f s c k → f.ty.toNat < 8 →
    let x := s.kite c k
    let ctx := x.capture f
    let ty := f.ty.toNat
    ∃ y : Kite, exec (e.1 f) s = .next (retire (s.modKite c k fun _ => y.vecDone 0x5F f 0) c k f.yld) ∧
      y = { x with p := y.p } ∧ (∀ r, r ≠ opdValue f.a → y.pget r = x.pget r) ∧
      ∀ i < x.pbits, bit (y.pget (opdValue f.a)) i = true ↔
        if i < ctx.count ty ∧ ctx.on i = true then
          ((x.celem ctx ty f.b i).ok = true ∧ (x.celem ctx ty f.c i).ok = true) ∧
            e.2 (operandInt x ctx ty f.b i) (operandInt x ctx ty f.c i)
        else bit (x.pget (opdValue f.a)) i = true) ∧
  ∀ (s : State) (c k : Nat) (f : Fields), VecIssues (.vsel f) 0x60 f s c k →
    let x := s.kite c k
    let ctx := x.capture f
    let ty := f.ty.toNat
    ∃ y : Kite, exec (.vsel f) s = .next (retire (s.modKite c k fun _ => y.vecDone 0x60 f 0) c k f.yld) ∧
      (∀ r, r ≠ opdValue f.a → y.vget r = x.vget r) ∧
      ∀ i, (y.vget (opdValue f.a)).elem ty i =
        if i < ctx.count ty then
          (if ctx.on i then (x.celem ctx ty f.b i).v else (x.celem ctx ty f.c i).v) % 2 ^ widthOf ty
        else (x.vget (opdValue f.a)).elem ty i

/-- R160, R167, R168: comparison, selection, and the validity of the blocks written. Details are by the reading of
log 15. -/
def Obligations.ComparisonAndValidity : Prop := CompareAndSelect ∧ BlockValidity

/-- R166, Table 8-2: vsat clamps each element to k bits by signedness, k being s[C] or the immediate clamped into 1 to w:
that all 64 bits of s[C] are read, as an unsigned number, is the model's choice (log 15); vmadd adds the product of half-width elements to
the element of v[A] modulo 2^w. -/
def Sys2Proof.Machine.SaturateAndMultiplyAdd : Prop :=
  (∀ (s : State) (c k : Nat) (f : Fields), VecIssues (.vsat f) 0x63 f s c k →
    let x := s.kite c k
    let ctx := x.capture f
    let ty := f.ty.toNat
    let w := widthOf ty
    let n := max 1 (min w ctx.sc.toNat)
    ∃ y : Kite, exec (.vsat f) s = .next (retire (s.modKite c k fun _ => y.vecDone 0x63 f 0) c k f.yld) ∧
      ∀ i < ctx.count ty, ctx.on i = true → ((y.vget (opdValue f.a)).elem ty i : Int) =
        (if ty < 4 then max (-(2 ^ (n - 1))) (min (2 ^ (n - 1) - 1) (operandInt x ctx ty f.b i))
          else min (2 ^ n - 1) (operandInt x ctx ty f.b i)) % 2 ^ w) ∧
  ∀ (s : State) (c k : Nat) (f : Fields), VecIssues (.vmadd f) 0x62 f s c k →
    let x := s.kite c k
    let ctx := x.capture f
    let ty := f.ty.toNat
    ∃ y : Kite, exec (.vmadd f) s = .next (retire (s.modKite c k fun _ => y.vecDone 0x62 f 0) c k f.yld) ∧
      ∀ i < ctx.count ty, ctx.on i = true → ((y.vget (opdValue f.a)).elem ty i : Int) =
        (operandInt x ctx ty f.a i + operandInt x ctx (ty - 1) f.b i * operandInt x ctx (ty - 1) f.c i)
          % 2 ^ widthOf ty

/-- R163 to R166, Table 8-2: the results of integer vector arithmetic; the reading of vsat's scalar k is the model's choice
(log 15). -/
def Obligations.VectorArithmeticResults : Prop := VectorIntegerResults ∧ VectorBitResults ∧ SaturateAndMultiplyAdd

/-- The frame of the vector instructions of one vector destination: where the kite goes on, every other vector register
but sources of a last use, every scalar register, predicate, shape and carry, the control registers but SEED, every
other kite and all of memory are as before. -/
def Sys2Proof.Machine.VectorFrame : Prop :=
  ∀ e ∈ arithForms, ∀ (s : State) (c k : Nat) (f : Fields), VecIssues (e.1 f) e.2.1 f s c k → GoesOn s c k →
    let x := s.kite c k
    ∃ t, exec (e.1 f) s = .next t ∧ OnlyKite c k s t ∧ SameMemory s t ∧
      t.kite c k = ({ x with v := (t.kite c k).v, binds := (t.kite c k).binds, seed := (t.kite c k).seed
                             vq := (t.kite c k).vq } : Kite).movedLike (t.kite c k) ∧
      (x.mode f ≠ 5 → (t.kite c k).seed = x.seed) ∧
      ∀ r, r ≠ opdValue f.a → (f.lst = false ∨ r ∉ vecReads e.2.1 f) → (t.kite c k).vget r = x.vget r

/-- R123, R124: an instruction that the sequencer does not take on its clock waits in the vector queue with what it
captured, and nothing else of the kite changes but SEED; it performs later. -/
def Sys2Proof.Machine.HeldVectorInstruction : Prop :=
  ∀ e ∈ arithForms, ∀ (s : State) (c k : Nat) (f : Fields), Issues (e.1 f) s c k →
    (s.kite c k).vq.length < 8 → s.hold = true → holdable e.2.1 f (s.kite c k) = true →
    exec (e.1 f) s = .next (retire (s.modKite c k fun y =>
      { y.advanceSeed f with vq := y.vq ++ [{ op := e.2.1, f := f, ctx := y.capture f, dispatched := false }] }) c k f.yld)

/-- The frame of vector arithmetic, and of an instruction that waits in the vector queue. -/
def Obligations.VectorFrameAndHold : Prop := VectorFrame ∧ HeldVectorInstruction

/-! ## Vector memory and nested vectors -/

namespace Sys2Proof.Machine

/-- What an instruction of the vector queue does where it may access memory, or must check a shape. -/
abbrev MemEffect := Fields → State → Nat → Nat → VCtx → Except KFail (State × Nat)

/-- The vector memory instructions and the memory streams, with their OP and effect. -/
def memoryForms : List ((Fields → Instr) × Nat × MemEffect) :=
  [(.vld, 0x70, vldMem), (.vst, 0x71, vstMem), (.vldx, 0x72, vldxMem), (.vstx, 0x73, vstxMem), (.vldff, 0x74, vldffMem),
   (.vldb, 0x75, vldbMem), (.vstb, 0x76, vstbMem), (.vbind, 0x77, vbindMem)]

/-- The functions of mmv (R218) of the old element of the destination, the element of the source and the multiplier. -/
def streamForms : List ((Fields → Instr) × MmvFn) :=
  [(.mmvCopy, fun _ _ _ x _ => (x, 0)),
   (.mmvAdd, mmvArith (fun ty d x => (d + x) % 2 ^ widthOf ty) fun r ty d x => fAdd r ty false d x),
   (.mmvMul, mmvArith (fun ty d x => (d * x) % 2 ^ widthOf ty) fun r ty d x => fMul r ty d x),
   (.mmvFma, fun f r d x m => fFma r f.ty.toNat false false x m d),
   (.mmvCvt, fun f r _ x _ => convert r f.xf.toNat f.ty.toNat x),
   (.mmvMax, mmvArith (fun ty => iOp ty max) fun r ty d x => fMinMax r ty true d x),
   (.mmvMin, mmvArith (fun ty => iOp ty min) fun r ty d x => fMinMax r ty false d x)]

/-- The nested and the routing instructions, with their OP and effect. -/
def nestedForms : List ((Fields → Instr) × Nat × MemEffect) :=
  [(.nredAdd, 0x80, nredMem .add), (.nredMin, 0x80, nredMem .min), (.nredMax, 0x80, nredMem .max),
   (.nredAnd, 0x80, nredMem .and), (.nredOr, 0x80, nredMem .or), (.nredXor, 0x80, nredMem .xor),
   (.nscanAdd, 0x81, nscanMem .add), (.nscanMin, 0x81, nscanMem .min), (.nscanMax, 0x81, nscanMem .max),
   (.nscanAnd, 0x81, nscanMem .and), (.nscanOr, 0x81, nscanMem .or), (.nscanXor, 0x81, nscanMem .xor),
   (.npack, 0x82, npackMem), (.ndist, 0x83, ndistMem), (.nlen, 0x84, nlenMem), (.nnest, 0x85, nnestMem),
   (.nflat, 0x86, nflatMem), (.nsort, 0x87, nsortMem), (.nshld, 0x88, nshldMem), (.nshst, 0x89, nshstMem),
   (.spsrch, 0x9B, spsrchMem), (.rcsnap, 0x9C, rcsnapMem)]

end Sys2Proof.Machine

/-- R207, R178, R272, R273: a vector memory, stream, nested or routing instruction whose checks pass performs its
effect, takes one entry of the vector queue and retires; one whose checks fail parks the kite with the trap of its
first failure and with its vector registers and stream positions as they were, and one that waits for a fix of its view
(R284) leaves it WAITING so; after an mmv the late traps strike that waited for its end (R364). Details are by the
readings of logs 11, 15, 16 and 17. -/
def Obligations.MemoryVectorsPerform : Prop :=
  ∀ e ∈ memoryForms ++ (streamForms.map fun e => (e.1, 0x79, mmvMem e.2)) ++ nestedForms, ∀ (s : State) (c k : Nat) (f : Fields), VecIssues (e.1 f) e.2.1 f s c k →
    let ends := fun (t : State) => exec (e.1 f) s = .next (if e.2.1 = 0x79 then settleLate t c k else t)
    (∀ s' fl, e.2.2 f s c k ((s.kite c k).capture f) = .ok (s', fl) →
      ends (retire (s'.modKite c k fun x => x.vecDone e.2.1 f fl) c k f.yld)) ∧
    (∀ s' t q, e.2.2 f s c k ((s.kite c k).capture f) = .error (.trap s' t q) →
      ends (trapKite (s'.modKite c k fun y =>
        { y with v := (s.kite c k).v, binds := (s.kite c k).binds }) c k t .here q)) ∧
    ∀ s' w, e.2.2 f s c k ((s.kite c k).capture f) = .error (.wait s' w) →
      ends (waitKite (s'.modKite c k fun y =>
        { y with v := (s.kite c k).v, binds := (s.kite c k).binds }) c k w)

namespace Sys2Proof.Machine

/-- The address of element i of vld and vst (R209): base + i × d modulo 2^64. -/
def vecAddr (x : Kite) (f : Fields) (m : Operand) (i : Nat) : Nat :=
  let w := widthOf f.ty.toNat / 8
  let d : Int := match f.c with | .none => w | o => (x.opd o).toInt
  (((x.memAddr m : Int) + i * d) % 2 ^ 64).toNat

/-- The type of the indices of vldx and vstx (R210), and the address that element i names. -/
def idxType (f : Fields) : Nat := if bit f.xf.toNat 0 then 3 else 2
def idxAddr (x : Kite) (f : Fields) (m : Operand) (i : Nat) : Nat :=
  (((x.memAddr m : Int) + intVal (idxType f) ((x.vget (opdValue f.c)).elem (idxType f) i)) % 2 ^ 64).toNat

/-- Whether the index of element i lies in a valid block. -/
def idxOk (x : Kite) (f : Fields) (i : Nat) : Bool := (x.vget (opdValue f.c)).valid (i / 32)

/-- The bytes of a space: global memory is space 0. -/
def spaceMem (s : State) (c sp : Nat) : List Host.Cell := if sp = 0 then s.mem else spMem s c sp

/-- Where the bytes of an element lie, of w bytes at va (R207): none where a check fails, of its alignment, of the extent
of its space, or of the window and the span table. -/
def foundAt (s : State) (c sp va w : Nat) (store : Bool) : Option Xlat :=
  if va % w ≠ 0 then none
  else if sp ≠ 0 then (if va + w ≤ extent s c sp then some { a := va } else none)
  else if inWindow va = false ∨ inWindow (va + w - 1) = false then none
  else match spanXlat s c (s.crew c).ctx va store with | .ok p => some p | .error _ => none

/-- An element that a load may read: its checks pass, and global bytes have their home on the die of the core. -/
def Reads (s : State) (c sp va w : Nat) (p : Xlat) : Prop :=
  foundAt s c sp va w false = some p ∧ (sp = 0 → isGuest s.module (dieOf c) p.cl p.a = false)

/-- The kite reads committed memory past nothing: its view is untinted, no store of its core or at the guest lines of its
die is under way, and the L1 holds what memory does. -/
def Quiet (s : State) (c : Nat) (x : Kite) : Prop :=
  x.tintv = 0 ∧ (s.core c).wp = [] ∧ dieStores s (dieOf c) = [] ∧
    ∀ e ∈ (s.core c).l1, e.2.ctx = (s.crew c).ctx → e.2.view = 0 →
      ∀ j < 128, e.2.data / 2 ^ (8 * j) % 256 = (memGet s.mem (128 * e.2.line + j)).toNat

/-- The n bytes at an address of a space as a vector load of the kite takes them: those that its strip has taken ahead,
and the space's own (R213, R300). -/
def State.seen (s : State) (c : Nat) (x : Kite) (sp a n : Nat) : Nat :=
  ofBytes ((List.range n).map fun j => (x.aheadOf sp (a + j)).getD (memGet (spaceMem s c sp) (a + j)))

/-- Validity bit b of a register after some elements of capacity `cap` were written, with their source validities
(R160). -/
def ValidAfter (old : Bool) (cap : Nat) (taken ok : Nat → Prop) (b : Nat) : Prop :=
  let block := fun i => 32 * b ≤ i ∧ i < 32 * b + 32 ∧ i < cap
  ((∀ i, block i → ¬ taken i) ∧ old = true) ∨
    ((∃ i, block i ∧ taken i) ∧ (∀ i, block i → taken i → ok i) ∧
      ((∃ i, block i ∧ ¬ taken i) → old = true))

/-- What a vector load leaves: each taken element, from where it lies, with its block's validity by R160, and all else as
it was. -/
def Loads (i : Instr) (f : Fields) (sp : Nat) (addr : Kite → Nat → Nat) (ok : Kite → Nat → Bool) (s : State) (c k : Nat) :
    Prop :=
  let x := s.kite c k
  let ctx := x.capture f
  let ty := f.ty.toNat
  let w := widthOf ty / 8
  let a := opdValue f.a
  let taken := fun i => i < ctx.count ty ∧ ctx.on i = true
  f.lst = false → (sp = 0 → Quiet s c x) →
  ∀ at_ : Nat → Xlat, (∀ i, taken i → Reads s c sp (addr x i) w (at_ i)) →
  ∃ t, exec i s = .next (retire t c k f.yld) ∧ SameMemory s t ∧ (sp ≠ 0 → OnlyKite c k s t) ∧
    (∀ i, taken i → ((t.kite c k).vget a).elem ty i = s.seen c x sp (at_ i).a w) ∧
    (∀ i, ¬ taken i → ((t.kite c k).vget a).elem ty i = (x.vget a).elem ty i) ∧
    (∀ b, ((t.kite c k).vget a).valid b = true ↔
      ValidAfter ((x.vget a).valid b) (capOf x.mvlb ty) taken (fun i => ok x i = true) b) ∧
    ((t.kite c k).vget a).tag = ty ∧ ((t.kite c k).vget a).link = none ∧
    ∀ r, r ≠ a → (t.kite c k).vget r = x.vget r

/-- What a vector store leaves: its bytes joined to the strip's pending stores, at the places of the elements that it
writes and nowhere else, each whole and with its value from the highest such element there. -/
def Stores (i : Instr) (f : Fields) (sp : Nat) (addr : Kite → Nat → Nat) (ok : Kite → Nat → Bool) (s : State) (c k : Nat) :
    Prop :=
  let x := s.kite c k
  let ctx := x.capture f
  let ty := f.ty.toNat
  let w := widthOf ty / 8
  let taken := fun i => i < ctx.count ty ∧ ctx.on i = true
  f.lst = false → (sp = 0 → x.tintv = 0) →
  ∀ at_ : Nat → Xlat, (∀ i, taken i → foundAt s c sp (addr x i) w true = some (at_ i)) →
  let writes := fun i a => taken i ∧ ok x i = true ∧ (x.vget (opdValue f.b)).valid (i / 32) = true ∧
    (at_ i).a ≤ a ∧ a < (at_ i).a + w
  ∃ t ps, exec i s = .next (retire t c k f.yld) ∧ OnlyKite c k s t ∧
    (t.kite c k).pend = x.pend ++ ps ∧ (∀ a, (∃ p ∈ ps, ∃ b ∈ p.bytes, b.addr = a) ↔ ∃ i, writes i a) ∧
    (∀ p ∈ ps, p.space = sp ∧ p.view = x.tintv ∧ p.rel = x.relNext ∧ ∀ b ∈ p.bytes, b.mask = 255 ∧
      ∀ i, writes i b.addr → (∀ j, i < j → ¬ writes j b.addr) →
        b.value = (x.vget (opdValue f.b)).elem ty i / 2 ^ (8 * (b.addr - (at_ i).a)) % 256) ∧
    (t.kite c k).v = x.v ∧ (t.kite c k).s = x.s ∧ (t.kite c k).p = x.p

end Sys2Proof.Machine

/-- R207 to R210, R213, R300: vld, vst, vldx and vstx of any space, every taken element of which passes its checks,
complete: the loads bring each taken element, an invalid index making its element invalid; the stores put the bytes
of the taken elements of valid blocks, and of valid indices, among the strip's pending ones. Details are by the reading
of log 11. -/
def Obligations.VectorAccesses : Prop :=
  ∀ (s : State) (c k : Nat) (f : Fields),
    let indices := ((s.kite c k).capture f).count f.ty.toNat ≤ capOf (s.kite c k).mvlb (idxType f)
    (VecIssues (.vld f) 0x70 f s c k →
      Loads (.vld f) f f.fn.toNat (fun x => vecAddr x f f.b) (fun _ _ => true) s c k) ∧
    (VecIssues (.vst f) 0x71 f s c k →
      Stores (.vst f) f f.fn.toNat (fun x => vecAddr x f f.a) (fun _ _ => true) s c k) ∧
    (VecIssues (.vldx f) 0x72 f s c k → indices →
      Loads (.vldx f) f (f.xf.toNat / 2) (fun x => idxAddr x f f.b) (fun x => idxOk x f) s c k) ∧
    (VecIssues (.vstx f) 0x73 f s c k → indices →
      Stores (.vstx f) f (f.xf.toNat / 2) (fun x => idxAddr x f f.a) (fun x => idxOk x f) s c k)

/-- R214, R216: vbind with a binding of the register, or with fewer than four, records the stream at position 0 and
makes no access; with four others it raises ILLEGAL_OP. vunbind of a bound register removes the binding and leaves
the register zero and valid with its tag; of another it changes nothing. Details are by the reading of log 16. -/
def Obligations.StreamBindings : Prop :=
  (∀ (s : State) (c k : Nat) (f : Fields), VecIssues (.vbind f) 0x77 f s c k →
    let x := s.kite c k
    let a := opdValue f.a
    ((x.binds.find a).isSome = true ∨ x.binds.length < 4 →
      exec (.vbind f) s = .next (retire (s.modKite c k fun y =>
        ({ y with
            v := y.v.set a { y.vget a with tag := f.ty.toNat, link := none }
            binds := y.binds.set a {
              addr := x.memAddr f.b, ty := f.ty.toNat, xf := f.xf.toNat, pos := 0
              aux := match f.c with | .none => BitVec.ofNat 64 (widthOf f.xf.toNat / 8) | o => x.opd o } } : Kite).vecDone
          0x77 f 0) c k f.yld)) ∧
    ((x.binds.find a).isSome = false → 4 ≤ x.binds.length →
      ∃ t, exec (.vbind f) s = .next (trapKite t c k (trapAt 0x01 x.addr 0) .here none))) ∧
  ∀ (s : State) (c k : Nat) (f : Fields), VecIssues (.vunbind f) 0x78 f s c k →
    let x := s.kite c k
    let a := opdValue f.a
    (x.binds.find a = none →
      exec (.vunbind f) s = .next (retire (s.modKite c k fun y => y.vecDone 0x78 f 0) c k f.yld)) ∧
    ((x.binds.find a).isSome = true →
      exec (.vunbind f) s = .next (retire (s.modKite c k fun y =>
        ({ y with v := y.v.set a { tag := (x.vget a).tag }, binds := y.binds.del a } : Kite).vecDone 0x78 f 0) c k f.yld))

namespace Sys2Proof.Machine

/-- The kite with what nkwr writes: the value of a carry, or its open and bad bits and its count (R199). -/
def Kite.carryPut (x : Kite) (i j : Nat) (w : Word) : Kite :=
  let e := x.k.get i
  let e := if j = 0 then { e with value := w.toNat }
    else { e with opn := w.getLsbD 63, bad := w.getLsbD 62, count := w.toNat % 2 ^ 32 }
  { x with k := x.k.set i e }

end Sys2Proof.Machine

/-- R191, R199: nlen of a level of a shape that fits gives the lengths of its segments, under their guard bits; nkrd
gives the value or the status of a carry, and nkwr writes them. Details are by the reading of log 17. -/
def Obligations.LengthsAndCarries : Prop :=
  (∀ (s : State) (c k : Nat) (f : Fields), VecIssues (.nlen f) 0x84 f s c k → f.c = .none →
    let x := s.kite c k
    let h := x.h.get (opdValue f.b)
    let dp := f.dp.toNat
    let ty := f.ty.toNat
    dp ≤ h.depth → (∀ o ∈ h.lv.take dp, o.length - 1 ≤ x.levelCap) → h.count dp ≤ capOf x.mvlb ty →
    ∃ t, exec (.nlen f) s = .next (retire t c k f.yld) ∧ OnlyKite c k s t ∧
      ∀ j < h.count dp, (x.capture f).on j = true →
        ((t.kite c k).vget (opdValue f.a)).elem ty j =
          ((h.level dp).getD (j + 1) 0 - (h.level dp).getD j 0) % 2 ^ widthOf ty) ∧
  (∀ (s : State) (c k : Nat) (f : Fields), VecIssues (.nkrd f) 0x8A f s c k →
    exec (.nkrd f) s = .next (retire (s.modKite c k fun x =>
      (x.sset (opdValue f.a) (BitVec.ofNat 64
        (if opdValue f.c = 0 then (x.k.get (opdValue f.b)).value
         else (x.k.get (opdValue f.b)).count + 2 ^ 62 * (x.k.get (opdValue f.b)).bad.toNat +
           2 ^ 63 * (x.k.get (opdValue f.b)).opn.toNat))).vecDone 0x8A f 0) c k f.yld)) ∧
  ∀ (s : State) (c k : Nat) (f : Fields), VecIssues (.nkwr f) 0x8B f s c k →
    exec (.nkwr f) s = .next (retire (s.modKite c k fun x =>
      (x.carryPut (opdValue f.a) (opdValue f.c) (x.opd f.b)).vecDone 0x8B f 0) c k f.yld)

/-! ## The matrix array -/

/-- R225, R226: tshape.core refuses with reason 3 a request with reserved bits, with reason 1 a tile of another kite and
with reason 5 a core without column groups; it releases a tile for M or N zero, and grants at most 128 rows and 12
columns for each column group, 24 for a pair, otherwise; the answer goes to s[A]. -/
def Sys2Proof.Machine.TileGrants : Prop :=
  ∀ (s : State) (c k : Nat) (f : Fields), Issues (.tshapeCore f) s c k →
    let x := s.kite c k
    let w := s.crew c
    let b := opdValue f.b
    let pair := bit f.xf.toNat 0
    let parts := w.tshapeParts k b pair
    let q := (x.opd f.c).toNat
    let m := q % 2 ^ 16
    let n := q / 2 ^ 16 % 2 ^ 16
    let mine := ∀ t ∈ parts, (w.tiles.get t).owner = none ∨ (w.tiles.get t).owner = some k
    w.tileBusy k parts = false →
    (2 ^ 32 ≤ q → exec (.tshapeCore f) s = .next (retire (s.modKite c k fun y =>
      y.sset (opdValue f.a) (BitVec.ofNat 64 (2 ^ 63 + 3 * 2 ^ 48))) c k f.yld)) ∧
    (q < 2 ^ 32 → ¬ mine → exec (.tshapeCore f) s = .next (retire (s.modKite c k fun y =>
      y.sset (opdValue f.a) (BitVec.ofNat 64 (2 ^ 63 + 1 * 2 ^ 48))) c k f.yld)) ∧
    (q < 2 ^ 32 → mine → m ≠ 0 → n ≠ 0 → w.groups = 0 →
      exec (.tshapeCore f) s = .next (retire (s.modKite c k fun y =>
        y.sset (opdValue f.a) (BitVec.ofNat 64 (2 ^ 63 + 5 * 2 ^ 48))) c k f.yld)) ∧
    (q < 2 ^ 32 → mine → m = 0 ∨ n = 0 →
      exec (.tshapeCore f) s = .next (retire ((s.modCrew c fun w => w.releaseTiles parts).modKite c k fun y =>
        y.sset (opdValue f.a) 0) c k f.yld)) ∧
    (q < 2 ^ 32 → mine → m ≠ 0 → n ≠ 0 → w.groups ≠ 0 →
      let gm := min m 128
      let gn := min n ((if pair then 24 else 12) * w.groups)
      exec (.tshapeCore f) s = .next (retire ((s.modCrew c fun w =>
          w.grant parts b { owner := some k, m := gm, n := gn, at_ := f.ty.toNat, pair := pair }).modKite c k fun y =>
        y.sset (opdValue f.a) (BitVec.ofNat 64 (gm + gn * 2 ^ 16))) c k f.yld))

/-- R227: tshape.flight takes the answer that waits for the kite; a request that names no position of a grid of the
flight is refused with reason 3, one whose position has arrived with reason 2, and a participant that has arrived
waits; in a grid of one position the grant is made at once, and the answer names the grid and the position. -/
def Sys2Proof.Machine.CollectiveGrant : Prop :=
  ∀ (s : State) (c k : Nat) (f : Fields), Issues (.tshapeFlight f) s c k →
    let x := s.kite c k
    let w := s.crew c
    let b := opdValue f.b
    let parts := w.tshapeParts k b (bit f.xf.toNat 0)
    let q := (x.opd f.c).toNat
    let arrived := (s.flight w.flight).tsArr.get b
    (∀ v, tsAnswer s c k b = some v →
      ∃ t, exec (.tshapeFlight f) s = .next (retire t c k f.yld) ∧ tsAnswer t c k b = none ∧
        (opdValue f.a ≠ 0 → (t.kite c k).sget (opdValue f.a) = v)) ∧
    (tsAnswer s c k b = none → (∃ p ∈ arrived, p.core = c ∧ p.kite = k) →
      exec (.tshapeFlight f) s = .next (waitKite s c k (.tshape b))) ∧
    (tsAnswer s c k b = none → (∀ p ∈ arrived, ¬ (p.core = c ∧ p.kite = k)) → w.tileBusy k parts = false →
      (badGrid q (s.flight w.flight).cores.length = true →
        exec (.tshapeFlight f) s = .next (retire (s.modKite c k fun y =>
          y.sset (opdValue f.a) (BitVec.ofNat 64 (2 ^ 63 + 3 * 2 ^ 48))) c k f.yld)) ∧
      (badGrid q (s.flight w.flight).cores.length = false → (∃ p ∈ arrived, p.pr = reqPR q ∧ p.pc = reqPC q) →
        exec (.tshapeFlight f) s = .next (retire (s.modKite c k fun y =>
          y.sset (opdValue f.a) (BitVec.ofNat 64 (2 ^ 63 + 2 * 2 ^ 48))) c k f.yld))) ∧
    (tsAnswer s c k b = none → arrived = [] → w.tileBusy k parts = false →
      reqGR q = 1 → reqGC q = 1 → reqPR q = 0 → reqPC q = 0 → q < 2 ^ 48 → (s.flight w.flight).cores ≠ [] →
      ∀ m n, w.decide k parts (bit f.xf.toNat 0) q = .ok (m, n) → m ≠ 0 → opdValue f.a ≠ 0 →
      ∃ t, exec (.tshapeFlight f) s = .next (retire t c k f.yld) ∧
        (t.kite c k).sget (opdValue f.a) = BitVec.ofNat 64 (m + n * 2 ^ 16 + 2 ^ 32 + 2 ^ 36) ∧
        ((t.crew c).tiles.get b).owner = some k ∧ ((t.crew c).tiles.get b).m = m ∧ ((t.crew c).tiles.get b).n = n)

/-- R225 to R227: the requests for tiles. Details are by the reading of log 21. -/
def Obligations.TileRequests : Prop := TileGrants ∧ CollectiveGrant

namespace Sys2Proof.Machine

/-- The rule of R230 for the field of a record that begins at bit j: reserved bits are zero, TY is one of its table, SPACE
is at most 3, REM goes with SPACE 1 only, NSP and SCALE are zero for a type other than 8, and addresses and strides are
multiples of the element's size, of 16 for type 8, whose SCALE is a multiple of the size of its scales. -/
def RecordRule (r j : Nat) : Prop :=
  let ty := r / 2 ^ 44 % 16
  let known := ty = 0 ∨ (8 ≤ ty ∧ ty ≤ 12)
  let w := if ty = 8 then 16 else if ty = 11 ∨ ty = 12 then 2 else 1
  let scale := r / 2 ^ 64 % 2 ^ 48
  if j = 38 then r.testBit 38 = true → r / 2 ^ 40 % 16 = 1
  else if j = 39 then r.testBit 39 = true → ty = 8
  else if j = 40 then r / 2 ^ 40 % 16 ≤ 3
  else if j = 44 then known
  else if j = 64 then if ty = 8 then scale % (if r.testBit 39 then 1 else 2) = 0 else scale = 0
  else if j = 144 then known → ty ≠ 8 → r / 2 ^ 144 % 2 ^ 16 % w = 0
  else if j = 160 then known → r / 2 ^ 160 % 2 ^ 32 % w = 0
  else if j = 192 then known → r / 2 ^ 192 % 2 ^ 64 % w = 0
  else if j < 38 ∨ (48 ≤ j ∧ j < 52) ∨ (56 ≤ j ∧ j < 64) then r.testBit j = false
  else True

/-- R230: mrec of an orphan raises ORPHAN, of an address that is no multiple of 32 MISALIGNED; the record that it loads,
its BASE replaced by a third operand, is kept if every field is good, and raises RECORD_BAD with the bit number of its
lowest bad field otherwise; of reserved bits each is a field here, which is the model's choice (log 20). -/
def RecordLoads : Prop :=
  ∀ (s : State) (c k : Nat) (f : Fields), Issues (.mrec f) s c k →
    let x := s.kite c k
    let a := x.memAddr f.b
    (kiteOrphan s c x = true →
      exec (.mrec f) s = .next (trapKite s c k (trapAt 0x08 a x.tintv) .here none)) ∧
    (kiteOrphan s c x = false → a % 32 ≠ 0 →
      exec (.mrec f) s = .next (trapKite s c k (trapAt 0x03 a 0) .here none)) ∧
    ∀ r s', recLoad s c k a f.rd.toNat = .ok (r, s') → r < 2 ^ 256 →
      let r' := match f.c with
        | .s i => r % 2 ^ 192 + (x.sget i.toNat).toNat * 2 ^ 192
        | _ => r
      ((∀ j < 256, RecordRule r' j) →
        exec (.mrec f) s = .next (retire (s'.modCrew c fun w =>
          { w with recs := w.recs.set (opdValue f.a) r' }) c k f.yld)) ∧
      ∀ j < 256, ¬ RecordRule r' j → (∀ i < j, RecordRule r' i) →
        exec (.mrec f) s = .next (trapKite s' c k (trapAt 0x11 a j) .here none)

/-- R232, R287: the checks of mma in their order, each with its trap: an orphan with a global operand, the tile's owner,
its accumulator type, the types and the depths of the two records, MCAST on a tile of no grid; with every check passed it
joins the queue of its tile, or is not ready while that is full. -/
def MultiplyIssues : Prop :=
  ∀ (s : State) (c k : Nat) (f : Fields), Issues (.mma f) s c k →
    let x := s.kite c k
    let w := s.crew c
    let t := opdValue f.a
    let e := w.tiles.get t
    let l := w.recs.get (opdValue f.b)
    let r := w.recs.get (opdValue f.c)
    let ty := f.ty.toNat
    let mcast := (f.xf.toNat / 4 % 2 = 1)
    let raises := fun (p : Trap) => exec (.mma f) s = .next (trapKite s c k p .here none)
    let live := kiteOrphan s c x = false ∨ (recSpace l ≠ 0 ∧ recSpace r ≠ 0)
    let mine := e.owner = some k ∧ w.isMate t = false
    let typed := e.at_ = if ty = 0 then 2 else 13
    let agree := recTy l = ty ∧ recTy r = ty ∧ recKExt r = recKExt l
    (kiteOrphan s c x = true → recSpace l = 0 → raises (trapAt 0x08 (recBase l) x.tintv)) ∧
    (kiteOrphan s c x = true → recSpace l ≠ 0 → recSpace r = 0 → raises (trapAt 0x08 (recBase r) x.tintv)) ∧
    (live → ¬ mine → raises (trapAt 0x12 0 t)) ∧
    (live → mine → ¬ typed → raises (trapAt 0x12 0 t)) ∧
    (live → mine → typed → recTy l ≠ ty → raises (trapAt 0x11 0 (opdValue f.b))) ∧
    (live → mine → typed → recTy l = ty → ¬ agree → raises (trapAt 0x11 0 (opdValue f.c))) ∧
    (live → mine → typed → agree → mcast → e.gr = 0 → raises (trapAt 0x12 0 t)) ∧
    (live → mine → typed → agree → (mcast → e.gr ≠ 0) →
      ((w.tq.get t).length < 4 → w.engineOn [t] = false →
        exec (.mma f) s = .next (retire (s.modCrew c fun w => { w with tq := w.tq.mod t fun q =>
          q ++ [{ f := f, owner := k, l := l, r := r, view := x.tintv, since := s.cycle c }] }) c k f.yld)) ∧
      (4 ≤ (w.tq.get t).length → exec (.mma f) s = .next s))

/-- R240: mwait goes on once no matrix instruction of the kite waits on the tile, or on any; one that names a tile of
another kite raises TILE_REFUSED. -/
def MatrixWaits : Prop :=
  ∀ (s : State) (c k : Nat) (f : Fields), Issues (.mwait f) s c k →
    (f.a = .none →
      ((s.crew c).queuedFor k none = false → exec (.mwait f) s = .next (retire s c k f.yld)) ∧
      ((s.crew c).queuedFor k none = true → exec (.mwait f) s = .next (waitKite s c k (.mwait none)))) ∧
    ∀ i, f.a = .a i →
      let b := (s.crew c).tileBase i.toNat
      (((s.crew c).tiles.get i.toNat).owner ≠ some k →
        exec (.mwait f) s = .next (trapKite s c k (trapAt 0x12 0 i.toNat) .here none)) ∧
      (((s.crew c).tiles.get i.toNat).owner = some k →
        ((s.crew c).queuedFor k (some b) = false → exec (.mwait f) s = .next (retire s c k f.yld)) ∧
        ((s.crew c).queuedFor k (some b) = true →
          exec (.mwait f) s = .next (waitKite s c k (.mwait (some b)))))

end Sys2Proof.Machine

/-- R230 to R232, R240, R287: mrec, mma at its issue, and mwait. Details are by the reading of log 20. -/
def Obligations.MatrixIssue : Prop := RecordLoads ∧ MultiplyIssues ∧ MatrixWaits

namespace Sys2Proof.Machine

/-- R238, R239: with nothing in the way a move performs as it issues: macczero makes every element of its tile zero and
valid; maccrd of an S32 tile to S32 gives the elements from the position that its C operand names, zero beyond the
tile; maccwr puts elements of v[B] there. -/
def AccumulatorMoves : Prop :=
  ∀ (s : State) (c k t : Nat) (f : Fields),
    let x := s.kite c k
    let w := s.crew c
    let e := w.tiles.get t
    e.owner = some k → w.isMate t = false → w.tq.get t = [] → w.engineOn [t] = false → x.undispatched = false →
    x.binds = [] →
    (Issues (.macczero f) s c k → opdValue f.a = t → e.pair = false →
      ∃ u, exec (.macczero f) s = .next (retire u c k f.yld) ∧ OnlyCrew c s u ∧
        ∀ p < e.m * e.n, (u.crew c).cell t p = (0, true)) ∧
    (Issues (.maccrd f) s c k → opdValue f.b = t → e.at_ = 2 → f.ty.toNat = 2 →
      ∃ u, exec (.maccrd f) s = .next (retire u c k f.yld) ∧ OnlyCrew c s u ∧
        ∀ i < (x.capture f).count 2, ((u.kite c k).vget (opdValue f.a)).elem 2 i =
          let p := (x.opd f.c).toNat + i
          if p < e.m * e.n then (w.cell t p).1 % 2 ^ 32 else 0) ∧
    (Issues (.maccwr f) s c k → opdValue f.a = t → e.at_ = 2 → f.ty.toNat = 2 → e.pair = false →
      ∃ u, exec (.maccwr f) s = .next (retire u c k f.yld) ∧ OnlyCrew c s u ∧
        ∀ i < (x.capture f).count 2, (x.opd f.c).toNat + i < e.m * e.n →
          ((u.crew c).cell t ((x.opd f.c).toNat + i)).1 = (x.vget (opdValue f.b)).elem 2 i)

/-- R233, R155: a K block adds the exact sum of products of its rows to an S32 accumulator, modulo 2^32, or subtracts it
with NEG. -/
def IntegerBlockSum : Prop :=
  ∀ (as bs : List Int) (a b : BlockRow) (neg : Bool) (x : Nat),
    as.length = bs.length → 1 ≤ as.length → as.length ≤ 32 →
    a.els = as.map (fun v => FNum.num (Dy.ofInt v)) → b.els = bs.map (fun v => FNum.num (Dy.ofInt v)) →
    let sum := ((as.zip bs).map fun e => e.1 * e.2).sum
    (blockCell 0 neg a b x).1 = (((x : Int) + (if neg then -sum else sum)) % 2 ^ 32).toNat

end Sys2Proof.Machine

/-- R233, R238, R239, R155: the moves of accumulators, and the sum that a K block adds. Details are by the readings
of logs 19 and 20. -/
def Obligations.AccumulatorResults : Prop := AccumulatorMoves ∧ IntegerBlockSum

namespace Sys2Proof.Machine

/-- K_BLOCK acts on tile t of core c, with the mma m at the head of its queue: it is not stopped, no engine command acts
on the tile, the reads of its kite's earlier strips are over, no fix holds its view, and its shared lines are there. -/
structure BlockRuns (s : State) (c t : Nat) (m : MatOp) (ms : List MatOp) : Prop where
  unit   : s.ev.unit = c
  sub    : s.ev.sub = t
  head   : (s.crew c).tq.get t = m :: ms
  mma    : m.op = 0x92
  goes   : m.stopped = false
  engine : (s.crew c).engineOn [t] = false
  strip  : (s.crew c).mmaLeft m.owner (m.age + 1) = false
  fixed  : m.global = true → viewFixing s (s.crew c).ctx m.view = false
  lines  : linesReady s c t m = true
  left   : m.kb < m.blocks

/-- The state in which the block is computed: NOACC has cleared the tile before the first block. -/
def blockStart (s : State) (c t : Nat) (m : MatOp) : State :=
  (if bit m.f.xf.toNat 1 && !m.cleared then s.modCrew c fun w => w.clearTile t else s).modCrew c fun w =>
    w.modHead t fun _ => { m with cleared := true }

/-- The rows of tile t that the block reads: its place in the grid of a collective tile. -/
def leftRows (s : State) (c t : Nat) (m : MatOp) : List (Nat × Nat) :=
  let e := (s.crew c).tiles.get t
  blockReads m.l (e.pr * e.m) e.m m.kb
def rightRows (s : State) (c t : Nat) (m : MatOp) : List (Nat × Nat) :=
  let e := (s.crew c).tiles.get t
  blockReads m.r (e.pc * e.n) e.n m.kb

/-- R233, R234: a block whose every read is good makes each element (i, j) of the tile, with operands in any space, the
old element combined with its rows i and j (`blockCell`), and clears the validity of the groups that an invalid row
feeds; the mma then stands at its next block, or has ended and given its owner the flags of all its blocks. Memory
and the other kites stay as they were. -/
def BlockApplies : Prop :=
  ∀ (s : State) (c t : Nat) (m : MatOp) (ms : List MatOp), BlockRuns s c t m ms →
    (s.ctx (s.crew c).ctx).orphaned m.view = false → (∀ y ∈ ms.head?, y.op = 0x92) →
    let s1 := blockStart s c t m
    let e := (s.crew c).tiles.get t
    let l := readsCheck s1 c m.l (leftRows s c t m)
    let r := readsCheck l.1 c m.r (rightRows s c t m)
    let s3 := deliver r.1 c t { m with cleared := true }
    let a := fun i => operandRow s3 c m.view m.l (e.pr * e.m + i) m.kb
    let b := fun j => operandRow s3 c m.view m.r (e.pc * e.n + j) m.kb
    let old := fun p => (s1.crew c).cell t p
    let new := fun i j => blockCell m.f.ty.toNat (bit m.f.xf.toNat 0) (a i) (b j) (old (i * e.n + j)).1
    l.2 = none → r.2 = none →
    ∃ u g, exec .kBlock s = .next u ∧ SameMemory s u ∧
      (∀ i < e.m, ∀ j < e.n,
        ((u.crew c).cell t (i * e.n + j)).1 = (new i j).1 ∧
        (((u.crew c).cell t (i * e.n + j)).2 = true ↔
          (old (i * e.n + j)).2 = true ∧ (a i).ok = true ∧ ∀ q < e.n, q / 32 = j / 32 → (b q).ok = true)) ∧
      (∀ n, g.testBit n = true ↔
        (∃ i < e.m, ∃ j < e.n, (new i j).2.testBit n = true) ∨ (∃ i < e.m, (a i).fl.testBit n = true) ∨
          ∃ j < e.n, (b j).fl.testBit n = true) ∧
      (∀ k, k ≠ m.owner → u.kite c k = s.kite c k) ∧
      (m.kb + 1 < m.blocks →
        (∃ m', (u.crew c).tq.get t = m' :: ms ∧ m'.kb = m.kb + 1 ∧ m'.stopped = false ∧ m'.flags = m.flags ||| g) ∧
        u.kite c m.owner = s.kite c m.owner) ∧
      (m.kb + 1 = m.blocks →
        (u.crew c).tq.get t = ms ∧
        u.kite c m.owner =
          { s.kite c m.owner with fpflags := (s.kite c m.owner).fpflags ||| (m.flags ||| g) })

/-- The cause of a failed read of an operand (R235, R237). -/
def readCause (e : XErr) : Nat :=
  match e with
  | .absent _ => 0x05
  | .window => 0x06
  | _ => 0x04

/-- R237, R287: a block with a read that fails applies nothing: the mma stays at it, stopped, and its owner, in the midst of
no instruction (`LateTraps` has the other case), parks at its first instruction not yet issued with the cause of the lowest
address that fails, FAULTVA there and FAULTELT at the first index of the block. An mma whose view is bleached stops in the
same way with ORPHAN. -/
def BlockStops : Prop :=
  ∀ (s : State) (c t : Nat) (m : MatOp) (ms : List MatOp), BlockRuns s c t m ms →
    let o := s.kite c m.owner
    let s1 := blockStart s c t m
    let l := readsCheck s1 c m.l (leftRows s c t m)
    let r := readsCheck l.1 c m.r (rightRows s c t m)
    let stops := fun (u : State) =>
      (∃ m', (u.crew c).tq.get t = m' :: ms ∧ m'.stopped = true ∧ m'.kb = m.kb) ∧
      (∀ p, (u.crew c).cell t p = (s1.crew c).cell t p) ∧ SameMemory s u ∧
      (u.kite c m.owner).st = .parked ∧ (u.kite c m.owner).fpflags = o.fpflags ||| m.flags ∧
      (u.kite c m.owner).cur = o.cur ∧ (u.kite c m.owner).idx = o.idx
    (o.st = .flying ∨ o.st = .waiting) → o.region = none → o.wait ≠ .rewind → o.midway = false →
    ((s.ctx (s.crew c).ctx).orphaned m.view = false → ∀ a err, lowerFail l.2 r.2 = some (a, err) →
      ∃ u, exec .kBlock s = .next u ∧ stops u ∧ (u.kite c m.owner).cause = readCause err ∧
        (u.kite c m.owner).faultva = BitVec.ofNat 64 a ∧
        (u.kite c m.owner).faultelt = BitVec.ofNat 64 (32 * m.kb)) ∧
    ((s.ctx (s.crew c).ctx).orphaned m.view = true →
      ∃ u, exec .kBlock s = .next u ∧ stops u ∧ (u.kite c m.owner).cause = 0x08 ∧
        (u.kite c m.owner).faultelt = BitVec.ofNat 64 m.view)

/-- R236: MCAST_TIMEOUT lets an mma that has waited 4,096 ticks for shared lines fetch them for itself. -/
def SharedLinesTimeout : Prop :=
  ∀ (s : State) (m : MatOp) (ms : List MatOp),
    let c := s.ev.unit
    let t := s.ev.sub
    (s.crew c).tq.get t = m :: ms → m.mcast = true → linesReady s c t m = false → m.since + 4096 ≤ s.cycle c →
    exec .mcastTimeout s = .next (s.modCrew c fun w =>
      { w with tq := w.tq.mod t fun _ => { m with alone := true } :: ms })

end Sys2Proof.Machine

/-- R233, R234, R236, R237, R287: the next block of the mma at the head of a tile's queue, its failing read, and the
wait for shared lines. Details are by the readings of logs 19 and 20. -/
def Obligations.MatrixEvents : Prop := BlockApplies ∧ BlockStops ∧ SharedLinesTimeout

/-! ## Encoding and the step -/

/-- R24 to R35: words written out from Table 2-1 and the operation tables decode to what they stand for: add s3, s1, s2;
li s7, −2; ldsp.shared s4, [s5 − 8]; qpush q6, s2 under p1; vadd v3, v1, v2 of F32 with RM 1 under ¬p2; and a nonzero
class bit, FN or unused field makes a word illegal. Table 2-6: words of kite.fly x5, x6, x7, of q.push 3, x9 and of
ascent.done decode, and a nonzero fixed field makes one illegal. -/
def Obligations.DecodedWords : Prop :=
  let f : Fields := { fn := 0, ty := 0, gp := 0, gn := false, dt := false, dp := 0, rm := 0, yld := false, rd := 0
                      chn := false, lst := false, a := .none, b := .none, c := .none, xf := 0 }
  decodeKite (0x01#8 ++ 0#24 ++ 0x11800#20 ++ 0x10800#20 ++ 0x11000#20 ++ 0#4) =
    some (.add { f with a := .s 3, b := .s 1, c := .s 2 }) ∧
  decodeKite (0x0E#8 ++ 0#24 ++ 0x13800#20 ++ 0xFFFFFFFFFE#40 ++ 0#4) = some (.li { f with a := .s 7 } (-2)) ∧
  decodeKite (0x22#8 ++ 2#4 ++ 3#4 ++ 0#16 ++ 0x12000#20 ++ 0xE2FF8#20 ++ 0#20 ++ 0#4) =
    some (.ldsp { f with fn := 2, ty := 3, a := .s 4, b := .mem 5 0x7F8 }) ∧
  decodeKite (0x30#8 ++ 0#4 ++ 0#4 ++ 1#4 ++ 0#12 ++ 0x63000#20 ++ 0x11000#20 ++ 0#20 ++ 0#4) =
    some (.qpush { f with gp := 1, a := .q 6, b := .s 2 }) ∧
  decodeKite (0x50#8 ++ 0#4 ++ 13#4 ++ 2#4 ++ 1#1 ++ 0#1 ++ 0#2 ++ 1#3 ++ 0#5 ++ 0x21800#20 ++ 0x20800#20 ++ 0x21000#20 ++
      0#4) =
    some (.vadd { f with ty := 13, gp := 2, gn := true, rm := 1, a := .v 3, b := .v 1, c := .v 2 }) ∧
  decodeKite (0x01#8 ++ 1#4 ++ 0#20 ++ 0x11800#20 ++ 0x10800#20 ++ 0x11000#20 ++ 0#4) = none ∧
  decodeKite (0x01#8 ++ 0#24 ++ 0x11801#20 ++ 0x10800#20 ++ 0x11000#20 ++ 0#4) = none ∧
  decodeKite (0x01#8 ++ 0#24 ++ 0x11800#20 ++ 0x10800#20 ++ 0x11000#20 ++ 1#4) = none ∧ decodeKite 0 = none ∧
  decodeReel (0#7 ++ 7#5 ++ 6#5 ++ 1#3 ++ 5#5 ++ 0x0B#7) = some (.kiteFly 5 6 7) ∧
  decodeReel (3#7 ++ 0#5 ++ 9#5 ++ 0#3 ++ 0#5 ++ 0x2B#7) = some (.qPush 3 9) ∧
  decodeReel (0#7 ++ 0#5 ++ 0#5 ++ 6#3 ++ 0#5 ++ 0x7B#7) = some .ascentDone ∧
  decodeReel (0#7 ++ 0#5 ++ 0#5 ++ 6#3 ++ 1#5 ++ 0x7B#7) = none ∧
  decodeReel (1#7 ++ 7#5 ++ 6#5 ++ 1#3 ++ 5#5 ++ 0x0B#7) = none ∧ decodeReel 0 = none

/-- R24 to R31: decoding and encoding of Carug words agree: a word decodes to an instruction exactly where that is well
formed and encodes to the word. So no bit of a word is dropped, and each legal word has one meaning. -/
def Obligations.CarugDecodeEncode : Prop :=
  ∀ (w : CWord) (i : Instr), decodeKite w = some i ↔ i.WellFormed ∧ encodeKite i = some w

/-- R36, R37: the same of the words of the reel. -/
def Obligations.ReelDecodeEncode : Prop :=
  ∀ (w : RWord) (i : Instr), decodeReel w = some i ↔ i.WellFormed ∧ encodeReel i = some w

/-- A step runs the decoded instruction. R49, R54, R31: the turn of a FLYING kite executes the word at its position, or
the target of a running rep, and parks it with DATA_ERROR or ILLEGAL_OP in place of a word of a bad line or of no
instruction; R53: one whose next position is still to be found moves there, or parks with BLOCK_MISS; R33, R36, R37,
R367: the turn of a reel takes a due event, or executes the word that it fetches; an event of the machine executes with
its arguments; R20: with no move a tick passes on both dies. -/
def Obligations.StepRunsDecoded : Prop :=
  (∀ (s : State) (c k : Nat) (hold : Bool) (ms : List Move) (p : Nat × Nat) (w : CWord),
    s.moves = .kite c k hold :: ms →
    let t := { s with moves := ms, cur := .kite c k, hold := hold }
    let x := s.kite c k
    let a := BitVec.ofNat 64 ((x.buf p.1).base + 12 * p.2)
    x.st = .flying → s.crewRuns c = true → x.yielded = false → x.buf0.refill = false → x.buf1.refill = false →
    x.resume ≠ .after →
    (if x.repRun then x.nextPos = .ok p else p = (x.cur, x.idx)) → (x.buf p.1).words[p.2]? = some w →
    (∀ i, (∀ l ∈ slotLines p.2, l ∉ (x.buf p.1).bad) → decodeKite w = some i → step s = exec i t) ∧
    ((∀ l ∈ slotLines p.2, l ∉ (x.buf p.1).bad) → decodeKite w = none →
      step s = .next (trapKite t c k { cause := 0x01, va := a } .here none)) ∧
    ((∃ l ∈ slotLines p.2, l ∈ (x.buf p.1).bad) →
      step s = .next (trapKite t c k { cause := 0x0D, va := a } .here none))) ∧
  (∀ (s : State) (c k : Nat) (hold : Bool) (ms : List Move), s.moves = .kite c k hold :: ms →
    let t := { s with moves := ms, cur := .kite c k, hold := hold }
    let x := s.kite c k
    x.st = .flying → s.crewRuns c = true → x.yielded = false → x.buf0.refill = false → x.buf1.refill = false →
    x.resume = .after → ∀ e, x.nextPos = .error e → step s = .next (trapKite t c k e .after none)) ∧
  (∀ (s t u : State) (c : Nat) (ms : List Move) (w : RWord),
    s.moves = .reel c :: ms → s.crewRuns c = true → (s.crew c).ending = false →
    (settleReel { s with moves := ms, cur := .reel c } c = (t, true) → step s = .next t) ∧
    (settleReel { s with moves := ms, cur := .reel c } c = (t, false) → reelFetch t c = .ok (w, u) →
      (∀ i, decodeReel w = some i → step s = exec i u) ∧
      (decodeReel w = none → step s = .next (reelIllegal u c w)))) ∧
  (∀ (s : State) (i : Instr) (a : EvArgs) (ms : List Move), s.moves = .event i a :: ms → isEvent i = true →
    step s = exec i { s with moves := ms, ev := a }) ∧
  ∀ s : State, s.moves = [] →
    ∃ t, step s = .next t ∧ (t.die 0).cycle = ((s.die 0).cycle + 1) % 2 ^ 64 ∧
      (t.die 1).cycle = ((s.die 1).cycle + 1) % 2 ^ 64 ∧ SameMemory s t

/-! ## Reset and the memories -/

/-- R20, R330, R388, R275: at reset CYCLE of each die and DEVNUM are zero, no bit of READY is set, no crew, flight,
ascent, command or context is there, and no tint is in use. -/
def Obligations.ResetState : Prop :=
  (∀ d, (State.reset.die d).cycle = 0) ∧ State.reset.module.devnum = 0 ∧
  (State.reset.module.dmp = false ∧ State.reset.module.sched = false ∧ State.reset.module.lpddr = false ∧
    State.reset.module.hbm = false ∧ State.reset.module.clus = 0 ∧ ∀ p, (State.reset.module.sk.get p).ready = false) ∧
  (∀ c, State.reset.hasCrew c = false ∧ (State.reset.core c).wp = [] ∧ ∀ k, (State.reset.kite c k).st = .absent) ∧
  State.reset.flights = [] ∧ State.reset.ascents = [] ∧ (∀ q, (State.reset.queues.get q).valid = false) ∧
  ∀ n, (State.reset.ctx n).valid = false ∧ ∀ t, 1 ≤ t → ((State.reset.ctx n).tint t).st = .free

/-- A step keeps the module's memory in canonical form, so that memories of equal bytes are equal. -/
def Obligations.StepKeepsMemory : Prop :=
  ∀ s t : State, s.memOk → step s = .next t → t.memOk

/-- A step keeps every on-chip memory in canonical form, and the table of the crews in rising order of cores, so that a
core has one crew at most. -/
def Obligations.StepKeepsOnChip : Prop :=
  ∀ s t : State, step s = .next t → (s.onChipOk → t.onChipOk) ∧ (s.crewsOk → t.crewsOk)

/-- At reset every memory is in canonical form, and so is the table of the crews. -/
def Obligations.ResetMemory : Prop := State.reset.memOk ∧ State.reset.onChipOk ∧ State.reset.crewsOk

/-! ## The reel: RISC-V -/

namespace Sys2Proof.Machine

/-- The word of an integer, and of its low 32 bits sign-extended. -/
def wordOf (n : Int) : Word := BitVec.ofInt 64 n
def wordOf32 (n : Int) : Word := BitVec.ofInt 64 ((n + 2 ^ 31) % 2 ^ 32 - 2 ^ 31)

/-- The low 32 bits of a word as a signed and an unsigned integer. -/
def low32 (x : Word) : Int := (x.toNat + 2 ^ 31) % 2 ^ 32 - 2 ^ 31
def low32u (x : Word) : Nat := x.toNat % 2 ^ 32

/-- The register-register operations of RV64I and M on 64 bits, as integers modulo 2^64. -/
def rvRule : RvOp → Word → Word → Int
  | .add, x, y => x.toInt + y.toInt
  | .sub, x, y => x.toInt - y.toInt
  | .sll, x, y => x.toNat * 2 ^ (y.toNat % 64)
  | .slt, x, y => if x.toInt < y.toInt then 1 else 0
  | .sltu, x, y => if x.toNat < y.toNat then 1 else 0
  | .xor, x, y => (x.toNat ^^^ y.toNat : Nat)
  | .srl, x, y => x.toNat / 2 ^ (y.toNat % 64)
  | .sra, x, y => x.toInt / 2 ^ (y.toNat % 64)
  | .or, x, y => (x.toNat ||| y.toNat : Nat)
  | .and, x, y => (x.toNat &&& y.toNat : Nat)
  | .mul, x, y => x.toInt * y.toInt
  | .mulh, x, y => x.toInt * y.toInt / 2 ^ 64
  | .mulhsu, x, y => x.toInt * y.toNat / 2 ^ 64
  | .mulhu, x, y => x.toNat * y.toNat / 2 ^ 64
  | .div, x, y => if y = 0 then -1 else x.toInt.tdiv y.toInt
  | .divu, x, y => if y = 0 then -1 else x.toNat / y.toNat
  | .rem, x, y => if y = 0 then x.toInt else x.toInt - y.toInt * x.toInt.tdiv y.toInt
  | .remu, x, y => if y = 0 then x.toNat else x.toNat % y.toNat

/-- Those on 32 bits, whose results are sign-extended. -/
def rvRuleW : RvOpW → Word → Word → Int
  | .addw, x, y => low32 x + low32 y
  | .subw, x, y => low32 x - low32 y
  | .sllw, x, y => low32 x * 2 ^ (y.toNat % 32)
  | .srlw, x, y => low32u x / 2 ^ (y.toNat % 32)
  | .sraw, x, y => low32 x / 2 ^ (y.toNat % 32)
  | .mulw, x, y => low32 x * low32 y
  | .divw, x, y => if low32 y = 0 then -1 else (low32 x).tdiv (low32 y)
  | .divuw, x, y => if low32u y = 0 then -1 else low32u x / low32u y
  | .remw, x, y => if low32 y = 0 then low32 x else low32 x - low32 y * (low32 x).tdiv (low32 y)
  | .remuw, x, y => if low32u y = 0 then low32u x else low32u x % low32u y

/-- The register-register operation of an operation with an immediate, and of a shift. -/
def immOp : RvImm → RvOp
  | .addi => .add | .slti => .slt | .sltiu => .sltu | .xori => .xor | .ori => .or | .andi => .and
def shOp : RvSh → RvOp | .sll => .sll | .srl => .srl | .sra => .sra
def shOpW : RvSh → RvOpW | .sll => .sllw | .srl => .srlw | .sra => .sraw

/-- What a RISC-V instruction of integers does on the reel: it writes rd and falls through. -/
def RvWrites (s : State) (c : Nat) (i : Rv) (rd : BitVec 5) (v : Word) : Prop :=
  exec (.riscVInstruction i) s = .next (reelWrite s c rd v)

/-- The integer instructions of RV64I and M give the results of the RISC-V specification. -/
def RiscVIntegers : Prop :=
  ∀ (s : State) (c : Nat) (rd rs1 rs2 : BitVec 5), ReelTurns s c →
    let x := (s.reelOf c).xget rs1.toNat
    let y := (s.reelOf c).xget rs2.toNat
    (∀ k, RvWrites s c (.op k rd rs1 rs2) rd (wordOf (rvRule k x y))) ∧
    (∀ k, RvWrites s c (.opW k rd rs1 rs2) rd (wordOf32 (rvRuleW k x y))) ∧
    (∀ k (imm : BitVec 12), RvWrites s c (.opImm k rd rs1 imm) rd (wordOf (rvRule (immOp k) x (wordOf imm.toInt)))) ∧
    (∀ k (sh : BitVec 6), RvWrites s c (.shImm k rd rs1 sh) rd (wordOf (rvRule (shOp k) x (wordOf sh.toNat)))) ∧
    (∀ imm : BitVec 12, RvWrites s c (.addiw rd rs1 imm) rd (wordOf32 (low32 x + imm.toInt))) ∧
    (∀ k (sh : BitVec 5), RvWrites s c (.shImmW k rd rs1 sh) rd (wordOf32 (rvRuleW (shOpW k) x (wordOf sh.toNat)))) ∧
    (∀ imm : BitVec 20, RvWrites s c (.lui rd imm) rd (wordOf (imm.toInt * 2 ^ 12))) ∧
    ∀ imm : BitVec 20, RvWrites s c (.auipc rd imm) rd (wordOf ((s.reelOf c).pc + imm.toInt * 2 ^ 12))

/-- The conditions of the branches. -/
def rvCond : RvBr → Word → Word → Prop
  | .beq, x, y => x = y
  | .bne, x, y => x ≠ y
  | .blt, x, y => x.toInt < y.toInt
  | .bge, x, y => y.toInt ≤ x.toInt
  | .bltu, x, y => x.toNat < y.toNat
  | .bgeu, x, y => y.toNat ≤ x.toNat

/-- jal and jalr link rd and go to their target, a branch goes to its own if its condition holds and falls through
otherwise; a target that is no multiple of 4 raises the exception of code 0 at the instruction, which then links
nothing. -/
def RiscVTransfers : Prop :=
  ∀ (s : State) (c : Nat), ReelTurns s c →
    let r := s.reelOf c
    let goes := fun (i : Rv) (rd : BitVec 5) (t : Nat) =>
      (t % 4 = 0 → exec (.riscVInstruction i) s =
        .next (reelJump (s.modReel c fun r => r.xset rd.toNat (BitVec.ofNat 64 (r.pc + 4))) c t)) ∧
      (t % 4 ≠ 0 → exec (.riscVInstruction i) s = .next (reelRaise s c 0 (BitVec.ofNat 64 t)))
    (∀ rd (imm : BitVec 20), goes (.jal rd imm) rd (((r.pc : Int) + 2 * imm.toInt) % 2 ^ 64).toNat) ∧
    (∀ rd rs1 (imm : BitVec 12),
      goes (.jalr rd rs1 imm) rd ((((r.xget rs1.toNat).toNat : Int) + imm.toInt) / 2 * 2 % 2 ^ 64).toNat) ∧
    ∀ k rs1 rs2 (imm : BitVec 12),
      let t := (((r.pc : Int) + 2 * imm.toInt) % 2 ^ 64).toNat
      let cond := rvCond k (r.xget rs1.toNat) (r.xget rs2.toNat)
      (¬ cond → exec (.riscVInstruction (.branch k rs1 rs2 imm)) s = .next (reelNext s c)) ∧
      (cond → t % 4 = 0 → exec (.riscVInstruction (.branch k rs1 rs2 imm)) s = .next (reelJump s c t)) ∧
      (cond → t % 4 ≠ 0 →
        exec (.riscVInstruction (.branch k rs1 rs2 imm)) s = .next (reelRaise s c 0 (BitVec.ofNat 64 t)))

/-- An instruction of the reel that writes rd and falls through writes that register, but for x0, moves the pc by 4,
and leaves every other register as it was, and so the kites, queues, tiles, ports, scratchpad and lanes of its crew, the
other crews, the rest of the machine and all memory. -/
def ReelWriteFrame : Prop :=
  ∀ (s : State) (c : Nat) (rd : BitVec 5) (v : Word), s.hasCrew c = true →
    let t := reelWrite s c rd v
    OnlyCrew c s t ∧ SameMemory s t ∧ (t.reelOf c).pc = ((s.reelOf c).pc + 4) % 2 ^ 64 ∧
    (t.reelOf c).xget rd.toNat = (if rd = 0 then 0 else v) ∧
    (∀ i, i ≠ rd.toNat → (t.reelOf c).xget i = (s.reelOf c).xget i) ∧
    t.reelOf c = { s.reelOf c with x := (t.reelOf c).x, pc := (t.reelOf c).pc, wait := .none } ∧
    t.crew c = { s.crew c with reel := t.reelOf c }

end Sys2Proof.Machine

/-- R2, R303: RISC_V_INSTRUCTION on integers and transfers of control, as the RISC-V specification has them. -/
def Obligations.RiscVIntegersAndTransfers : Prop := RiscVIntegers ∧ RiscVTransfers ∧ ReelWriteFrame

namespace Sys2Proof.Machine

/-- Loads of the reel: an access not aligned to its width raises code 4 with its address, one of an orphan 5; one whose
view is being fixed waits (R284); an aligned load that translates writes the extended bytes of its line to rd. -/
def RiscVLoads : Prop :=
  ∀ (s : State) (c : Nat) (k : RvLd) (rd rs1 : BitVec 5) (imm : BitVec 12), ReelTurns s c →
    let a := (s.reelOf c).xget rs1.toNat + wordOf imm.toInt
    let n := rvLdBytes k
    let i : Instr := .riscVInstruction (.load k rd rs1 imm)
    (reelFixing s c = true → exec i s = .next (waitFixing s c)) ∧
    (reelFixing s c = false → a.toNat % n ≠ 0 → exec i s = .next (reelRaise s c 4 a)) ∧
    (reelFixing s c = false → a.toNat % n = 0 → reelOrphan s c = true → exec i s = .next (reelRaise s c 5 a)) ∧
    ∀ p s', reelFixing s c = false → a.toNat % n = 0 → reelOrphan s c = false →
      reelXlat s c a.toNat .load = .ok (p, s') →
      let r := loadLine s' c (s'.crew c).ctx (s'.reelOf c).view (s'.reelOf c).acq p n 0 true
      exec i s = .next (reelWrite r.2 c rd
        (if rvLdSigned k then sext (ofBytes r.1) (8 * n) else zext (ofBytes r.1) (8 * n)))

/-- Stores of the reel: one not aligned to its width raises code 6, one of an orphan 7 (R287); an aligned store that
translates puts its bytes at the translated address into the write path under the version that the reel's view names,
with the release that a FENCE left to it (R302, R305). Under a tinted view one off the module (R279), or one for whose
line no version is left (R281), raises 7. -/
def RiscVStores : Prop :=
  ∀ (s : State) (c : Nat) (k : RvSt) (rs1 rs2 : BitVec 5) (imm : BitVec 12), ReelTurns s c →
    let a := (s.reelOf c).xget rs1.toNat + wordOf imm.toInt
    let n := rvStBytes k
    let i : Instr := .riscVInstruction (.store k rs1 rs2 imm)
    (a.toNat % n ≠ 0 → exec i s = .next (reelRaise s c 6 a)) ∧
    (a.toNat % n = 0 → reelOrphan s c = true → exec i s = .next (reelRaise s c 7 a)) ∧
    ∀ p s', a.toNat % n = 0 → reelOrphan s c = false → reelXlat s c a.toNat .store = .ok (p, s') →
      let ctx := (s'.crew c).ctx
      let v := (s'.ctx ctx).resolve (s'.reelOf c).view
      (v ≠ 0 → onModule p.a = false → exec i s = .next (reelRaise s' c 7 a)) ∧
      (v = 0 ∨ onModule p.a = true →
        (∀ e, reserve s' ctx v [lineOf p.a] = .error e → exec i s = .next (reelRaise s' c 7 a)) ∧
        ∀ u, reserve s' ctx v [lineOf p.a] = .ok u →
          exec i s = .next (reelNext ((storeBytes u c ctx v (s'.reelOf c).relNext true
            ((wbytes p.a (toBytes n ((s.reelOf c).xget rs2.toNat).toNat)).map fun w => { w with cl := p.cl })).modReel c
              fun r => { r with relNext := none }) c))

/-- LR reserves the bytes that it reads; SC of bytes that the reel holds reserved writes them and gives 0, of others 1
and no write, and ends the reservation; an AMO writes its function of the bytes and gives the old ones. Here the core
has no buffered store, no store stands at a guest line of its die, and the access is to module memory. -/
def RiscVAtomics : Prop :=
  ∀ (s s' : State) (c p : Nat) (dbl aq rl : Bool) (rd rs1 rs2 : BitVec 5), ReelTurns s c →
    let n := if dbl then 8 else 4
    let a := ((s.reelOf c).xget rs1.toNat).toNat
    let v := ((s.reelOf c).xget rs2.toNat).toNat
    (s'.core c).wp = [] → dieStores s' (dieOf c) = [] → pkind p = .hbm → p + n ≤ lpddrBase →
    (rvAmoCheck s c a n true false = .ok (p, s') →
      ∃ t, exec (.riscVInstruction (.lr dbl aq rl rd rs1)) s = .next (reelWrite t c rd
          (wordOf (toSigned (8 * n) (memRead s'.mem p n)))) ∧
        t.resvs.find c = some { addr := p, n := n } ∧ t.mem = s'.mem) ∧
    (rvAmoCheck s c a n false false = .ok (p, s') →
      (s'.resvs.find c = some { addr := p, n := n } → Memory.wf s'.mem = true →
        ∃ t, exec (.riscVInstruction (.sc dbl aq rl rd rs1 rs2)) s = .next (reelWrite t c rd 0) ∧
          memRead t.mem p n = v % 2 ^ (8 * n) ∧ t.resvs.find c = none) ∧
      (s'.resvs.find c ≠ some { addr := p, n := n } →
        ∃ t, exec (.riscVInstruction (.sc dbl aq rl rd rs1 rs2)) s = .next (reelWrite t c rd 1) ∧
          t.mem = s'.mem ∧ t.resvs.find c = none)) ∧
    ∀ k, rvAmoCheck s c a n false (rvAmoOnHost k) = .ok (p, s') → (s.reelOf c).wait = .none →
      Memory.wf s'.mem = true →
      let old := memRead s'.mem p n
      let arg := v % 2 ^ (8 * n)
      let so := toSigned (8 * n) old
      let sa := toSigned (8 * n) arg
      let new : Nat := match k with
        | .swap => arg
        | .add => (old + arg) % 2 ^ (8 * n)
        | .xor => old ^^^ arg
        | .and => old &&& arg
        | .or => old ||| arg
        | .min => if so ≤ sa then old else arg
        | .max => if sa ≤ so then old else arg
        | .minu => min old arg
        | .maxu => max old arg
      ∃ t, exec (.riscVInstruction (.amo k dbl aq rl rd rs1 rs2)) s = .next (reelWrite t c rd (wordOf so)) ∧
        memRead t.mem p n = new ∧ ∀ b, b < p ∨ p + n ≤ b → memGet t.mem b = memGet s'.mem b

/-- The Zicsr instructions, FENCE.I and a FENCE that orders no earlier write; WFI acts as a NOP, which the manual does not
say: that is what log 3 presumes of it. UEVVEC and UEVEPC hold a word address;
a register of supervisor mode, or none, in user mode raises the illegal-instruction exception. -/
def RiscVSystem : Prop :=
  (∀ (s : State) (c : Nat) (k : RvCsr) (imm : Bool) (rd rs1 : BitVec 5) (n : BitVec 12), ReelTurns s c →
    let r := s.reelOf c
    let src := if imm then BitVec.ofNat 64 rs1.toNat else r.xget rs1.toNat
    let i : Rv := .csr k imm rd rs1 n
    let new := fun (old : Word) => match k with | .rw => src | .rs => old ||| src | .rc => old &&& ~~~src
    (∀ old, csrAllowed r n.toNat (k == .rw || rs1 != 0) = true → r.csrGet n.toNat = some old →
      exec (.riscVInstruction i) s = .next (reelWrite
        (if k ≠ .rw ∧ rs1 = 0 then s else s.modReel c fun r => r.csrSet n.toNat (new old)) c rd old)) ∧
    ((r.csrGet n.toNat = none ∨ 3 ≤ n.toNat / 256 % 4 ∨ n.toNat / 256 % 4 = 2 ∨ (n.toNat / 256 % 4 = 1 ∧ r.sup = false)) →
      exec (.riscVInstruction i) s = .next (reelIllegal s c (encodeRv i)))) ∧
  (∀ (r : Reel) (w : Word),
    (r.csrSet 0x800 w).csrGet 0x800 = some (BitVec.ofNat 64 (w.toNat / 4 * 4)) ∧
    (r.csrSet 0x803 w).csrGet 0x803 = some (BitVec.ofNat 64 (w.toNat / 4 * 4)) ∧
    r.csrSet 0x801 w = r ∧ r.csrSet 0x802 w = r) ∧
  (∀ (s : State) (c : Nat) (rd rs1 : BitVec 5) (imm : BitVec 12), ReelTurns s c →
    exec (.riscVInstruction (.fenceI rd rs1 imm)) s = .next (reelNext (s.modCore c fun k => { k with ic := [] }) c)) ∧
  (∀ (s : State) (c : Nat), ReelTurns s c → exec (.riscVInstruction .wfi) s = .next (reelNext s c)) ∧
  ∀ (s : State) (c : Nat) (fm pred succ : BitVec 4) (rd rs1 : BitVec 5), ReelTurns s c → pred.getLsbD 0 = false →
    exec (.riscVInstruction (.fence fm pred succ rd rs1)) s =
      .next (reelNext (if succ.getLsbD 0 || succ.getLsbD 1 then reelAcquire s c 4 else s) c)

end Sys2Proof.Machine

/-- R2, R303, R366: RISC_V_INSTRUCTION on memory, atomics, control registers and the fences. WFI as a NOP is
PRESUMED in log 3; details are by the reading of log 12. -/
def Obligations.RiscVMemoryAndSystem : Prop := RiscVLoads ∧ RiscVStores ∧ RiscVAtomics ∧ RiscVSystem

/-- R368, R369: an exception of the reel in user mode is taken as a user event of code 0x40 and its code, at UEVVEC,
or ends the crew where no handler is set or one is running; with SMODE it enters supervisor mode through stvec, and
so does one from supervisor mode, but that ecall there ends the crew. ecall raises 8 or 9, ebreak 3; sret returns to
the mode and address saved, and in user mode is illegal. Details are by the reading of log 12. -/
def Obligations.ReelExceptions : Prop :=
  (∀ (s : State) (c code : Nat) (tval : Word),
    let w := s.crew c
    let r := w.reel
    (r.sup = false → w.smode = false → r.uevAct = false → r.uev ≠ 0 →
      reelRaise s c code tval = s.modReel c fun r =>
        { r with uevEpc := r.pc / 4, uevAct := true, uevCause := 0x40 + code, uevAddr := tval.toNat % 2 ^ 48
                 uevAgent := 16, uevPark := false, pc := 4 * r.uev, wait := .none }) ∧
    (r.sup = false → w.smode = false → r.uevAct = true ∨ r.uev = 0 →
      reelRaise s c code tval = startEnd s c (some (0x40 + code))) ∧
    ((r.sup = false ∧ w.smode = true) ∨ (r.sup = true ∧ code ≠ 9 ∧ 4 ≤ r.stvec.toNat) →
      reelRaise s c code tval = s.modReel c fun r =>
        { r with sepc := BitVec.ofNat 64 r.pc, scause := BitVec.ofNat 64 code, stval := tval, spp := r.sup
                 spie := r.sie, sie := false, sup := true, pc := 4 * (r.stvec.toNat / 4), wait := .none }) ∧
    (r.sup = true → code = 9 ∨ r.stvec.toNat < 4 → reelRaise s c code tval = startEnd s c (some (0x40 + code)))) ∧
  ∀ (s : State) (c : Nat), ReelTurns s c →
    let r := s.reelOf c
    exec (.riscVInstruction .ecall) s = .next (reelRaise s c (if r.sup then 9 else 8) 0) ∧
    (∃ v, exec (.riscVInstruction .ebreak) s = .next (reelRaise s c 3 v)) ∧
    (r.sup = true → exec (.riscVInstruction .sret) s = .next (s.modReel c fun r =>
      { r with sup := r.spp, sie := r.spie, spie := true, spp := false, pc := r.sepc.toNat, wait := .none })) ∧
    (r.sup = false → ∃ v, exec (.riscVInstruction .sret) s = .next (reelRaise s c 2 v))

/-! ## The reel: kites, queues and barriers -/

namespace Sys2Proof.Machine

/-- The kites of a mask with a property. -/
def maskOf (p : Nat → Bool) : Nat := (List.range 16).foldl (fun m k => if p k then m + 2 ^ k else m) 0

/-- The effective mask of R59: the kites of the crew that a mask names. -/
def Named (s : State) (c : Nat) (m : Word) (k : Nat) : Prop := k < 16 ∧ k < (s.crew c).n ∧ m.getLsbD k = true

/-- The form of the instructions that act on landed kites (R60): if one that the mask names is not LANDED, nothing of
any kite changes and rd receives the mask of those; otherwise each named kite changes as `g` says, no other does, and
rd receives 0. -/
def ActsOnLanded (i : Instr) (s s' : State) (c : Nat) (rd : BitVec 5) (m : Word) (g : Kite → Kite) : Prop :=
  let busy := maskOf fun k => decide (k < (s'.crew c).n) && m.getLsbD k && (s'.kite c k).st != .landed
  (busy ≠ 0 → exec i s = .next (reelWrite s' c rd (BitVec.ofNat 64 busy))) ∧
  (busy = 0 → ∃ t, exec i s = .next (reelWrite t c rd 0) ∧ OnlyCrew c s' t ∧ t.reelOf c = s'.reelOf c ∧
    ∀ k, ((Named s' c m k → t.kite c k = g (s'.kite c k)) ∧ (¬ Named s' c m k → t.kite c k = s'.kite c k)))

/-- kite.bridle from a 32-byte aligned address whose bytes the reel reads, and whose page grants fetch, starts the landed
kites of its mask FLYING at slot 0 of a buffer of its eight words; from another address it raises code 4. kite.fly
starts them at its slot of a block of 32 words that begins to fill, WAITING; with bit 5 of its address set it raises
code 0. kite.tint sets the view of the landed kites to a live tint, and fails on another with 2^63. -/
def KiteStarts : Prop :=
  (∀ (s s' : State) (c : Nat) (rd rs1 rs2 : BitVec 5) (bs : List Byte), ReelTurns s c →
    let a := ((s.reelOf c).xget rs1.toNat).toNat
    (a % 32 ≠ 0 → exec (.kiteBridle rd rs1 rs2) s = .next (reelRaise s c 4 (BitVec.ofNat 64 a))) ∧
    (a % 32 = 0 → bridleBytes s c a = .ok (bs, s') →
      ActsOnLanded (.kiteBridle rd rs1 rs2) s s' c rd ((s.reelOf c).xget rs2.toNat) fun x =>
        { x with buf0 := { valid := true, base := a, slots := 8, words := carugWords 8 bs }
                 cur := 0, idx := 0, waitCount := 0, yielded := false, killed := false, resume := .here, ahead := []
                 st := .flying, wait := .none })) ∧
  (∀ (s s' : State) (c : Nat) (pas : List Nat) (rd rs1 rs2 : BitVec 5), ReelTurns s c →
    let a := ((s.reelOf c).xget rs1.toNat).toNat
    (a / 32 % 2 = 1 → exec (.kiteFly rd rs1 rs2) s = .next (reelRaise s c 0 (BitVec.ofNat 64 a))) ∧
    (a / 32 % 2 = 0 → blockXlat s (a / 64 * 64) (flyXlat c) 6 = .ok (pas, s') →
      ActsOnLanded (.kiteFly rd rs1 rs2) s s' c rd ((s.reelOf c).xget rs2.toNat) fun x =>
        { x with buf0 := { valid := true, filling := true, base := a / 64 * 64, slots := 32, pas := pas }
                 cur := 0, idx := a % 32, waitCount := 0, yielded := false, killed := false, resume := .here
                 ahead := [], st := .waiting, wait := .fill 0 })) ∧
  ∀ (s : State) (c : Nat) (rd rs1 rs2 : BitVec 5), ReelTurns s c →
    let t := ((s.reelOf c).xget rs1.toNat).toNat
    let live := t ≤ 1023 ∧ (s.ctx (s.crew c).ctx).isLive t = true
    (¬ live → exec (.kiteTint rd rs1 rs2) s = .next (reelWrite s c rd (BitVec.ofNat 64 (2 ^ 63)))) ∧
    (live → ActsOnLanded (.kiteTint rd rs1 rs2) s s c rd ((s.reelOf c).xget rs2.toNat) fun x => { x with tintv := t })

/-- kite.wait gives the masks of landed and parked kites once every named kite has landed or parked, or its deadline has
come, and waits otherwise; kite.kill of no kite FLYING, WAITING or PARKED gives 0, and of others it waits until they
have landed and then gives their mask. kite.role sets ROLE 0 to 2 of the named kites; kite.stat gives the state word
of a kite, and 0 past the last; kite.mvl gives MVLB. -/
def KiteControl : Prop :=
  (∀ (s : State) (c : Nat) (rd rs1 rs2 : BitVec 5), ReelTurns s c →
    let m := (s.reelOf c).xget rs1.toNat
    let d := ((s.reelOf c).xget rs2.toNat).toNat
    let named := fun k => decide (k < (s.crew c).n) && m.getLsbD k
    let landed := maskOf fun k => named k && (s.kite c k).st == .landed
    let parked := maskOf fun k => named k && (s.kite c k).st == .parked
    let finished := ∀ k, Named s c m k → (s.kite c k).st = .landed ∨ (s.kite c k).st = .parked
    (finished → ∃ t, exec (.kiteWait rd rs1 rs2) s =
      .next (reelWrite t c rd (BitVec.ofNat 64 (landed + 2 ^ 16 * parked)))) ∧
    (¬ finished → d ≠ 0 → d ≤ s.cycle c → ∃ t, exec (.kiteWait rd rs1 rs2) s =
      .next (reelWrite t c rd (BitVec.ofNat 64 (landed + 2 ^ 16 * parked + 2 ^ 63)))) ∧
    (¬ finished → d = 0 ∨ s.cycle c < d → ∃ q, exec (.kiteWait rd rs1 rs2) s = .next (reelWait s c (.kites q d)))) ∧
  (∀ (s : State) (c : Nat) (rd rs1 : BitVec 5), ReelTurns s c → (s.reelOf c).wait = .none →
    let m := (s.reelOf c).xget rs1.toNat
    let hit := fun k => Named s c m k ∧
      ((s.kite c k).st = .flying ∨ (s.kite c k).st = .waiting ∨ (s.kite c k).st = .parked)
    ((∀ k, ¬ hit k) → exec (.kiteKill rd rs1) s = .next (reelWrite s c rd 0)) ∧
    ((∃ k, hit k) → (∀ k, (s.kite c k).region = none ∧ (s.kite c k).pend = []) →
      ∃ t q, exec (.kiteKill rd rs1) s = .next t ∧ (t.reelOf c).wait = .landing q ∧ (∀ k, bit q k = true ↔ hit k) ∧
        ∀ k, (hit k → (t.kite c k).st = .draining) ∧ (¬ hit k → (t.kite c k).st = (s.kite c k).st))) ∧
  (∀ (s : State) (c q : Nat) (rd rs1 : BitVec 5), ReelTurns s c → (s.reelOf c).wait = .landing q →
    (∀ k, bit q k = true → k < 16 → (s.kite c k).st = .landed) →
    exec (.kiteKill rd rs1) s = .next (reelWrite s c rd (BitVec.ofNat 64 q))) ∧
  (∀ (s : State) (c : Nat) (rd rs1 rs2 : BitVec 5), ReelTurns s c →
    let v := ((s.reelOf c).xget rs1.toNat).toNat
    let m := (s.reelOf c).xget rs2.toNat
    (2 < v → exec (.kiteRole rd rs1 rs2) s = .next (reelWrite s c rd (BitVec.allOnes 64))) ∧
    (v ≤ 2 → ∃ t, exec (.kiteRole rd rs1 rs2) s = .next (reelWrite t c rd 0) ∧ OnlyCrew c s t ∧
      ∀ k, ((Named s c m k → t.kite c k = { s.kite c k with role := v }) ∧
        (¬ Named s c m k → t.kite c k = s.kite c k)))) ∧
  (∀ (s : State) (c : Nat) (rd rs1 : BitVec 5), ReelTurns s c →
    let k := ((s.reelOf c).xget rs1.toNat).toNat
    let x := s.kite c k
    (k < 16 → k < (s.crew c).n → exec (.kiteStat rd rs1) s = .next (reelWrite s c rd (BitVec.ofNat 64
      (2 ^ 32 * (if x.st = .parked then x.cause else 0) + 2 ^ 16 * min 65535 x.waitCount + 2 ^ 10 * x.cur +
        2 ^ 5 * x.idx + 2 ^ 3 * x.role + x.st.code)))) ∧
    (16 ≤ k ∨ (s.crew c).n ≤ k → exec (.kiteStat rd rs1) s = .next (reelWrite s c rd 0))) ∧
  ∀ (s : State) (c : Nat) (rd : BitVec 5), ReelTurns s c →
    exec (.kiteMvl rd) s = .next (reelWrite s c rd (BitVec.ofNat 64 (s.crew c).mvlb))

/-- q.push appends x[rs1] and waits while the queue holds 16 entries; q.pop takes the head and waits for one; q.peek
gives the number of entries. cyc gives CYCLE; sleepu goes on once CYCLE has reached x[rs1]. -/
def ReelQueues : Prop :=
  ∀ (s : State) (c : Nat), ReelTurns s c →
    (∀ (q : BitVec 3) (rs1 : BitVec 5),
      ((s.queueOf c q.toNat).length < 16 → exec (.qPush q rs1) s = .next (reelNext (s.setQueueOf c q.toNat
        (s.queueOf c q.toNat ++ [(s.reelOf c).xget rs1.toNat])) c)) ∧
      (16 ≤ (s.queueOf c q.toNat).length → exec (.qPush q rs1) s = .next (reelWait s c (.qpush q.toNat)))) ∧
    (∀ (q : BitVec 3) (rd : BitVec 5),
      (∀ w, (s.queueOf c q.toNat).head? = some w →
        exec (.qPop q rd) s = .next (reelWrite (s.setQueueOf c q.toNat (s.queueOf c q.toNat).tail) c rd w)) ∧
      (s.queueOf c q.toNat = [] → exec (.qPop q rd) s = .next (reelWait s c (.qpop q.toNat)))) ∧
    (∀ (q : BitVec 3) (rd : BitVec 5),
      exec (.qPeek q rd) s = .next (reelWrite s c rd (BitVec.ofNat 64 (s.queueOf c q.toNat).length))) ∧
    (∀ rd : BitVec 5, exec (.cyc rd) s = .next (reelWrite s c rd (BitVec.ofNat 64 (s.cycle c)))) ∧
    ∀ rs1 : BitVec 5,
      let t := ((s.reelOf c).xget rs1.toNat).toNat
      (t ≤ s.cycle c → exec (.reelSleepu rs1) s = .next (reelNext s c)) ∧
      (s.cycle c < t → exec (.reelSleepu rs1) s = .next (reelWait s c (.sleep t)))

/-- fbar.arrive at a unit of the flight counts at once, gives 0 and notes the phase; fbar.wait after a phase that has
completed gives whether the scopes of its arrivals differ from its own, and forgets the arrival. At scope 1 an arrival
comes after the release of the reel's earlier stores, for which it waits, and a wait acquires. A unit or a scope out of
range gives all ones; an arrival still outstanding is waited for. -/
def ReelBarriers : Prop :=
  ∀ (s : State) (c : Nat) (rd rs1 rs2 : BitVec 5), ReelTurns s c →
    let r := s.reelOf c
    let u := (r.xget rs1.toNat).toNat
    let v := (r.xget rs2.toNat).toNat
    let size := flightSize s c
    (2 * size ≤ u ∨ 256 < v % 2 ^ 16 ∨ 2 ^ 17 ≤ v →
      exec (.fbarArrive rd rs1 rs2) s = .next (reelWrite s c rd (BitVec.allOnes 64))) ∧
    (u < 2 * size → v % 2 ^ 16 ≤ 256 → v < 2 ^ 17 →
      (outstanding s c u r.arr = true → exec (.fbarArrive rd rs1 rs2) s = .next (reelWait s c (.barArrive u))) ∧
      (outstanding s c u r.arr = false → v < 2 ^ 16 →
        exec (.fbarArrive rd rs1 rs2) s = .next (reelWrite
          ((countArrival s c u (if v = 0 then size * (s.crew c).n else v) 0).modReel c fun r =>
            { r with arr := r.arr.set u (barUnit s c u).phase }) c rd 0)) ∧
      (outstanding s c u r.arr = false → 2 ^ 16 ≤ v →
        (∀ t, release s c 1 = (t, true) → exec (.fbarArrive rd rs1 rs2) s = .next (reelWrite
          ((countArrival t c u (if v % 2 ^ 16 = 0 then size * (s.crew c).n else v % 2 ^ 16) 1).modReel c fun r =>
            { r with arr := r.arr.set u (barUnit t c u).phase }) c rd 0)) ∧
        ∀ t, release s c 1 = (t, false) → exec (.fbarArrive rd rs1 rs2) s = .next (reelWait t c .fbar))) ∧
    (2 * size ≤ u ∨ 1 < v → exec (.fbarWait rd rs1 rs2) s = .next (reelWrite s c rd (BitVec.allOnes 64))) ∧
    (u < 2 * size → v ≤ 1 →
      (outstanding s c u r.arr = true → exec (.fbarWait rd rs1 rs2) s = .next (reelWait s c (.barWait u))) ∧
      (outstanding s c u r.arr = false →
        let bad := match r.arr.find u with
          | some p => !(phaseMatches s c v p (barUnit s c u))
          | none => false
        let t := s.modReel c fun r => { r with arr := r.arr.del u }
        exec (.fbarWait rd rs1 rs2) s = .next (reelWrite (if v = 1 then reelAcquire t c 1 else t) c rd
          (BitVec.ofNat 64 bad.toNat))))

end Sys2Proof.Machine

/-- R59 to R68, R77, R108, R112, R113: the instructions of the reel on kites, queues, the timebase and barriers.
Details are by the reading of log 13. -/
def Obligations.ReelOnKites : Prop := KiteStarts ∧ KiteControl ∧ ReelQueues ∧ ReelBarriers

/-! ## The reel: engines, hypotheses and services -/

namespace Sys2Proof.Machine

/-- e.push loads the command from memory, waiting while the reel's view is being fixed; it gives the promise of a command that its port takes, 2^63 and the cause and element of a refused one, and waits
for a full port; e.pop stores the 32 bytes of the oldest result, gives its first word and takes it, and waits for
one; e.stat gives the port's status. -/
def ReelEngines : Prop :=
  (∀ (s : State) (c : Nat) (e : BitVec 3) (rd rs1 : BitVec 5), ReelTurns s c →
    (reelFixing s c = true → exec (.ePush e rd rs1) s = .next (waitFixing s c)) ∧
    ∀ x, reelFixing s c = false → reelLoad s c ((s.reelOf c).xget rs1.toNat).toNat 64 = .error x →
      exec (.ePush e rd rs1) s = .next (reelRaise x.s c x.code x.tval)) ∧
  (∀ (s s' : State) (c v : Nat) (e : BitVec 3) (rd rs1 : BitVec 5), ReelTurns s c → reelFixing s c = false →
    reelLoad s c ((s.reelOf c).xget rs1.toNat).toNat 64 = .ok (v, s') →
    let words := (List.range 8).map fun i => BitVec.ofNat 64 (v / 2 ^ (64 * i))
    (∀ t p, pushCommand s' c e.toNat 16 (s.reelOf c).view words id = .done t p →
      exec (.ePush e rd rs1) s = .next (reelWrite t c rd p)) ∧
    (∀ f, pushCommand s' c e.toNat 16 (s.reelOf c).view words id = .refused f →
      exec (.ePush e rd rs1) s = .next (reelWrite f.s c rd
        (BitVec.ofNat 64 (2 ^ 63 + 2 ^ 16 * f.t.cause + f.t.elt.toNat % 2 ^ 16)))) ∧
    ∀ t w, pushCommand s' c e.toNat 16 (s.reelOf c).view words id = .wait t w →
      exec (.ePush e rd rs1) s = .next (reelWait t c w)) ∧
  (∀ (s : State) (c : Nat) (e : BitVec 3) (rd rs1 : BitVec 5), ReelTurns s c →
    (((s.crew c).ports.get e.toNat).res = [] → exec (.ePop e rd rs1) s = .next (reelWait s c (.epop e.toNat))) ∧
    ∀ x xs t, ((s.crew c).ports.get e.toNat).res = x :: xs →
      reelStore s c ((s.reelOf c).xget rs1.toNat).toNat (toBytes 32 (ofBytes (x.w.flatMap fun w => toBytes 8 w.toNat))) =
        .ok t →
      exec (.ePop e rd rs1) s = .next (reelWrite (popResult t c e.toNat x) c rd (x.w.headD 0)) ∧
        ((popResult t c e.toNat x).crew c).ports.get e.toNat =
          { (t.crew c).ports.get e.toNat with res := ((t.crew c).ports.get e.toNat).res.tail }) ∧
  ∀ (s : State) (c : Nat) (e : BitVec 3) (rd : BitVec 5), ReelTurns s c →
    exec (.eStat e rd) s = .next (reelWrite s c rd (portStatus s c e.toNat))

/-- hyp.open of a live parent of depth below 16 opens a free tint as its child and gives it; hyp.fix and hyp.bleach of a
live tint ask for the operation and wait for it, and give its result once it has come; hyp.enter changes the view of
the reel and gives the old one; hyp.stat gives the status word, for a retired tint the one that it was fixed into and
that it was. The failures give 2^63 and their reason. -/
def ReelHypotheses : Prop :=
  ∀ (s : State) (c : Nat) (rd rs1 : BitVec 5), ReelTurns s c →
    let r := s.reelOf c
    let t := (r.xget rs1.toNat).toNat
    let n := (s.crew c).ctx
    let x := s.ctx n
    let fails := fun (i : Instr) (m : Nat) => exec i s = .next (reelWrite s c rd (BitVec.ofNat 64 (2 ^ 63 + m)))
    (1023 < t → fails (.hypOpen rd rs1) 2) ∧
    (t ≤ 1023 → x.isLive t = false → fails (.hypOpen rd rs1) 1) ∧
    (t ≤ 1023 → x.isLive t = true → (x.tint t).depth = 16 → fails (.hypOpen rd rs1) 4) ∧
    (t ≤ 1023 → x.isLive t = true → (x.tint t).depth ≠ 16 → x.freeTint = none → fails (.hypOpen rd rs1) 3) ∧
    (∀ m, t ≤ 1023 → x.isLive t = true → (x.tint t).depth ≠ 16 → x.freeTint = some m →
      exec (.hypOpen rd rs1) s = .next (reelWrite (s.modCtx n fun y =>
        { y with tints := y.tints.set m { st := .live, parent := t, depth := (y.tint t).depth + 1 } }) c rd
          (BitVec.ofNat 64 m))) ∧
    (∀ v, r.wait = .result v →
      exec (.hypFix rd rs1) s = .next (reelWrite s c rd v) ∧ exec (.hypBleach rd rs1) s = .next (reelWrite s c rd v)) ∧
    (r.wait = .none →
      (1023 < t ∨ t = 0 → fails (.hypFix rd rs1) 2 ∧ fails (.hypBleach rd rs1) 2) ∧
      (1 ≤ t → t ≤ 1023 → x.isLive t = false → fails (.hypFix rd rs1) 1 ∧ fails (.hypBleach rd rs1) 1) ∧
      (1 ≤ t → t ≤ 1023 → x.isLive t = true →
        let asked := fun b => reelWait (s.modCtx n fun y =>
          { y with tops := y.tops ++ [{ bleach := b, tint := t, core := c, agent := 16 }] }) c (.tint t)
        exec (.hypBleach rd rs1) s = .next (asked true) ∧
        ((s.core c).wp = [] → exec (.hypFix rd rs1) s = .next (asked false)))) ∧
    (1023 < t → exec (.hypStat rd rs1) s = .next (reelWrite s c rd (BitVec.allOnes 64))) ∧
    (t ≤ 1023 → (x.tint t).st ≠ .retired → exec (.hypStat rd rs1) s = .next (reelWrite s c rd (BitVec.ofNat 64
      (2 ^ 32 * x.freeCount + 2 ^ 22 * x.children t + 2 ^ 12 * (x.tint t).parent + 2 ^ 7 * (x.tint t).depth +
        (x.tint t).st.code)))) ∧
    (t ≤ 1023 → (x.tint t).st = .retired → exec (.hypStat rd rs1) s = .next (reelWrite s c rd (BitVec.ofNat 64
      (2 ^ 32 * x.freeCount + 2 ^ 22 * x.children t + 2 ^ 12 * (x.tint t).fwd.getD 0 + 2 ^ 7 * (x.tint t).depth +
        2 ^ 3 * (x.tint t).fixed.toNat + 4)))) ∧
    (1023 < t → fails (.hypEnter rd rs1) 2) ∧ (t ≤ 1023 → x.isLive t = false → fails (.hypEnter rd rs1) 1) ∧
    (t ≤ 1023 → x.isLive t = true → exec (.hypEnter rd rs1) s =
      .next (reelWrite (s.modReel c fun r => { r with view := t }) c rd (BitVec.ofNat 64 r.view)))

/-- err.pop takes the oldest report of the reel's context from its die, stores it and gives its first word, or gives 0
where there is none. slot.admit gives a slot that is not active its new generation and the pages that it asks for;
slot.retire gives the generation, and its pages drain. gp.rd gives a parameter of the queue. -/
def ReelServices : Prop :=
  (∀ (s : State) (c : Nat) (rd rs1 : BitVec 5), ReelTurns s c →
    let a := ((s.reelOf c).xget rs1.toNat).toNat
    let mine := (s.die (dieOf c)).errq.findIdx? fun w => w / 2 ^ 80 % 256 == (s.crew c).ctx
    (a % 32 ≠ 0 → exec (.errPop rd rs1) s = .next (reelRaise s c 6 (BitVec.ofNat 64 a))) ∧
    (a % 32 = 0 → mine = none → exec (.errPop rd rs1) s = .next (reelWrite s c rd 0)) ∧
    ∀ i t, a % 32 = 0 → mine = some i → reelStore s c a (toBytes 32 ((s.die (dieOf c)).errq.getD i 0)) = .ok t →
      exec (.errPop rd rs1) s = .next (reelWrite (t.modDie (dieOf c) fun d => { d with errq := dropAt i d.errq }) c rd
        (BitVec.ofNat 64 ((s.die (dieOf c)).errq.getD i 0)))) ∧
  (∀ (s : State) (c : Nat) (rd rs1 rs2 : BitVec 5), ReelTurns s c →
    let t := ((s.reelOf c).xget rs1.toNat).toNat
    let n := ((s.reelOf c).xget rs2.toNat).toNat
    let q := (s.crew c).ctx
    let x := s.ctx q
    let fails := fun (m : Nat) => exec (.slotAdmit rd rs1 rs2) s = .next (reelWrite s c rd (BitVec.ofNat 64 (2 ^ 63 + m)))
    (255 < t → fails 2) ∧ (t ≤ 255 → (x.slots.get t).active = true → fails 1) ∧
    (t ≤ 255 → (x.slots.get t).active = false → n = 0 ∨ 65536 < n → fails 3) ∧
    (t ≤ 255 → (x.slots.get t).active = false → 1 ≤ n → n ≤ 65536 →
      x.slotCnt < x.usedPages.length + n → fails 4) ∧
    (t ≤ 255 → (x.slots.get t).active = false → 1 ≤ n → n ≤ 65536 → x.usedPages.length + n ≤ x.slotCnt →
      ∃ u, exec (.slotAdmit rd rs1 rs2) s =
          .next (reelWrite u c rd (BitVec.ofNat 64 (((x.slots.get t).gen + 1) % 2 ^ 16))) ∧
        ((u.ctx q).slots.get t).active = true ∧ ((u.ctx q).slots.get t).gen = ((x.slots.get t).gen + 1) % 2 ^ 16 ∧
        ((u.ctx q).slots.get t).pages.length = n ∧
        ((u.ctx q).slots.get t).pages.Nodup ∧
        (∀ p ∈ ((u.ctx q).slots.get t).pages, p < x.slotCnt ∧ (∀ j, j ≠ t → p ∉ (x.slots.get j).pages) ∧
          ∀ d ∈ x.drain, d.page ≠ p) ∧ ∀ j, j ≠ t → (u.ctx q).slots.get j = x.slots.get j)) ∧
  (∀ (s : State) (c : Nat) (rd rs1 : BitVec 5), ReelTurns s c →
    let t := ((s.reelOf c).xget rs1.toNat).toNat
    let q := (s.crew c).ctx
    let b := (s.ctx q).slots.get t
    let fails := fun (m : Nat) => exec (.slotRetire rd rs1) s = .next (reelWrite s c rd (BitVec.ofNat 64 (2 ^ 63 + m)))
    (255 < t → fails 2) ∧ (t ≤ 255 → b.active = false → fails 1) ∧
    (t ≤ 255 → b.active = true → exec (.slotRetire rd rs1) s = .next (reelWrite (s.modCtx q fun x =>
      { x with slots := x.slots.set t { gen := b.gen, active := false, pages := [] }
               drain := x.drain ++ b.pages.map fun p => { page := p, slot := t, gen := b.gen } }) c rd
        (BitVec.ofNat 64 b.gen)))) ∧
  ∀ (s : State) (c : Nat) (rd rs1 : BitVec 5), ReelTurns s c →
    let n := ((s.reelOf c).xget rs1.toNat).toNat
    (63 < n → exec (.gpRd rd rs1) s = .next (reelWrite s c rd (BitVec.ofNat 64 (2 ^ 63 + 2)))) ∧
    (n ≤ 63 → exec (.gpRd rd rs1) s = .next (reelWrite s c rd
      ((s.queues.get (s.ascents.get (s.flight (s.crew c).flight).ascent).queue).gp.get n)))

/-- uev.ret ends the handler and goes on at UEVEPC, with 0 in rd, and a kite parked with the event just taken flies again
under action 0 and drains under action 1; outside a handler it gives 2^63 + 2, with another action 2^63 + 1.
ascent.done kills every kite that is not LANDED and begins the end of the crew. -/
def ReelReturns : Prop :=
  (∀ (s : State) (c : Nat) (rd rs1 : BitVec 5), ReelTurns s c →
    let r := s.reelOf c
    let a := (r.xget rs1.toNat).toNat
    let x := s.kite c r.uevAgent
    (r.uevAct = false → exec (.uevRet rd rs1) s = .next (reelWrite s c rd (BitVec.ofNat 64 (2 ^ 63 + 2)))) ∧
    (r.uevAct = true → 1 < a → exec (.uevRet rd rs1) s = .next (reelWrite s c rd (BitVec.ofNat 64 (2 ^ 63 + 1)))) ∧
    (r.uevAct = true → a ≤ 1 → 16 ≤ r.uevAgent →
      exec (.uevRet rd rs1) s = .next (s.modReel c fun r =>
        { r.xset rd.toNat 0 with uevAct := false, pc := 4 * r.uevEpc, wait := .none })) ∧
    (r.uevAct = true → r.uevAgent < 16 → x.st = .parked → r.uevPark = true → x.req = none →
      (∀ e ∈ (s.crew c).events, e.park = true → e.agent ≠ r.uevAgent) → x.region = none → x.pend = [] →
      (a = 0 → x.resume = .here → (x.buf x.cur).filling = false →
        ∃ t, exec (.uevRet rd rs1) s = .next t ∧ (t.kite c r.uevAgent).st = .flying ∧
          (t.kite c r.uevAgent).cur = x.cur ∧ (t.kite c r.uevAgent).idx = x.idx ∧
          (t.reelOf c).pc = 4 * r.uevEpc ∧ (t.reelOf c).uevAct = false) ∧
      (a = 1 → ∃ t, exec (.uevRet rd rs1) s = .next t ∧ (t.kite c r.uevAgent).st = .draining ∧
        (t.reelOf c).pc = 4 * r.uevEpc ∧ (t.reelOf c).uevAct = false))) ∧
  ∀ (s : State) (c : Nat), ReelTurns s c → (∀ k, (s.kite c k).region = none ∧ (s.kite c k).pend = []) →
    ∃ t, exec .ascentDone s = .next t ∧ (t.crew c).ending = true ∧ (t.reelOf c).wait = .crewDone ∧
      ∀ k < 16, (t.kite c k).st = .landed ∨ (t.kite c k).st = .draining ∨ (t.kite c k).st = .absent

end Sys2Proof.Machine

/-- R270, R289, R356, R362, R370, R371: the instructions of the reel on engines, hypotheses, errors, batch slots and
parameters, the end of its crew and the return from its handler. Details are by the reading of log 13. -/
def Obligations.ReelOnTheMachine : Prop := ReelEngines ∧ ReelHypotheses ∧ ReelServices ∧ ReelReturns

/-! ## The engines -/

namespace Sys2Proof.Machine

/-- epush offers the command in s[C] to s[C + 7] under the kite's view: an accepted one gives its promise and closes the
strip, a full port waits, and a refused one parks the kite with its trap. epop gives the four words of the oldest
result and takes it, and waits for one; estat gives the port's status. -/
def KitePorts : Prop :=
  (∀ (s : State) (c k : Nat) (f : Fields), Issues (.epush f) s c k →
    let x := s.kite c k
    let d := (List.range 8).map fun i => x.sget (opdValue f.c + i)
    let push := pushCommand s c (opdValue f.b) k x.tintv d fun s => flushPend s c k
    (kiteOrphan s c x = true → exec (.epush f) s = .next (trapKite s c k (orphanTrap x 0) .here none)) ∧
    (kiteOrphan s c x = false →
      (∀ t p, push = .done t p → exec (.epush f) s = .next (retire ((closeStrip t c k).modKite c k fun y =>
        y.sset (opdValue f.a) p) c k f.yld)) ∧
      (∀ t w, push = .wait t w → exec (.epush f) s = .next (waitKite t c k w)) ∧
      ∀ r, push = .refused r → exec (.epush f) s = .next (trapKite r.s c k r.t .here r.req))) ∧
  (∀ (s : State) (c k : Nat) (f : Fields), Issues (.epop f) s c k →
    let port := opdValue f.b
    (((s.crew c).ports.get port).res = [] → exec (.epop f) s = .next (waitKite s c k (.epop port))) ∧
    ∀ r rs, ((s.crew c).ports.get port).res = r :: rs → r.w.length = 4 →
      ∃ t, exec (.epop f) s = .next (retire t c k f.yld) ∧ ((t.crew c).ports.get port).res = rs ∧
        ∀ i < 4, (t.kite c k).sget (opdValue f.a + i) = if opdValue f.a + i = 0 then 0 else r.w.getD i 0) ∧
  ∀ (s : State) (c k : Nat) (f : Fields), Issues (.estat f) s c k →
    exec (.estat f) s = .next (retire (s.modKite c k fun y =>
      y.sset (opdValue f.a) (portStatus s c (opdValue f.b))) c k f.yld)

/-- A push of a command with a bad field is refused with RECORD_BAD; one of a good copy to e0 or e1, with nothing
buffered in the core, joins the port if it holds fewer than 16 commands, and gives its promise; a CANCEL gives the
tick and acts through its event, which comes before every other move: the model's reading (log 25). -/
def Pushes : Prop :=
  ∀ (s : State) (c port agent view : Nat) (d : List Word), s.hasCrew c = true →
    (∀ b, cmdBad port d = some b → ∃ r, pushCommand s c port agent view d id = .refused r ∧ r.t.cause = 0x11) ∧
    (cmdBad port d = none → (s.core c).wp = [] →
      (cmdOpc d = 0x01 → port < 2 → ((s.crew c).ports.get port).cmds.length < 16 →
        ∃ t m, pushCommand s c port agent view d id = .done t (BitVec.ofNat 64 m.promise) ∧
          m ∈ ((t.crew c).ports.get port).cmds ∧ m.d = d ∧ m.agent = agent ∧ m.view = view ∧ m.units = 0 ∧
          m.started = false ∧ m.promise = m.svcEnd + m.lat + m.slack ∧ m.slack = (m.lat + m.svc + 3) / 4) ∧
      (cmdOpc d = 0x01 → 16 ≤ ((s.crew c).ports.get port).cmds.length →
        pushCommand s c port agent view d id = .wait s (.epush port)) ∧
      (cmdOpc d = 0x0F → ∃ t, pushCommand s c port agent view d id = .done t (BitVec.ofNat 64 (s.cycle c)) ∧
        t.moves = .event .cancel { unit := c } :: s.moves ∧
        (t.crew c).cancels = (s.crew c).cancels ++ [{ port := port, agent := agent, tag := cmdTag d }]))

/-- rcfence.all empties the record cache of the core; rcfence.addr removes the entries of its 64-byte aligned address,
and raises MISALIGNED on another. rcsnap gives the 64 counters as N16, clears them and turns the parity. -/
def RecordFences : Prop :=
  (∀ (s : State) (c k : Nat) (f : Fields), Issues (.rcfenceAll f) s c k →
    exec (.rcfenceAll f) s = .next (retire (s.modCore c fun p => { p with rcache := [] }) c k f.yld)) ∧
  (∀ (s : State) (c k : Nat) (f : Fields), Issues (.rcfenceAddr f) s c k →
    let a := (s.kite c k).memAddr f.a
    (a % 64 ≠ 0 → exec (.rcfenceAddr f) s = .next (trapKite s c k (trapAt 0x03 a 0) .here none)) ∧
    (a % 64 = 0 → exec (.rcfenceAddr f) s = .next (retire (s.modCore c fun p =>
      { p with rcache := p.rcache.filter fun e => e.addr != a }) c k f.yld))) ∧
  ∀ (s : State) (c k : Nat) (f : Fields), VecIssues (.rcsnap f) 0x9C f s c k →
    ∃ t, exec (.rcsnap f) s = .next (retire t c k f.yld) ∧ (t.crew c).ctr = [] ∧ (t.crew c).par = !(s.crew c).par ∧
      ∀ i < 64, ((t.kite c k).vget (opdValue f.a)).elem 5 i = (s.crew c).ctr.get i % 2 ^ 16

end Sys2Proof.Machine

/-- R248, R259, R262, R267 to R269, R273: the engine instructions of a kite, and the push of a command. Details are
by the readings of logs 23 and 24; how a CANCEL acts is the model's reading (log 25). -/
def Obligations.EngineInstructions : Prop := KitePorts ∧ Pushes ∧ RecordFences

namespace Sys2Proof.Machine

/-- The command that an engine of e0 or e1 serves on core c, with a unit left and under way. -/
structure Serving (s : State) (c port opc : Nat) (m : Cmd) : Prop where
  served  : ((s.crew c).ports.get port).served = some m
  opcode  : cmdOpc m.d = opc
  started : m.started = true
  left    : m.units < cmdUnits m.d m.dst

/-- A unit of a command performed: the state t after its accesses, with the command one unit on, its words still to perform
and the lines that it wrote noted, and finished after its last. -/
def UnitOn (e : Instr) (s t : State) (c port : Nat) (m : Cmd) (lines : List Nat) (todo : List Piece) : Prop :=
  ∃ m', exec e s = .next (putCmd t c port m') ∧ m'.id = m.id ∧ m'.d = m.d ∧ m'.units = m.units + 1 ∧
    m'.stat = m.stat ∧ m'.todo = todo ∧ m'.wrote = distinct (m.wrote ++ lines) ∧
    (m'.finished = true ↔ m.units + 1 = cmdUnits m.d m.dst)

/-- A unit that fails stops its command with the status and the address of the failure, and releases its banks. -/
def UnitStops (e : Instr) (s : State) (c port : Nat) (m : Cmd) (x : UFail) : Prop :=
  ∃ m', exec e s = .next (putCmd x.s c port m') ∧ m'.id = m.id ∧ m'.units = m.units ∧ m'.finished = true ∧
    m'.stat = x.stat ∧ m'.aux = x.aux ∧ m'.banks = []

/-- What a unit does to its command: nothing where it cannot be performed now. -/
def UnitEnds (e : Instr) (s : State) (c port : Nat) (m : Cmd) (r : URes) : Prop :=
  (r = .hold → exec e s = .next s) ∧ (∀ x, r = .fail x → UnitStops e s c port m x) ∧
    ∀ t ls todo, r = .ok t ls todo → UnitOn e s t c port m ls todo

/-- LIN, TENS and ROWS perform the copies of their next unit, GATH and SCAT the rows that their indices name, PAGE its
page; each counts it, or stops its command where an access fails. -/
def UnitsPerform : Prop :=
  (∀ e ∈ [(Instr.lin, 0x01, linItems), (.tens, 0x02, tensItems), (.rows, 0x03, rowsItems)],
    ∀ (s : State) (m : Cmd), Serving s s.ev.unit 0 e.2.1 m →
      UnitEnds e.1 s s.ev.unit 0 m (runItems s s.ev.unit 0 m (e.2.2 m m.units))) ∧
  (∀ e ∈ [(Instr.gath, 0x11, false), (.scat, 0x12, true)],
    ∀ (s : State) (m : Cmd), Serving s s.ev.unit 1 e.2.1 m →
      cmdOrphan s s.ev.unit m = false → cmdFixing s s.ev.unit m = false →
      let n := min 64 (dw m.d 6 % 2 ^ 32 - 64 * m.units)
      (∀ x, readIndices s s.ev.unit 1 m (64 * m.units) n = .error x → UnitStops e.1 s s.ev.unit 1 m x) ∧
      ∀ xs s', readIndices s s.ev.unit 1 m (64 * m.units) n = .ok (xs, s') →
        let rows := (xs.zipIdx).flatMap fun r => rowItem m e.2.2 (64 * m.units + r.2) r.1
        (∀ x, runItems s' s.ev.unit 1 m rows = .fail x → UnitStops e.1 s s.ev.unit 1 m x) ∧
        ∀ t ls todo, runItems s' s.ev.unit 1 m rows = .ok t ls todo → UnitOn e.1 s t s.ev.unit 1 m ls todo) ∧
  ∀ (s : State) (m : Cmd), servedPage s s.ev.unit s.ev.value = some m → m.started = true →
    m.units < cmdUnits m.d m.dst → s.ev.item ∉ m.pages → s.ev.item < cmdUnits m.d m.dst → cmdOpc m.d = 0x21 →
    m.finished = false →
    UnitEnds .page s s.ev.unit 2 m (pageUnit s s.ev.unit 2 m s.ev.item)

/-- SAMP takes its next 256 logits. After its last unit it chooses the token (`sampEnd`) and writes its state block of 64
bytes back, and the result reports TOK, P and whether the draft was accepted; a unit whose accesses fail, and a block
that cannot be written, stop the command with their status. -/
def SamplesPerform : Prop :=
  ∀ (s : State) (m : Cmd), Serving s s.ev.unit 0 0x04 m →
    let c := s.ev.unit
    let u := sampUnit s c 0 m m.units
    (u.1 = .hold → exec .samp s = .next s) ∧
    (∀ x, u.1 = .fail x → UnitStops .samp s c 0 m x) ∧
    (m.units + 1 < cmdUnits m.d m.dst → ∀ t ls todo, u.1 = .ok t ls todo → UnitOn .samp s t c 0 m ls todo) ∧
    (m.units + 1 = cmdUnits m.d m.dst → ∀ t ls todo, u.1 = .ok t ls todo →
      let m1 : Cmd := { u.2 with units := m.units + 1, wrote := distinct (m.wrote ++ ls), todo := todo }
      let free := Config.freeNat t.draws % 2 ^ 32
      let e := sampEnd m.d u.2.samp free
      let block : CopyItem := { val := some (toBytes 64 e.1.block), dst := (srcSide m.d, dw m.d 1), n := 64 }
      let w := runItems { t with draws := t.draws + 1 } c 0 m1 [block]
      (w = .hold → exec .samp s = .next (putCmd t c 0 m1)) ∧
      (∀ v ls todo, w = .ok v ls todo → ∃ m', exec .samp s = .next (putCmd v c 0 m') ∧ m'.id = m.id ∧
        m'.units = m.units + 1 ∧ m'.finished = true ∧ m'.stat = m.stat ∧ m'.samp = e.1 ∧
        m'.aux = e.1.tok + e.2.1 * 2 ^ 32 ∧ m'.acpt = e.2.2) ∧
      ∀ x, w = .fail x → ∃ m', exec .samp s = .next (putCmd x.s c 0 m') ∧ m'.id = m.id ∧
        m'.units = m.units + 1 ∧ m'.finished = true ∧ m'.stat = x.stat ∧ m'.aux = x.aux)

/-- LIN of one unit within the core's own scratchpad, between ranges apart, whose words perform at once: the destination receives the source bytes,
every other byte of the scratchpad and all module memory are as before. -/
def LinCopies : Prop :=
  ∀ (s : State) (m : Cmd), Serving s s.ev.unit 0 0x01 m →
    let c := s.ev.unit
    let n := dw m.d 5
    let a := dw m.d 1
    let b := dw m.d 2
    s.ev.sub ≠ 1 → m.todo = [] → m.units = 0 → n ≤ 4096 → srcSide m.d = { space := 1 } → dstSide m.d = { space := 1 } →
    a + n ≤ b ∨ b + n ≤ a → a + n ≤ extent s c 1 → b + n ≤ extent s c 1 → s.hasCrew c = true →
    cmdOrphan s c m = false → Memory.wf (spMem s c 1) = true →
    ∃ t, exec .lin s = .next t ∧ memRead (spMem t c 1) b n = memRead (spMem s c 1) a n ∧
      (∀ i, i < b ∨ b + n ≤ i → memGet (spMem t c 1) i = memGet (spMem s c 1) i) ∧ SameMemory s t

/-- COMMAND_COMPLETE takes a finished command, its counter incremented and its last words performed, from its port and
posts its result, but for a good one with NORES and for that of a crew that ends; the moves that waited for a SAMP's
tile go on. ARRIVAL_COUNTER_INCREMENT, the words that it counts performed, adds 1 to the counter at D4 in committed
memory, or gives the command the status of a counter that is misaligned. PROMISE_MISSED notes the miss, once, and with
PMT tells the pusher; BANK_RESERVATION_LIMIT begins the reservations that have lasted 200 ticks anew; CANCEL takes the
oldest CANCEL of the core and stops its command with status 1, CANCELLED, where that has not failed, and not one whose
counter has been incremented. -/
def CommandEvents : Prop :=
  (∀ (s : State) (m : Cmd),
    let c := s.ev.unit
    let port := s.ev.sub
    let u := flushCmd s c port m
    findCmd s c port s.ev.item = some m → m.finished = true → m.dueCounts = 0 → m.linked s = true →
    m.started = true ∨ ((s.crew c).ports.get port).taken < 16 → m.missed = true ∨ u.cycle c ≤ m.promise →
    let aux := if m.stat = 1 ∨ m.stat = 6 ∨ (m.stat = 0 ∧ cmdOpc m.d ≠ 0x04) then 0 else m.aux
    let w0 := cmdTag m.d + 2 ^ 16 * m.stat + 2 ^ 24 * m.missed.toNat + 2 ^ 25 * m.acpt.toNat + 2 ^ 40 * m.agent
    let r : Result := { w := [w0, m.done, u.cycle c, aux].map (BitVec.ofNat 64), lines := m.wrote }
    let none_ := (m.stat = 0 ∧ cmdNores m.d = true) ∨ (u.crew c).ending = true
    let taken := u.modCrew c fun w => w.modPort port fun p =>
      { cmds := p.cmds.filter fun x => x.id != m.id, res := if none_ then p.res else p.res ++ [r] }
    exec .commandComplete s = .next (if cmdOpc m.d = 0x04 then drainMoves taken c (sampAcc m.d) 4 else taken)) ∧
  (∀ (s : State) (m : Cmd),
    let c := s.ev.unit
    let u := flushCmd s c s.ev.sub m
    let a := dw m.d 4
    findCmd s c s.ev.sub s.ev.item = some m → m.dueCounts ≠ 0 → m.linked s = true →
    (a % 8 ≠ 0 → exec .arrivalCounterIncrement s = .next (modCmd u c s.ev.sub m.id fun x =>
      { x with stat := 4, aux := a })) ∧
    ∀ p s', a % 8 = 0 → engXlat u c m a .atomic = .ok (p, s') → (s'.core c).wp = [] →
      dieStores s' (dieOf c) = [] → Memory.wf s'.mem = true →
      ∃ t, exec .arrivalCounterIncrement s = .next t ∧ memRead t.mem p 8 = (memRead s'.mem p 8 + 1) % 2 ^ 64 ∧
        ∀ b, b < p ∨ p + 8 ≤ b → memGet t.mem b = memGet s'.mem b) ∧
  (∀ (s : State) (m : Cmd),
    let c := s.ev.unit
    let noted := modCmd s c s.ev.sub m.id fun x => { x with missed := true }
    let tag := BitVec.ofNat 64 (cmdTag m.d)
    findCmd s c s.ev.sub s.ev.item = some m → m.promise < s.cycle c →
    (m.missed = true → exec .promiseMissed s = .next s) ∧
    (m.missed = false → cmdPmt m.d = false → exec .promiseMissed s = .next noted) ∧
    (m.missed = false → cmdPmt m.d = true → m.agent = 16 →
      exec .promiseMissed s = .next (reelEvent noted c 0x07 tag)) ∧
    (m.missed = false → cmdPmt m.d = true → m.agent ≠ 16 →
      exec .promiseMissed s = .next (lateTrap noted c m.agent { cause := 0x07, va := 0, elt := tag } none))) ∧
  (∀ (s : State) (m : Cmd),
    let c := s.ev.unit
    let now := s.cycle c
    ((s.crew c).ports.get 0).served = some m →
    exec .bankReservationLimit s = .next (modCmd s c 0 m.id fun x =>
      { x with banks := x.banks.map fun h => { h with at_ := if h.at_ + 200 ≤ now then now else h.at_ } })) ∧
  ∀ (s : State) (t : CancelTok) (ts : List CancelTok),
    let c := s.ev.unit
    let cmds := ((s.crew c).ports.get t.port).cmds
    (s.crew c).cancels = t :: ts →
    (cancelTarget cmds t = none →
      exec .cancel s = .next (s.modCrew c fun w => { w with cancels := ts })) ∧
    (∀ m, cancelTarget cmds t = some m → m.counted ≠ 0 → cmdCpp m.d = false →
      exec .cancel s = .next (s.modCrew c fun w => { w with cancels := ts })) ∧
    ∀ m, cancelTarget cmds t = some m → m.counted = 0 ∨ cmdCpp m.d = true → (∀ x ∈ cmds, x.id = m.id → x = m) →
      ∃ u, exec .cancel s = .next u ∧ (u.crew c).cancels = ts ∧
        (∃ x ∈ ((u.crew c).ports.get t.port).cmds, x.id = m.id) ∧
        ∀ x ∈ ((u.crew c).ports.get t.port).cmds, x.id = m.id →
          x.finished = true ∧ x.units = m.units ∧ x.stat = if m.stat = 0 then 1 else m.stat

end Sys2Proof.Machine

/-- R245 to R247, R251, R252, R257, R261 to R263, R265, R312, R326: the steps of the engines. Details are by the
readings of logs 22, 24, 25 and 26. -/
def Obligations.EngineEvents : Prop := UnitsPerform ∧ SamplesPerform ∧ LinCopies ∧ CommandEvents

/-! ## The events of a core -/

namespace Sys2Proof.Machine

/-- BLOCK_FILL_END puts the words of a block's six lines into the buffer, a line that the fill has read before as it was
then, and the others, here with an empty instruction cache, as committed memory holds them; and a kite that waits for it flies; WAIT_CONDITION_CLEAR lets a kite whose condition has cleared fly
at its position; SLEEP_EXPIRY a sleeper whose tick has come. DRAIN_COMPLETE lands a kite whose instructions have
completed; a killed one owns no tile then. -/
def KiteWakes : Prop :=
  (∀ s : State,
    let c := s.ev.unit
    let k := s.ev.sub
    let x := s.kite c k
    let j := s.ev.item % 2
    let b := x.buf j
    let line := fun i => match b.got.find i with
      | some d => d % 2 ^ 512
      | none => memRead s.mem (b.pas.getD i 0) 64
    let block := line 0 + 2 ^ 512 * line 1 + 2 ^ 1024 * line 2 + 2 ^ 1536 * line 3 + 2 ^ 2048 * line 4 + 2 ^ 2560 * line 5
    b.filling = true → (s.core c).ic = [] → (∀ i, b.pas.getD i 0 % 64 = 0) →
    ∃ t, exec .blockFillEnd s = .next t ∧ SameMemory s t ∧ ((t.kite c k).buf j).filling = false ∧
      (∀ i < 32, ((t.kite c k).buf j).words[i]? = some (BitVec.ofNat 96 (block / 2 ^ (96 * i)))) ∧
      (x.st = .waiting → x.wait = .fill j → (t.kite c k).st = .flying) ∧
      (x.wait ≠ .fill j → (t.kite c k).st = x.st) ∧ (t.kite c k).cur = x.cur ∧ (t.kite c k).idx = x.idx) ∧
  (∀ s : State,
    let c := s.ev.unit
    let k := s.ev.sub
    let flies := s.modKite c k fun x => { x with st := .flying, wait := .none }
    ((s.kite c k).st = .waiting → waitClear s c k (s.kite c k) = true → exec .waitConditionClear s = .next flies) ∧
    (∀ t, k < 16 → (s.kite c k).st = .waiting → (s.kite c k).wait = .sleep t → t ≤ s.cycle c →
      exec .sleepExpiry s = .next flies) ∧
    (∀ t, k = 16 → (s.reelOf c).wait = .sleep t → s.crewRuns c = true → (s.crew c).ending = false → t ≤ s.cycle c →
      exec .sleepExpiry s = .next (s.modReel c fun r => { r with wait := .none }))) ∧
  ∀ s : State,
    let c := s.ev.unit
    let k := s.ev.sub
    let x := s.kite c k
    x.st = .draining → x.vq = [] → x.pend = [] → (s.crew c).queuedFor k none = false → (∀ a, x.wait ≠ .atomicOp a) →
    rewindAsked s c k = false →
    ∃ t, exec .drainComplete s = .next t ∧ OnlyCrew c s t ∧ (t.kite c k).st = .landed ∧ (t.kite c k).s = x.s ∧
      (t.kite c k).p = x.p ∧ (t.kite c k).v = x.v ∧ (t.kite c k).cur = x.cur ∧ (t.kite c k).idx = x.idx ∧
      (x.killed = true → ∀ e ∈ (t.crew c).tiles, e.2.owner ≠ some k) ∧
      (x.killed = false → (t.crew c).tiles = (s.crew c).tiles)

/-- KITE_WAIT_DEADLINE ends a kite.wait whose deadline has come with bit 63 set beside the masks. QUEUE_STALL parks a
kite that has waited 4,194,304 ticks on a queue, tether or engine, with the code of its channel, and posts the event
of a reel. -/
def WaitsEnd : Prop :=
  (∀ (s : State) (q d : Nat) (rd rs1 rs2 : BitVec 5),
    let c := s.ev.unit
    let m := (s.reelOf c).xget rs1.toNat
    let named := fun k => decide (k < (s.crew c).n) && m.getLsbD k
    (s.reelOf c).wait = .kites q d → waitingInstr s c = some (.kiteWait rd rs1 rs2) → s.crewRuns c = true →
    (s.crew c).ending = false → d ≠ 0 → d ≤ s.cycle c → ((s.reelOf c).xget rs2.toNat).toNat = d →
    (∃ k, Named s c m k ∧ (s.kite c k).st ≠ .landed ∧ (s.kite c k).st ≠ .parked) →
    ∃ t, exec .kiteWaitDeadline s = .next (reelWrite t c rd (BitVec.ofNat 64
      ((maskOf fun k => named k && (s.kite c k).st == .landed) +
        2 ^ 16 * (maskOf fun k => named k && (s.kite c k).st == .parked) + 2 ^ 63)))) ∧
  ∀ s : State,
    let c := s.ev.unit
    let k := s.ev.sub
    let x := s.kite c k
    let channel := fun (w : WaitOn) => match w with
      | .qpush q | .qpop q => some q
      | .trecv t => some (8 + t)
      | .tsend d => some (10 + d)
      | .epush e | .pushRelease e _ | .epop e => some (16 + e)
      | _ => none
    (∀ n, k ≠ 16 → channel x.wait = some n → x.st = .waiting → x.since + 4194304 ≤ s.cycle c →
      exec .queueStall s = .next (trapKite s c k (trapAt 0x0B x.addr n) .here none)) ∧
    (∀ n, k = 16 → channel (s.reelOf c).wait = some n → s.crewRuns c = true → (s.crew c).ending = false →
      (s.reelOf c).since + 4194304 ≤ s.cycle c →
      exec .queueStall s = .next (reelEvent (s.modReel c fun r => { r with since := s.cycle c }) c 0x0B
        (BitVec.ofNat 64 (s.reelOf c).pc)))

/-- The nested instructions and spsrch, which may read bound registers late, by their OP and FN. -/
def nestedReaders : List (Nat × Nat × (Fields → State → Nat → Nat → VCtx → Except KFail (State × Nat))) :=
  [(0x80, 0, nredMem .add), (0x80, 1, nredMem .min), (0x80, 2, nredMem .max), (0x80, 3, nredMem .and),
    (0x80, 4, nredMem .or), (0x80, 5, nredMem .xor), (0x81, 0, nscanMem .add), (0x81, 1, nscanMem .min),
    (0x81, 2, nscanMem .max), (0x81, 3, nscanMem .and), (0x81, 4, nscanMem .or), (0x81, 5, nscanMem .xor),
    (0x82, 0, npackMem), (0x83, 0, ndistMem), (0x86, 0, nflatMem), (0x87, 0, nsortMem), (0x9B, 0, spsrchMem)]

/-- ARRIVAL_MARKER takes the marker at the head of a kite's vector queue, with nothing buffered in the core, and counts its
arrival in the phase that it was placed for; where other arrivals have completed that one since, it joins their record
(R114). WRITE_PATH_DRAIN performs the oldest store of a core on committed memory. VECTOR_INSTRUCTION_COMPLETE performs
the first instruction that waits, with what it captured, and ends one that has performed, which delivers its flags; a
load whose data is under way reads it then, unless its view is being fixed, and writes its register, and so do an nshld
and a reader of bound registers, which performs then; a store that the end of its strip has performed keeps what it
wrote (log 11). -/
def CoreQueues : Prop :=
  (∀ (s : State) (m : Marker) (e : VqEntry) (es : List VqEntry),
    let c := s.ev.unit
    let k := s.ev.sub
    let b := barUnit s c m.unit
    (s.kite c k).vq = e :: es → e.marker = some m → (s.kite c k).pend = [] → (s.core c).wp = [] →
    ∃ t, exec .arrivalMarker s = .next t ∧ (t.kite c k).vq = es ∧ (t.kite c k).arr = (s.kite c k).arr ∧
      (m.phase = b.phase → barUnit t c m.unit = b.arrive c m.count m.scope) ∧
      (m.phase ≠ b.phase →
        barUnit t c m.unit = { b with past := (barUnit t c m.unit).past } ∧
        (barUnit t c m.unit).past.get m.phase = b.past.get m.phase ++ [(c, m.scope)])) ∧
  (∀ (s : State) (e : WpStore) (es : List WpStore),
    let c := s.ev.unit
    s.ev.ok = false → s.ev.item = 0 → (s.core c).wp = e :: es → canDrain s c 0 = true →
    (s.ctx e.ctx).resolve e.view = 0 →
    ∃ t, exec .writePathDrain s = .next t ∧ (t.core c).wp = es ∧ t.mem = memMerge s.mem e.bytes) ∧
  (∀ (s : State) (v : VqEntry),
    let c := s.ev.unit
    let k := s.ev.sub
    let i := s.ev.item
    (s.kite c k).vq[i]? = some v → v.marker = none → v.dispatched = true →
    let ends := fun (t : State) => t.modKite c k fun x => { x with vq := dropAt i x.vq, fpflags := x.fpflags ||| v.flags }
    (v.load = none → exec .vectorInstructionComplete s = .next (ends s)) ∧
    ∀ h, v.load = some h →
      (h.space = 0 → (s.ctx (s.crew c).ctx).orphaned v.ctx.view = true →
        exec .vectorInstructionComplete s = .next (lateTrap (ends s) c k
          (trapAt 0x08 ((h.elems.head?.map (·.va)).getD 0) v.ctx.view) none)) ∧
      (h.space = 0 → (s.ctx (s.crew c).ctx).orphaned v.ctx.view = false →
        viewFixing s (s.crew c).ctx v.ctx.view = true → exec .vectorInstructionComplete s = .next s) ∧
      (h.space ≠ 0 ∨ ((s.ctx (s.crew c).ctx).orphaned v.ctx.view = false ∧
          viewFixing s (s.crew c).ctx v.ctx.view = false) →
        let r := vecReadAll s c k h.space h.rd h.reads
        (v.op ∈ [0x70, 0x72, 0x74, 0x75] →
          exec .vectorInstructionComplete s = .next (ends (
            if v.op = 0x75 then r.2.modKite c k fun y => y.putBlocks v.f v.ctx (r.1.map (·.2))
            else if v.op = 0x74 then vldffInto r.2 c k v.f v.ctx r.1
            else loadInto r.2 c k v.f v.ctx r.1 fun i => (h.elems.find? fun l => l.i == i).all (·.ok)))) ∧
        (0x46 ≤ v.op → v.op ≤ 0x6F →
          exec .vectorInstructionComplete s = .next (r.2.modKite c k fun y =>
            let p := y.performTrailing v r.1
            { p.1 with vq := dropAt i p.1.vq, fpflags := p.1.fpflags ||| (v.flags ||| p.2) })) ∧
        (∀ e ∈ nestedReaders, ∀ (u : State) (fl : Nat), v.op = e.1 → v.f.fn.toNat = e.2.1 →
          let ds := decodeHeld (r.2.kite c k) v.ctx (vecReads v.op v.f) r.1
          e.2.2 v.f (r.2.modKite c k fun y => y.take ds) c k v.ctx = .ok (u, fl) →
          ∃ t, exec .vectorInstructionComplete s = .next t ∧ (t.kite c k).vq = dropAt i (u.kite c k).vq ∧
            (v.f.lst = false → (t.kite c k).v = (u.kite c k).v) ∧ (t.kite c k).h = (u.kite c k).h ∧
            (t.kite c k).k = (u.kite c k).k ∧
            (t.kite c k).fpflags = ds.foldl (fun m d => m ||| d.fl) ((u.kite c k).fpflags ||| v.flags) ||| fl) ∧
        (v.op ∈ [0x71, 0x73, 0x76] → v.f.lst = false →
          let x := s.kite c k
          ∃ t, exec .vectorInstructionComplete s = .next t ∧ (t.kite c k).vq = dropAt i x.vq ∧
            (t.kite c k).pend.map (fun p => p.bytes.map (·.addr)) = x.pend.map (fun p => p.bytes.map (·.addr)) ∧
            (x.pend.any (·.late) = false → (t.kite c k).pend = x.pend ∧ (t.kite c k).v = x.v)) ∧
        (v.op = 0x88 →
          let q := vecReadFrom s c k h.space h.rd (h.reads.map fun l => lineOf (l.2.headD {}).a) h.reads
          exec .vectorInstructionComplete s =
            .next (ends (q.2.modKite c k fun y => y.takeImage v h (q.1.map (·.2))))))) ∧
  ∀ e ∈ arithForms, ∀ (s : State) (v : VqEntry),
    let c := s.ev.unit
    let k := s.ev.sub
    let x := s.kite c k
    x.vq[s.ev.item]? = some v → v.op = e.2.1 → (e.1 v.f).WellFormed → firstHeld x.vq = some s.ev.item →
    x.st ≠ .parked → movesQueued s c k = false →
    let r := e.2.2 x v.f v.ctx
    exec .vectorInstructionComplete s = .next (s.modKite c k fun _ =>
      let y := r.1.finishLst v.op v.f
      { y with vq := modifyAt (fun q => { q with dispatched := true, flags := r.2 }) s.ev.item y.vq, dispWait := 0 })

/-- FIX starts the first operation of a context's table, no word of a command being left to perform, and completes it: the
tint is RETIRED, fixed, and forwards to its parent, no version of it is left, the bytes that it held become the
parent's, here those of committed memory, the stores of it that write paths hold are the parent's, and a rege that
waited for it goes on under the parent with no region. -/
def Fixes : Prop :=
  ∀ (s : State) (o : TintOp) (os : List TintOp),
    let n := s.ev.unit
    let p := ((s.ctx n).tint o.tint).parent
    (s.ctx n).tops = o :: os → o.bleach = false → o.rewind = false → 1 ≤ o.tint → o.tint < 1024 →
    (o.started = false → (s.ctx n).isLive o.tint = true → piecing s n = false →
      ∃ t, exec .fix s = .next t ∧ ((t.ctx n).tint o.tint).st = .fixing ∧ ((t.ctx n).tint o.tint).parent = p ∧
        (t.ctx n).tops = { o with started := true, count := 1 } :: os) ∧
    (o.started = false → (s.ctx n).isLive o.tint = false → o.agent = 16 → (s.reelOf o.core).wait = .tint o.tint →
      ∃ t, exec .fix s = .next t ∧ (t.ctx n).tops = os ∧
        (t.reelOf o.core).wait = .result (BitVec.ofNat 64 (2 ^ 63 + 1))) ∧
    (o.started = true →
      ∃ t, exec .fix s = .next t ∧ (t.ctx n).tops = os ∧ ((t.ctx n).tint o.tint).st = .retired ∧
        ((t.ctx n).tint o.tint).fwd = some p ∧ ((t.ctx n).tint o.tint).fixed = true ∧
        (∀ c, (t.core c).wp = (s.core c).wp.map fun e => if e.ctx = n ∧ e.view = o.tint then { e with view := p } else e) ∧
        (p ≠ o.tint → ∀ v ∈ t.vers, ¬ (v.ctx = n ∧ v.tint = o.tint)) ∧
        (∀ v, p = 0 → (s.vers.filter fun u => u.ctx == n && u.tint == o.tint) = [v] → Memory.wf s.mem = true →
          (∀ j < 128, memGet t.mem (128 * v.line + j) =
            if bit v.mask j then BitVec.ofNat 8 (v.data / 2 ^ (8 * j)) else memGet s.mem (128 * v.line + j)) ∧
          ∀ a, a / 128 ≠ v.line → memGet t.mem a = memGet s.mem a) ∧
        (o.agent = 16 → (s.reelOf o.core).wait = .tint o.tint → s.hasCrew o.core = true →
          (t.reelOf o.core).wait = .result 0) ∧
        ∀ r q, o.agent < 16 → s.hasCrew o.core = true →
          let x := s.kite o.core o.agent
          x.st = .waiting → x.wait = .tint o.tint → x.region = some r → r.parent ≠ o.tint → x.repRun = false →
          x.nextPos = .ok q →
          let y := t.kite o.core o.agent
          y.region = none ∧ y.tintv = r.parent ∧ y.cur = q.1 ∧ y.idx = q.2 ∧
            y.st = (if (x.buf q.1).filling then .waiting else .flying) ∧ y.s = x.s ∧ y.v = x.v ∧ y.p = x.p)

/-- BLEACH starts: the tint is BLEACHING; and completes: every such tint of the context is RETIRED with no forwarding, and
no version of it is left; the reel receives the number of them. TINT_FREE frees a retired tint that nothing names; the others stay as they are,
and those that were fixed show so (R289). -/
def Bleaches : Prop :=
  (∀ (s : State) (o : TintOp) (os : List TintOp),
    let n := s.ev.unit
    (s.ctx n).tops = o :: os → o.bleach = true → 1 ≤ o.tint → o.tint < 1024 →
    (o.started = false → (s.ctx n).isLive o.tint = true → piecing s n = false →
      ∃ t, exec .bleach s = .next t ∧ t.vers = s.vers ∧ ((t.ctx n).tint o.tint).st = .bleaching ∧
        ∃ k, (t.ctx n).tops = { o with started := true, count := k } :: os) ∧
    (o.started = true →
      ∃ t, exec .bleach s = .next t ∧ (t.ctx n).tops = os ∧ t.mem = s.mem ∧
        (∀ u < 1024, ((s.ctx n).tint u).st = .bleaching →
          ((t.ctx n).tint u).st = .retired ∧ ((t.ctx n).tint u).fwd = none ∧
            ∀ v ∈ t.vers, ¬ (v.ctx = n ∧ v.tint = u)) ∧
        (o.agent = 16 → o.rewind = false → (s.reelOf o.core).wait = .tint o.tint → s.hasCrew o.core = true →
          (t.reelOf o.core).wait = .result (BitVec.ofNat 64 o.count)))) ∧
  ∀ s : State,
    let n := s.ev.unit
    let t := s.ev.sub
    t ≠ 0 → ((s.ctx n).tint t).st = .retired → tintNamed s n t = false →
    ∃ u, exec .tintFree s = .next u ∧ ((u.ctx n).tint t).st = .free ∧ u.vers = s.vers ∧ SameMemory s u ∧
      ∀ w, w ≠ t → ((u.ctx n).tint w).st = ((s.ctx n).tint w).st ∧
        ((u.ctx n).tint w).fixed = ((s.ctx n).tint w).fixed

/-- USER_EVENT_TAKE takes the event that is due into UEVCAUSE, UEVKITE and UEVEPC and goes to UEVVEC. ATOMICOP_COMPLETION
of an amo.add at host memory writes the sum there, gives the old value and retires the instruction, or raises ACCESS
where the host did not perform it. -/
def OutsideAnswers : Prop :=
  (∀ (s : State) (e : Event) (w : Crew),
    let c := s.ev.unit
    s.crewRuns c = true → (s.crew c).eventTime = true → (s.reelOf c).uev ≠ 0 → (s.crew c).nextEvent = some (e, w) →
    exec .userEventTake s = .next (s.modCrew c fun _ => { w with reel := { w.reel with
      uevEpc := w.reel.pc / 4, uevAct := true, uevCause := e.cause, uevAddr := e.va.toNat % 2 ^ 48
      uevAgent := e.agent, uevPark := e.park, pc := w.reel.uev * 4, wait := .none } })) ∧
  (∀ (w : Crew) (e : Event) (es : List Event), w.preempt = false → w.events = e :: es →
    (∀ a ∈ e :: es, a.agent ≠ 16) → w.nextEvent = some (e, { w with events := es })) ∧
  ∀ (s : State) (a : Nat) (f : Fields),
    let c := s.ev.unit
    let k := s.ev.sub
    let x := s.kite c k
    let n := amoBytes f
    let old := s.ev.old % 2 ^ (8 * n)
    k < 16 → x.wait = .atomicOp a → x.wordAt (x.cur, x.idx) = some (.amoAdd f) → x.st = .waiting →
    (s.ev.ok = false → exec .atomicopCompletion s =
      .next (settleLate (trapKite s c k (trapAt 0x04 (x.memAddr f.b) 0) .here none) c k)) ∧
    (s.ev.ok = true → f.xf = 0 → x.relNext = none → Memory.wf s.mem = true →
      ∃ u, exec .atomicopCompletion s = .next (settleLate (retire u c k f.yld) c k) ∧
        memRead u.mem a n = (old + (x.opd f.a).toNat) % 2 ^ (8 * n) ∧
        (opdValue f.a ≠ 0 → (u.kite c k).sget (opdValue f.a) = extendTy f.ty.toNat n old))

end Sys2Proof.Machine

/-- R49, R53, R64, R76, R77, R93, R103, R110, R111, R123, R284 to R286, R288, R290, R302, R367: the events of a
core, and of the tints of a context. Details are by the readings of logs 9, 11 and 28. That BLOCK_FILL_END reads the lines
not yet read at its event is the model's choice (log 1), and that VECTOR_INSTRUCTION_COMPLETE performs the first entry that
waits is its reading (log 15). -/
def Obligations.CoreEvents : Prop := KiteWakes ∧ WaitsEnd ∧ CoreQueues ∧ OutsideAnswers

/-- R277, R284 to R286, R288, R290: the fix, the bleach and the freeing of tints. Details are by the reading of log
27. -/
def Obligations.TintEvents : Prop := Fixes ∧ Bleaches

/-! ## The host, the mapper and the module -/

namespace Sys2Proof.Machine

/-- A kite parked in its region on a request. -/
def Awaiting (s : State) (c k : Nat) (r : PageReq) : Prop :=
  s.hasCrew c = true ∧ (s.crew c).ctx = r.ctx ∧ (s.kite c k).st = .parked ∧ (s.kite c k).wait ≠ .rewind ∧
    (s.kite c k).req = some r.id

/-- A kite that has trapped in its region on a request, whose bleach waits behind other fixes and bleaches. -/
def Rewinding (s : State) (c k : Nat) (r : PageReq) : Prop :=
  s.hasCrew c = true ∧ (s.crew c).ctx = r.ctx ∧ (s.kite c k).st = .waiting ∧ (s.kite c k).wait = .rewind ∧
    (s.kite c k).req = some r.id

/-- NOTIFY_WRITE takes a WRIDX that is ahead of RDIDX and within the ring, and sets ERR on another;
QUEUE_DESCRIPTOR_WRITE writes RING and word 0 while V = 0, with V = 1 for an accepted descriptor, and clears V of a queue
without records. ABORT empties the ring of a queue and ends its crews (R357): a record not started completes with the
completion word 2^63 + 0x100; of one started, no further flight is placed, and its ascents complete with that word once
their flights have ended, or at once. -/
def QueueWrites : Prop :=
  (∀ s : State,
    let q := s.ev.unit % 1024
    let x := s.queues.get q
    let w := s.ev.value % 2 ^ 32
    let ahead := (w + 2 ^ 32 - x.rdidx) % 2 ^ 32
    let good := ahead ≤ 2 ^ x.log2n ∧ (x.wridx + 2 ^ 32 - x.rdidx) % 2 ^ 32 ≤ ahead
    (good → ∃ t, exec .notifyWrite s = .next t ∧ (t.queues.get q).wridx = w ∧ (t.queues.get q).err = x.err ∧
      (t.queues.get q).rdidx = x.rdidx ∧ (∀ p, p ≠ q → t.queues.get p = s.queues.get p) ∧ SameMemory s t) ∧
    (¬ good → exec .notifyWrite s = .next (s.modQueue q fun x => { x with err := true }))) ∧
  (∀ s : State,
    let q := s.ev.unit % 1024
    let x := s.queues.get q
    let v := s.ev.value % 2 ^ 64
    (s.ev.sub = 1 → x.valid = false →
      exec .queueDescriptorWrite s = .next (s.modQueue q fun x => { x with ring := v })) ∧
    (s.ev.sub = 1 → x.valid = true → exec .queueDescriptorWrite s = .next s) ∧
    (s.ev.sub = 0 → x.valid = false → v % 2 = 1 →
      (s.ctx (v / 2 ^ 32 % 64)).valid = true → 4 ≤ v / 2 ^ 16 % 32 → v / 2 ^ 16 % 32 ≤ 16 → x.ring % 2 ^ 12 = 0 →
      ∃ t, exec .queueDescriptorWrite s = .next t ∧ (t.queues.get q).valid = true ∧
        (t.queues.get q).ctx = v / 2 ^ 32 % 64 ∧ (t.queues.get q).log2n = v / 2 ^ 16 % 32 ∧
        (t.queues.get q).cls = v / 2 ^ 8 % 8) ∧
    (s.ev.sub = 0 → x.valid = true → v % 2 = 0 → v / 4 % 2 = 0 → x.recs = [] →
      ∃ t, exec .queueDescriptorWrite s = .next t ∧ (t.queues.get q).valid = false)) ∧
  (∀ s : State,
    let q := s.ev.unit % 1024
    let x := s.queues.get q
    x.valid = true → x.rdidx < 2 ^ 32 → x.wridx < 2 ^ 32 → (s.ascents.map (·.1)).Pairwise (· < ·) →
    ∃ t, exec .abort s = .next t ∧ (t.queues.get q).rdidx = x.wridx ∧ (t.queues.get q).wridx = x.wridx ∧
      (∀ c, s.hasCrew c = true → (s.ascents.get (s.flight (s.crew c).flight).ascent).queue = q →
        (t.crew c).ending = true) ∧
      (∀ r ∈ x.recs, r.started = true → ∀ id a, s.ascents.find id = some a → a.queue = q → a.rec_ = r.no →
        (a.finished ≠ a.placed → t.ascents.find id = some { a with aborted := true, nflt := a.placed }) ∧
        (a.finished = a.placed → t.ascents.find id = none)) ∧
      ∀ r ∈ x.recs, r.started = false → ∀ y ∈ (t.queues.get q).recs, y.no ≠ r.no) ∧
  (∀ (s : State) (r : Rec) (p : Nat),
    let q := s.ev.unit % 1024
    let x := s.queues.get q
    x.valid = true → x.recs = [r] → r.started = false → x.rdidx = x.wridx → x.wridx < 2 ^ 32 →
    (∀ e ∈ s.ascents, e.2.queue ≠ q) → (∀ e ∈ s.crews, (s.ascents.get (s.flight e.2.flight).ascent).queue ≠ q) →
    lrDoneaddr r.w ≠ 0 → lrDoneaddr r.w % 8 = 0 → mapXlat s x.ctx (lrDoneaddr r.w) .store = some p →
    Memory.wf s.mem = true →
    ∃ t, exec .abort s = .next t ∧ (t.queues.get q).recs = [] ∧ memRead t.mem p 8 = 2 ^ 63 + 0x100 ∧
      ∀ b, b < p ∨ p + 8 ≤ b → memGet t.mem b = memGet s.mem b) ∧
  ∀ s : State, (s.queues.get (s.ev.unit % 1024)).valid = false → exec .abort s = .next s

/-- CONTEXT_ENTRY_WRITE writes an entry while V = 0, creates the context with V = 1 for an aligned root and span table and
an ASID and GEN of no other, and removes an idle one; DEVNUM is written while no context has V = 1. REGISTER_WRITE
stores WINBASE, aligned to the window's size, a ring register while its ring is off, a peer's route and the mailbox's
arguments; a read gives READY, PWR, SKPORT and the others of Table 19-1, and zero of a field that is only written and of
an offset without a register (R8, R382). LOST_READ, or any read of that word, gives the word with LOST and clears LOST. -/
def HostRegisters : Prop :=
  (∀ s : State,
    let n := s.ev.unit % 64
    let x := s.ctx n
    let v := s.ev.value % 2 ^ 64
    (x.valid = false →
      (s.ev.sub = 2 → exec .contextEntryWrite s = .next (s.modCtx n fun x => { x with root := v })) ∧
      (s.ev.sub = 3 → exec .contextEntryWrite s = .next (s.modCtx n fun x => { x with vstbase := v })) ∧
      (s.ev.sub = 0 → v % 2 = 1 → x.root % 2 ^ 12 = 0 → x.vstbase % 2 ^ 18 = 0 →
        (∀ e ∈ s.ctxs, e.1 ≠ n → e.2.valid = true → ¬ (e.2.asid = v / 2 ^ 4 % 2 ^ 16 ∧ e.2.gen = v / 2 ^ 20 % 2 ^ 8)) →
        ∃ t, exec .contextEntryWrite s = .next t ∧ (t.ctx n).valid = true ∧ (t.ctx n).asid = v / 2 ^ 4 % 2 ^ 16 ∧
          (t.ctx n).gen = v / 2 ^ 20 % 2 ^ 8 ∧ (t.ctx n).root = x.root ∧
          (∀ u, u ≠ 0 → ((t.ctx n).tint u).st = .free) ∧ ∀ m, m ≠ n → t.ctx m = s.ctx m)) ∧
    (x.valid = true → s.ev.sub = 0 → v % 2 = 0 → ctxBusy s n = false →
      ∃ t, exec .contextEntryWrite s = .next t ∧ (t.ctx n).valid = false ∧
        ∀ u, 1 ≤ u → u < 1024 → ((t.ctx n).tint u).st ≠ .live) ∧
    (x.valid = true → s.ev.sub ≠ 0 → exec .contextEntryWrite s = .next s)) ∧
  (∀ s : State,
    ((∀ e ∈ s.ctxs, e.2.valid = false) →
      exec .devnum s = .next (s.modModule fun m => { m with devnum := s.ev.value % 64 })) ∧
    ((∃ e ∈ s.ctxs, e.2.valid = true) → exec .devnum s = .next s)) ∧
  (∀ s : State, s.ev.ok = false →
    let v := s.ev.value % 2 ^ 64
    let size := 2 ^ s.module.barLog2
    (s.ev.unit = 0x10 → exec .registerWrite s = .next (s.modModule fun m =>
      { m with winbase := v / 2 ^ 30 % 2 ^ 22 * 2 ^ 30 / size * size })) ∧
    (s.ev.unit = 0x218 → s.module.prring.en = false →
      exec .registerWrite s = .next (s.modModule fun m => { m with prring := { m.prring with base := v } })) ∧
    (s.ev.unit = 0x218 → s.module.prring.en = true → exec .registerWrite s = .next (s.modModule fun m => m)) ∧
    (∀ p < 64, s.ev.unit = 0x1100 + 8 * p →
      ∃ t, exec .registerWrite s = .next t ∧ t.module.route.get p = v % 2 ^ 16) ∧
    (s.ev.unit = 0x100008 → exec .registerWrite s = .next (s.modModule fun m =>
      { m with mbox := { m.mbox with arg0 := v } })) ∧
    (s.ev.unit = 0x100010 → exec .registerWrite s = .next (s.modModule fun m =>
      { m with mbox := { m.mbox with arg1 := v } }))) ∧
  (∀ s : State, exec .lostRead s = .next (s.modModule fun m =>
    { m with hostOut := m.evring.rd % 2 ^ 32 * 2 ^ 32 + min m.evring.lost 65535 * 2 ^ 16
             evring := { m.evring with lost := 0 } })) ∧
  ∀ s : State, s.ev.ok = true →
    let m := s.module
    let gives := fun v => exec .registerWrite s = .next (s.modModule fun m => { m with hostOut := v })
    (s.ev.sub ≠ 2 →
      (s.ev.unit = 0 → ∃ w, gives w ∧ bit w 0 = m.dmp ∧ bit w 1 = m.sched ∧ bit w 2 = m.lpddr ∧ bit w 3 = m.hbm ∧
        bit w 4 = m.hbmFail ∧ bit w 5 = m.fwFail ∧ (∀ n < 12, bit w (12 + n) = bit m.clus n) ∧
        ∀ p < 16, bit w (24 + p) = (m.sk.get p).ready) ∧
      (s.ev.unit = 0x18 → ∃ w, gives w ∧ w % 2 ^ 16 = m.mhz % 2 ^ 16 ∧ w / 2 ^ 16 % 2 ^ 16 = m.watts % 2 ^ 16 ∧
        w / 2 ^ 32 % 2 ^ 8 = m.inlet % 2 ^ 8 ∧ w / 2 ^ 40 = m.throttle % 2 ^ 4) ∧
      (s.ev.unit = 0x10 → gives m.winbase) ∧
      (∀ p < 16, s.ev.unit = 0x1000 + 8 * p → ∃ w, gives w ∧ bit w 0 = (m.sk.get p).ready ∧
        bit w 1 = (m.sk.get p).train ∧ w / 2 ^ 16 % 2 ^ 4 = (m.sk.get p).lanes % 2 ^ 4 ∧
        w / 2 ^ 20 = (m.sk.get p).peer % 2 ^ 6) ∧
      (∀ q < 1024, s.ev.unit = 0x20000 + 16 * q → ∃ w, gives w ∧ bit w 0 = (s.queues.get q).valid ∧ bit w 2 = false ∧
        (bit w 1 = true ↔ ∃ i < 32, (s.slots.get i).queue = some q)) ∧
      (s.ev.unit = 0x100000 → gives 0) ∧
      (0x100018 < s.ev.unit → gives 0) ∧ (s.ev.unit % 8 ≠ 0 → gives 0)) ∧
    ∀ q < 1024, s.ev.sub = 2 → (s.ev.unit = 4096 * q → gives ((s.queues.get q).wridx % 2 ^ 32)) ∧
      (s.ev.unit = 4096 * q + 8 → gives ((s.queues.get q).rdidx % 2 ^ 32))

/-- The TLBINV events of kinds 0 to 3 remove what they name from every TLB and set BUSY, that of kind 4 loads the spans
that it names anew into every copy; while BUSY, none acts. An entry before the pages of an invalidation stays with its
run cut to end there. INVALIDATION_COMPLETE clears BUSY once no covered access is under way, and no entry remains then that
is covered by what the write to TLBINV1 asked for, whatever TLBINV0 holds since (R339). -/
def Invalidations : Prop :=
  (∀ e ∈ [(Instr.tlbinvAll, 0), (.tlbinvAsid, 1), (.tlbinvAsidGen, 2), (.tlbinvPages, 3), (.tlbinvSpans, 4)],
    ∀ s : State,
      let x := s.ev.value
      let count := x / 2 ^ 40 % 2 ^ 16
      let gen := x / 2 ^ 32 % 2 ^ 8
      let asid := x / 2 ^ 16 % 2 ^ 16
      let first := s.module.tlbinv.vapg
      (s.module.tlbinv.busy = true → exec e.1 s = .next s) ∧
      (s.module.tlbinv.busy = false → x / 2 ^ 56 % 8 = e.2 → e.2 ≤ 2 ∨ count ≠ 0 →
        ∃ t, exec e.1 s = .next t ∧ t.module.tlbinv.busy = true ∧ SameMemory s t ∧
          (∀ c, ∀ y ∈ (t.core c).tlb, ∃ z ∈ (s.core c).tlb, y.vpn = z.vpn ∧ y.asid = z.asid ∧ y.gen = z.gen ∧
            y.pages = z.pages ∧ pteRun y.leaf ≤ pteRun z.leaf ∧ ptePfn y.leaf = ptePfn z.leaf ∧ (e.2 ≠ 3 → y = z) ∧
            (e.2 = 3 → y.asid = asid → y.gen = gen → y.vpn < first → y.vpn + y.pages + pteRun y.leaf ≤ first)) ∧
          (∀ c, ∀ y ∈ (t.core c).tlb, e.2 ≠ 0 ∧ (e.2 = 1 → y.asid ≠ asid) ∧
            (e.2 = 2 → ¬ (y.asid = asid ∧ y.gen = gen)) ∧
            (e.2 = 3 → ¬ (y.asid = asid ∧ y.gen = gen ∧ y.vpn < first + count ∧ first < y.vpn + y.pages)) ∨ e.2 = 4) ∧
          (e.2 = 4 → ∀ i, first / 2 ^ 13 % 2 ^ 15 ≤ i → i < first / 2 ^ 13 % 2 ^ 15 + count → i < 32768 →
            ∀ v, readEntry s ((s.ctx (x % 64)).vstbase + 8 * i) = .ok v →
            ∀ y ∈ t.spans, y.ctx = x % 64 → y.entries.get i = v))) ∧
  ∀ s : State,
    let v := s.module.tlbinv
    (v.busy = true → invalDone s v = true → ∃ t, exec .invalidationComplete s = .next t ∧ SameMemory s t ∧
      t.module = { s.module with tlbinv := { v with busy := false } } ∧
      (v.kind ≤ 3 → ∀ c, ∀ y ∈ (t.core c).tlb, ({ v with vapg := v.first } : Tlbinv).hitsTlb y = false) ∧ (v.kind = 4 → t.cores = s.cores)) ∧
    (v.busy = false ∨ invalDone s v = false → exec .invalidationComplete s = .next s) ∧
    ((∃ c ∈ s.cores, ∃ e ∈ c.2.wp, v.covered s e.ctx = true) → invalDone s v = false) ∧
    ((∃ c ∈ s.crews, v.covered s c.2.ctx = true ∧ ∃ k ∈ c.2.kites, k.2.pend ≠ []) → invalDone s v = false)

/-- PAGE_REQUEST posts the first request that waits, 32 bytes at WR of PRRING, and its interrupt, where there is room.
RESIDENT lets the kites parked in a region on the request fly at their regb, with the mma that they own going on (R237);
DENIED leaves them parked with ACCESS and FAULTELT as it was; a kite whose region still rewinds takes the answer too, and
flies or parks as the rewind ends (R291); both close the request; NO_FRAME parks the context. An answer to no open request
is ignored. -/
def PageRequests : Prop :=
  (∀ (s : State) (q : PageReq),
    let r := s.module.prring
    (s.module.reqs.find? fun y => !y.posted) = some q → r.en = true → (r.wr + 2 ^ 32 - r.rd) % 2 ^ 32 ≠ 2 ^ r.log2n →
    Memory.wf s.mem = true → q.id < 2 ^ 16 → s.cycle q.core < 2 ^ 64 →
    let a := hostBase + (r.base + 32 * (r.wr % 2 ^ r.log2n)) % 2 ^ 51
    ∃ t, exec .pageRequest s = .next t ∧ t.module.prring.wr = (r.wr + 1) % 2 ^ 32 ∧
      t.module.msix.get 0 = s.module.msix.get 0 + 1 ∧
      memRead t.mem (a + 24) 8 = q.va % 2 ^ 64 ∧ memRead t.mem (a + 14) 2 = q.id ∧
      memRead t.mem (a + 13) 1 = q.agent % 2 ^ 8 ∧ memRead t.mem (a + 12) 1 = q.core % 2 ^ 8) ∧
  (∀ s : State, (s.module.reqs.find? fun q => q.id == s.ev.item) = none →
    exec .resident s = .next s ∧ exec .denied s = .next s ∧ exec .noFrame s = .next s) ∧
  ∀ (s : State) (r : PageReq), (s.module.reqs.find? fun q => q.id == s.ev.item) = some r →
    (∃ t, exec .resident s = .next t ∧ (∀ q ∈ t.module.reqs, q.id ≠ r.id) ∧
      (∀ c k, Awaiting s c k r → ((s.kite c k).buf (s.kite c k).cur).filling = false →
        (t.kite c k).st = .flying ∧ (t.kite c k).cur = (s.kite c k).cur ∧ (t.kite c k).idx = (s.kite c k).idx ∧
        ∀ a, ∀ m ∈ (t.crew c).tq.get a, m.owner = k → m.stopped = false) ∧
      ∀ c k, Rewinding s c k r → t.kite c k = { s.kite c k with cause := 0, req := none }) ∧
    (∃ t, exec .denied s = .next t ∧ (∀ q ∈ t.module.reqs, q.id ≠ r.id) ∧
      (∀ c k, Awaiting s c k r → (t.kite c k).st = .parked ∧ (t.kite c k).cause = 0x04 ∧
        (t.kite c k).faultva = BitVec.ofNat 64 r.va ∧ (t.kite c k).faultelt = (s.kite c k).faultelt ∧
        (k < 16 → ∃ e ∈ (t.crew c).events, e.agent = k ∧ e.cause = 0x04)) ∧
      ∀ c k, Rewinding s c k r →
        t.kite c k = { s.kite c k with cause := 0x04, faultva := BitVec.ofNat 64 r.va, req := none }) ∧
    ∃ t, exec .noFrame s = .next t ∧ (t.ctx r.ctx).st = 2 ∧
      ∃ q ∈ t.module.reqs, q.id = r.id ∧ q.noFrame = true

end Sys2Proof.Machine

/-- R328, R330, R338 to R342, R345 to R347, R357, R382, R384, R390: the writes and the answers of the host and its
driver. Details are by the reading of log 8. -/
def Obligations.HostEvents : Prop := QueueWrites ∧ HostRegisters ∧ Invalidations ∧ PageRequests

namespace Sys2Proof.Machine

/-- The crew that a placement puts on a core (Table 3-2, R117, R355): its kites LANDED with the granted length, its reel
at the variant's entry with the ascent's argument, the index of the flight, of the crew, and of the core. -/
def Launched (w : Crew) (k : Core) (c fl index crewIndex : Nat) (a : Ascent) (v : Variant) : Prop :=
  let healthy := (List.range 8).countP fun g => !(bit k.laneBad g)
  w.ctx = a.ctx ∧ w.flight = fl ∧ w.n = v.crew ∧ w.mvlb = 128 * healthy * 16 / v.crew ∧
  (∀ i, (w.kites.get i).st = if i < v.crew then .landed else .absent) ∧
  (∀ i < v.crew, (w.kites.get i).role = v.role ∧ (w.kites.get i).mvlb = w.mvlb ∧ (w.kites.get i).vlen = w.mvlb ∧
    (∀ r, (w.kites.get i).sget r = 0) ∧ (w.kites.get i).tintv = 0) ∧
  w.reel.pc = v.entry ∧ w.reel.sup = v.smode ∧ w.reel.xget 10 = a.arg ∧ w.reel.xget 11 = BitVec.ofNat 64 index ∧
  w.reel.xget 12 = BitVec.ofNat 64 crewIndex ∧ w.reel.xget 13 = BitVec.ofNat 64 c ∧ w.events = [] ∧ w.ending = false

/-- QUEUE_BIND binds a queue of class 2 or above that has waited longest to a free slot; QUANTUM_END begins a new quantum
where no queue of its class or a lower one waits. RECORD_TAKE takes the next record: a refused one completes with its
cause, one with AFTER waits; either way it is captured where its context is (R391). A queue that is no longer pending as
another's victim leaves does not take the slot. RECORD_START and GRAPH_NODE_START begin an ascent of what the record asks for. -/
def MapperTakes : Prop :=
  (∀ s : State,
    let q := s.ev.unit % 1024
    let i := s.ev.item % 32
    s.module.sched = true → waitsSlot s q = true → 2 ≤ classOf s q → (s.slots.get i).queue = none →
    firstWaiting s ((waiting s).filter fun p => decide (2 ≤ classOf s p) || decide (highSlots s < 24)) = some q →
    ∃ t, exec .queueBind s = .next t ∧ (t.slots.get i).queue = some q ∧ (t.slots.get i).bound = now0 s ∧
      (t.queues.get q).limit = (s.queues.get q).wridx ∧ ∀ j, j ≠ i → t.slots.get j = s.slots.get j) ∧
  (∀ (s : State) (q : Nat),
    let i := s.ev.unit % 32
    let m := s.slots.get i
    m.queue = some q → 2 ≤ classOf s q → m.leaving = false → m.quantum + 250000 ≤ now0 s →
    firstWaiting s ((waiting s).filter fun p => decide (2 ≤ classOf s p) && decide (classOf s p ≤ classOf s q)) = none →
    exec .quantumEnd s = .next (s.modSlot i fun y => { y with quantum := now0 s })) ∧
  (∀ (s : State) (w : Nat),
    let q := s.ev.unit % 1024
    let x := s.queues.get q
    let u := captureTake s x.ctx w
    let taken := u.modQueue q fun y => { y with rdidx := (y.rdidx + 1) % 2 ^ 32 }
    served s q = true → x.rdidx ≠ x.limit → x.recs.length < 8 → x.stuck = false →
    mapRead s x.ctx (x.ring + 128 * (x.rdidx % 2 ^ x.log2n)) 128 = some w →
    (bit s.module.repMask x.ctx = false → u = s) ∧ u.mem = s.mem ∧
    (∀ e, recordRefusal u x.ctx w = .error e → exec .recordTake s = .next (freeIdle
      (completeWord taken q x.ctx w (BitVec.ofNat 64 (2 ^ 63 + e))))) ∧
    ∀ ns, recordRefusal u x.ctx w = .ok ns → lrAfter w = true →
      exec .recordTake s = .next (taken.modQueue q fun y =>
        { y with recs := y.recs ++ [{ no := x.rdidx, w := w, nodes := ns }] })) ∧
  (∀ (s : State) (r : Rec) (rs : List Rec),
    let q := s.ev.unit % 1024
    (s.queues.get q).recs = r :: rs → r.started = false → served s q = true → lrKind r.w = 1 → lrPcount r.w = 0 →
    ∃ t, exec .recordStart s = .next t ∧ t.nextId = s.nextId + 1 ∧
      (∃ y ys, (t.queues.get q).recs = y :: ys ∧ y.started = true ∧ y.w = r.w) ∧
      let a := t.ascents.get s.nextId
      a.queue = q ∧ a.rec_ = r.no ∧ a.node = none ∧ a.ctx = (s.queues.get q).ctx ∧ a.nflt = lrNflt r.w ∧
        a.arg = BitVec.ofNat 64 (lrArg r.w) ∧ a.placed = 0 ∧ a.finished = 0) ∧
  (∀ (s : State) (r : Rec) (w : Nat),
    let q := s.ev.unit % 1024
    let j := s.ev.sub
    findRec s q s.ev.item = some r → r.nodes[j]? = some w → r.started = true → r.aborted = false → j ∉ r.nstart →
    (∀ i < 64, bit (lrDeps w) i = true → i ∈ r.ndone) → lrDeps w ≠ 0 → served s q = true →
    ∃ t, exec .graphNodeStart s = .next t ∧ t.nextId = s.nextId + 1 ∧
      let a := t.ascents.get s.nextId
      a.queue = q ∧ a.rec_ = r.no ∧ a.node = some j ∧ a.nflt = lrNflt w ∧ a.placed = 0) ∧
  ∀ (s : State) (i q p : Nat), (s.slots.get i).queue = some q → (s.slots.get i).next = some p → i < 32 → p ≠ q →
    ((s.queues.get p).pending = false → ((passSlot s i).slots.get i).queue = none) ∧
    ((s.queues.get p).pending = true → ((passSlot s i).slots.get i).queue = some p)

/-- FLIGHT_PLACEMENT places the next flight of the first slot in order that has one, where a cluster takes it; a placed
flight has a launched crew on each of its cores. -/
def Placements : Prop :=
  (∀ (s t : State) (i q id : Nat) (is ids : List Nat), s.module.stopped = false → slotOrder s = i :: is →
    (s.slots.get i).queue = some q → toPlace s q = id :: ids → tryPlace s i id = some t →
    exec .flightPlacement s = .next t) ∧
  ∀ (s : State) (slot id cl i o : Nat) (v : Variant) (cs : List Nat), cs.Nodup → 1 ≤ v.crew → v.crew ≤ 16 →
    let t := placeFlight s slot id cl i v cs o
    (∀ j c, cs[j]? = some c → Launched (t.crew c) (s.core c) c s.nextId (s.ascents.get id).placed j (s.ascents.get id) v) ∧
    (∀ c, c ∉ cs → t.crew c = s.crew c) ∧ (t.flight s.nextId).cores = cs ∧ (t.flight s.nextId).cluster = cl ∧
    (t.flight s.nextId).offset = o ∧ (t.ascents.get id).placed = (s.ascents.get id).placed + 1

/-- SWITCH_OUT asks a placed flight that must leave to stop; SWITCH_OUT_COMPLETE takes the crews of a flight that has
stopped from their cores and saves them; RESUMPTION puts the saved crews on cores that can take them, where CYCLE has
reached the tick of the switch-out (R20), with an acquire of the place (R314); ABANDONMENT leaves a part of a unit
performed, with the command as it was. CREW_END takes a crew that is done from its core, and its record stays with the
flight until that ends (R397); a flight of which it is the last counts as ended, and an ascent of which that is the last
completes, with DONEVAL or with an error code in the completion word (R356, R368), and leaves no tint RETIRED that nothing
names (R288). SLOT_PAGE_DRAIN returns a page that nothing holds to its pool. -/
def FlightEvents : Prop :=
  (∀ (s : State) (f : Flight), s.flights.find s.ev.unit = some f → f.st = .placed → mustLeave s f = true →
    bit s.module.repMask (flightCtx s f) = false →
    exec .switchOut s = .next (s.modFlight s.ev.unit fun f => { f with st := .stopping, since := flightNow s f })) ∧
  (∀ (s u : State) (f : Flight), s.crewsOk → s.flights.find s.ev.unit = some f → f.st = .stopping →
    crewsStopped s (crewCores s s.ev.unit) = (u, true) →
    ∃ t, exec .switchOutComplete s = .next t ∧ (t.flight s.ev.unit).st = .saved ∧
      (∀ c ∈ crewCores s s.ev.unit, t.hasCrew c = false) ∧
      (t.flight s.ev.unit).saved.length = f.saved.length + (crewCores s s.ev.unit).length ∧ SameMemory u t) ∧
  (∀ (s : State) (f : Flight) (o : Nat),
    let cs := s.ev.cores
    let cl := clusterOf (cs.headD 0)
    s.flights.find s.ev.unit = some f → f.st = .saved → sharedFit s cl f.cores.length = some o →
    coresTake s f cs = true → mayResume s f cl = true → f.savedAt ≤ (s.die (cl / 6)).cycle → (s.ascents.get f.ascent).aborted = false →
    ∃ t, exec .resumption s = .next t ∧ (t.flight s.ev.unit).st = .placed ∧ (t.flight s.ev.unit).saved = [] ∧
      (t.flight s.ev.unit).cluster = cl ∧ ∀ c ∈ cs, t.hasCrew c = true ∧ (t.crew c).preempt = true) ∧
  (∀ (s : State) (f : Flight), s.flights.find s.ev.unit = some f →
    (s.die (clusterOf (s.ev.cores.headD 0) / 6)).cycle < f.savedAt → exec .resumption s = .next s) ∧
  (∀ (s : State) (f : Flight) (m : Cmd),
    let c := s.ev.item
    s.flights.find s.ev.unit = some f → f.st = .stopping → f.since + 30000 ≤ flightNow s f →
    (s.crew c).flight = s.ev.unit → s.hasCrew c = true → (nextServed s c s.ev.sub)[s.ev.cores.headD 0]? = some m →
    m.started = true → m.units < cmdUnits m.d m.dst →
    ∃ t, exec .abandonment s = .next t ∧ (t.crew c).ports = (s.crew c).ports ∧
      t = partUnit s c s.ev.sub m s.ev.value s.ev.old) ∧
  (∀ (s u : State) (f : Flight),
    let c := s.ev.unit
    s.flights.find (s.crew c).flight = some f → s.hasCrew c = true → f.st = .placed → crewDone s c = (u, true) →
    let u1 := u.modFlight (s.crew c).flight fun f => { f with ended := f.ended ++ [(u.crew c).afterEnd] }
    ∃ t, exec .crewEnd s = .next t ∧ t.hasCrew c = false ∧
      (∀ d, d ≠ c → s.hasCrew d = true → t.hasCrew d = true) ∧
      ((∃ d, d ≠ c ∧ u.hasCrew d = true ∧ (u.crew d).flight = (s.crew c).flight) →
        t.flight (s.crew c).flight = u1.flight (s.crew c).flight) ∧
      ((∀ e ∈ u.crews, e.1 ≠ c → e.2.flight ≠ (s.crew c).flight) →
        t.flights.find (s.crew c).flight = none ∧
        ∃ w, w.mem = u.mem ∧ w.ascents = u.ascents.mod f.ascent (fun a => { a with finished := a.finished + 1 }) ∧
          t = passSlots (freeIdle (if (w.ascents.get f.ascent).finished = (w.ascents.get f.ascent).nflt then
            completeAscent w f.ascent else w)))) ∧
  (∀ (s : State) (w : Crew), w.afterEnd.kites = w.kites ∧ w.afterEnd.reel = w.reel ∧ w.afterEnd.index = w.index ∧
    w.afterEnd.tiles = [] ∧ w.afterEnd.acc = [] ∧ w.afterEnd.scratch = [] ∧ w.afterEnd.lanes = [] ∧
    (∀ (id : Nat) (p : Nat),
      let a := s.ascents.get id
      a.node = none → a.doneaddr ≠ 0 → a.doneaddr % 8 = 0 → mapXlat s a.ctx a.doneaddr .store = some p →
      Memory.wf s.mem = true →
      let t := completeAscent s id
      t.ascents.find id = none ∧ (a.irq = true → t.module.msix.get 2 = s.module.msix.get 2 + 1) ∧
      memRead t.mem p 8 = (if a.aborted then 2 ^ 63 + 0x100 else match a.endCause with
        | some e => (2 ^ 63 + e) % 2 ^ 64
        | none => a.doneval.toNat) ∧
      (∀ b, b < p ∨ p + 8 ≤ b → memGet t.mem b = memGet s.mem b) ∧
      ∀ v, v ≠ 0 → ((t.ctx a.ctx).tint v).st = .retired → (t.ctx a.ctx).tints.find v ≠ none →
        tintNamed t a.ctx v = true)) ∧
  ∀ (s : State) (d : DrainPage),
    let n := s.ev.unit % 64
    ((s.ctx n).drain.find? fun d => d.page == s.ev.item) = some d → pageHeld s n d = false →
    exec .slotPageDrain s = .next (s.modCtx n fun x => { x with drain := x.drain.filter fun e => e.page != d.page })

end Sys2Proof.Machine

/-- R349 to R353, R355, R356, R358, R362, R372 to R375: the mapper, and flights on cores. Details are by the
readings of logs 29 and 30. -/
def Obligations.MapperEvents : Prop := MapperTakes ∧ Placements ∧ FlightEvents

namespace Sys2Proof.Machine

/-- A report of an error joins the queue of its die with its fields (Table 18-10). -/
def Reported (s t : State) (e : ErrDesc) (sev : Nat) : Prop :=
  (s.die (e.die % 2)).errq.length < 64 → (s.die (e.die % 2)).cycle < 2 ^ 64 →
    ∃ w, (t.die (e.die % 2)).errq = (s.die (e.die % 2)).errq ++ [w] ∧ w % 2 ^ 8 = e.unit % 2 ^ 8 ∧
      w / 2 ^ 8 % 2 ^ 8 = e.agent % 2 ^ 8 ∧ w / 2 ^ 16 % 4 = sev ∧ w / 2 ^ 56 % 2 ^ 8 = e.core % 2 ^ 8 ∧
      w / 2 ^ 80 % 2 ^ 8 = e.ctx % 2 ^ 8 ∧ w / 2 ^ 128 % 2 ^ 64 = (s.die (e.die % 2)).cycle ∧
      w / 2 ^ 192 = e.addr % 2 ^ 64

/-- The kite's next instruction is a scalar load that reads, and whose checks pass (R207). -/
def WouldRead (s : State) (c k : Nat) (f : Fields) : Prop :=
  let u := { s with cur := .kite c k, hold := false }
  let x := s.kite c k
  s.crewRuns c = true ∧ x.st = .flying ∧ x.region = none ∧ x.resume ≠ .after ∧ x.fetch = .ok (.ld f) ∧
    legalInstr (.ld f) = true ∧ x.guardBit f 0 = true ∧
    ∃ t, exec (.ld f) u = .next t ∧ (t.kite c k).st ≠ .parked ∧ t.kite c k ≠ x ∧
      ((t.kite c k).wait = .none ∨ ∃ j, (t.kite c k).wait = .fill j)

/-- A kite that flies outside a region, and in the midst of no instruction. -/
def Flies (s : State) (c k : Nat) : Prop :=
  (s.kite c k).st = .flying ∧ (s.kite c k).region = none ∧ (s.kite c k).wait = .none ∧ (s.kite c k).mmRun = false

/-- CORRECTED_ERROR is only reported. UNCORRECTABLE_ERROR of a lane group is reported with severity 2, takes the group
out of LANEGOOD until the next module reset, asks for the switch-out of the flight, and traps the kite that met it; one of
a group already retired is not reported (R380), and traps a kite of a crew that still uses the group (R242). One of another
unit is reported with severity 1: data that a scalar load reads traps precisely, its register unchanged (Table 18-2);
data of a vector load under way leaves its destination unchanged, of a reader of bound registers the positions of its
streams, and the trap is late (R207, R215, R364); that of an nshld names a byte of its image (R195). -/
def ErrorEvents : Prop :=
  (∀ s : State, errKnown s.ev.err = true →
    ∃ t, exec .correctedError s = .next t ∧ Reported s t s.ev.err 0 ∧ t.crews = s.crews ∧ t.cores = s.cores) ∧
  (∀ s : State, errKnown s.ev.err = false →
    exec .correctedError s = .next s ∧ exec .uncorrectableError s = .next s) ∧
  (∀ e, errKnown e = true ↔ 1 ≤ e.unit ∧ e.unit ≤ 13) ∧
  ∀ s : State,
    let e := s.ev.err
    let c := e.core
    let k := e.agent
    let parks := fun (t : State) => (t.kite c k).st = .parked ∧ (t.kite c k).cause = 0x0D
    (e.unit = 1 → e.lg < 8 → c < 192 → bit (s.core c).laneBad e.lg = false → s.hasCrew c = true → k < 16 →
      Flies s c k →
      ∃ t, exec .uncorrectableError s = .next t ∧ Reported s t e 2 ∧ bit (t.core c).laneBad e.lg = true ∧
        (t.flight (s.crew c).flight).relane = true ∧ parks t) ∧
    (e.unit = 1 → e.lg < 8 → c < 192 → bit (s.core c).laneBad e.lg = true → usesGroup s c e.lg = false →
      exec .uncorrectableError s = .next s) ∧
    (e.unit = 1 → e.lg < 8 → c < 192 → bit (s.core c).laneBad e.lg = true → usesGroup s c e.lg = true → k < 16 →
      Flies s c k →
      ∃ t, exec .uncorrectableError s = .next t ∧ t.dies = s.dies ∧ SameMemory s t ∧ parks t) ∧
    (∀ f : Fields, e.unit = 7 → c < 192 → s.hasCrew c = true → k < 16 → (s.kite c k).firstLoad = none →
      WouldRead (report s e 1) c k f →
      ∃ t, exec .uncorrectableError s = .next t ∧ Reported s t e 1 ∧ parks t ∧
        (t.kite c k).faultva = BitVec.ofNat 64 ((s.kite c k).memAddr f.b) ∧ (t.kite c k).s = (s.kite c k).s ∧
        (t.kite c k).cur = (s.kite c k).cur ∧ (t.kite c k).idx = (s.kite c k).idx) ∧
    (∀ (i : Nat) (h : HeldLoad), e.unit = 7 → c < 192 → s.hasCrew c = true → k < 16 → e.row ≠ 1 →
      (s.kite c k).firstLoad = some (i, h) → Flies s c k →
      ∃ t, exec .uncorrectableError s = .next t ∧ Reported s t e 1 ∧ parks t ∧ (t.kite c k).v = (s.kite c k).v ∧
        (t.kite c k).vq = dropAt i (s.kite c k).vq ∧
        (t.kite c k).cur = (s.kite c k).cur ∧ (t.kite c k).idx = (s.kite c k).idx ∧
        (∀ l ∈ h.elems, h.was = [] → l.i = errElt e → (∀ m ∈ h.elems, m.i = errElt e → m = l) →
          (t.kite c k).faultva = BitVec.ofNat 64 l.va ∧ (t.kite c k).faultelt = BitVec.ofNat 64 l.i) ∧
        (∀ l ls, h.elems = l :: ls → h.was ≠ [] → (t.kite c k).faultelt = 0 ∧
          ∃ d, d < 2 * h.elems.length ∧ (t.kite c k).faultva = BitVec.ofNat 64 (l.va + d)) ∧
        ∀ v, (s.kite c k).vq[i]? = some v → (t.kite c k).binds =
          (if v.trails then (s.kite c k).unstepStreams v.ctx (vecReads v.op v.f) else s.kite c k).binds)

/-- PORT_TRAINED makes a port of 4 to 8 good lanes READY, PORT_DOWN clears READY; BRINGUP_READY sets the bit of READY of its
function, HBM where the defect map names no second failed channel, and HBMFAIL where it does (R324); MODULE_RESET leaves the
reset state with memory as it stands and the module's defect map, which its arguments give (log 32). THROTTLE, THERMAL_STOP and THERMAL_RECOVERY show the inlet, the clock and its reasons: above 40 degrees
the coolant is one, and a reason lowers the clock below its nominal 3,300 MHz (R20, R392); above 50 the module stops, and
below 40 it goes on. -/
def ModuleEvents : Prop :=
  (∀ s : State, s.module.fwWait = false →
    (4 ≤ s.ev.value → s.ev.value ≤ 8 → ∃ t, exec .portTrained s = .next t ∧
      t.module.sk.get (s.ev.unit % 16) = { peer := s.ev.item % 64, lanes := s.ev.value, ready := true, train := false }) ∧
    (s.ev.value < 4 → ∃ t, exec .portTrained s = .next t ∧ (t.module.sk.get (s.ev.unit % 16)).ready = false ∧
      (t.module.sk.get (s.ev.unit % 16)).train = true) ∧
    ∃ t, exec .portDown s = .next t ∧ (t.module.sk.get (s.ev.unit % 16)).ready = false ∧
      ∀ p, p ≠ s.ev.unit % 16 → t.module.sk.get p = s.module.sk.get p) ∧
  (∀ s : State, s.module.fwWait = false →
    ∃ t, exec .bringupReady s = .next t ∧
      (s.ev.unit = 0 → t.module.dmp = true) ∧ (s.ev.unit = 1 → t.module.sched = true) ∧
      (s.ev.unit = 2 → t.module.lpddr = true) ∧
      (s.ev.unit = 3 → s.module.hbmBad = false → t.module.hbm = true) ∧
      (s.ev.unit = 4 → s.module.hbmBad = true → t.module.hbmFail = true) ∧
      (s.ev.unit = 5 → t.module.fwFail = true ∧ t.module.fwWait = true) ∧
      (s.module.hbmBad = true → t.module.hbm = s.module.hbm) ∧
      (s.module.hbmBad = false → t.module.hbmFail = s.module.hbmFail) ∧
      ∀ n < 12, s.ev.unit = 12 + n → bit t.module.clus n = true ∧ t.cores = s.cores) ∧
  (∀ s : State, s.module.fwWait = true → exec .bringupReady s = .next s ∧ exec .portTrained s = .next s) ∧
  (∀ s : State, ∃ t, exec .moduleReset s = .next t ∧ t.mem = s.mem ∧ (∀ d, (t.die d).cycle = 0) ∧
    t.module = { State.reset.module with spare := t.module.spare, hbmBad := s.ev.ok } ∧
    (∀ ch < 1279, s.ev.item = ch + 1 → t.module.spare = some ch) ∧ (s.ev.item = 0 → t.module.spare = none) ∧
    (∀ c < 192, (t.core c).bad = bit (s.ev.cores.getD c 0) 16 ∧
      ∀ g < 8, bit (t.core c).laneBad g = bit (s.ev.cores.getD c 0) g ∧
        bit (t.core c).colBad g = bit (s.ev.cores.getD c 0) (8 + g)) ∧
    (∀ c, t.hasCrew c = false) ∧ ∀ n, (t.ctx n).valid = false) ∧
  ∀ s : State,
    let m := s.module
    let shown := fun (u : Module) (x reasons clk : Nat) =>
      u.inlet = x ∧ u.throttle = reasons + (if 40 < x then 8 else 0) ∧ u.watts ≤ 2600 ∧
      (u.throttle = 0 → u.mhz = 3300) ∧ (u.throttle ≠ 0 → u.mhz < 3300 ∧ (clk < 3300 → u.mhz = clk)) ∧
      (50 < x → u.stopped = true) ∧ (x < 40 → u.stopped = false) ∧ (40 ≤ x → x ≤ 50 → u.stopped = m.stopped) ∧
      { u with inlet := m.inlet, throttle := m.throttle, mhz := m.mhz, watts := m.watts, stopped := m.stopped } = m
    (∃ u, exec .throttle s = .next { s with module := u } ∧ shown u (s.ev.sub % 2 ^ 8) (s.ev.item % 8) s.ev.value ∧
      (s.ev.old ≤ 2600 → u.watts = s.ev.old)) ∧
    (50 < s.ev.value % 2 ^ 8 → ∃ u, exec .thermalStop s = .next { s with module := u } ∧
      shown u (s.ev.value % 2 ^ 8) (m.throttle % 8) s.ev.item) ∧
    (s.ev.value % 2 ^ 8 ≤ 50 → exec .thermalStop s = .next s) ∧
    (s.ev.value % 2 ^ 8 < 40 → ∃ u, exec .thermalRecovery s = .next { s with module := u } ∧
      shown u (s.ev.value % 2 ^ 8) (m.throttle % 8) s.ev.item) ∧
    (40 ≤ s.ev.value % 2 ^ 8 → exec .thermalRecovery s = .next s)

/-- The mailbox commands: the write of MBCMD sets BUSY, and is ignored while it is set; with the DMP running, the
performance clears BUSY and writes RESULT; while the DMP waits in its ROM for an image, it performs LOAD_FW alone (R389).
LOAD_FW keeps the SHAKE256 hash of an image that verifies, eight at most, and one that does not leaves the DMP waiting;
ATTEST writes the header of Table 19-6, the measurements and a signature, CERT the key and its signature, REPLAY_READ the
ring; REPLAY_CTL sets the mask of the contexts to capture. -/
def MailboxCommands : Prop :=
  ∀ e ∈ [(Instr.loadFw, 1), (.attest, 2), (.cert, 3), (.replayCtl, 4), (.replayRead, 5)], ∀ s : State,
    let b := s.module.mbox
    (s.ev.ok = false → b.busy = false → exec e.1 s =
      .next (s.modModule fun m => { m with mbox := { m.mbox with busy := true, code := e.2 } })) ∧
    (s.ev.ok = false → b.busy = true → exec e.1 s = .next s) ∧
    (s.ev.ok = true → b.busy = true → s.module.fwWait = true → e.2 ≠ 1 → exec e.1 s = .next s) ∧
    (s.ev.ok = true → b.busy = true → b.code = e.2 →
      (if s.module.fwWait then e.2 = 1 else s.module.dmp = true) →
      ∃ t, exec e.1 s = .next t ∧ t.module.mbox.busy = false ∧
        (2 ≤ e.2 → t.module.mbox.result = 0) ∧
        (e.2 = 1 → Config.verifies (hostGet s b.arg0 b.arg1) = true → t.module.mbox.result = 0 ∧
          t.module.meas = (s.module.meas ++ [shake256 (hostGet s b.arg0 b.arg1)]).take 8 ∧ t.module.fwWait = false) ∧
        (e.2 = 1 → Config.verifies (hostGet s b.arg0 b.arg1) = false →
          t.module.mbox.result ≠ 0 ∧ t.module.fwFail = true ∧ t.module.fwWait = true) ∧
        (e.2 = 2 → Memory.wf s.mem = true → memRead t.mem (hostBase + b.arg1 % 2 ^ 51) 4 = 0x00545441) ∧
        (e.2 = 2 → Memory.wf s.mem = true →
          memRead t.mem (hostBase + b.arg1 % 2 ^ 51 + 4) 4 = s.module.devnum % 2 ^ 32 ∧
          memRead t.mem (hostBase + b.arg1 % 2 ^ 51 + 8) 1 = s.module.meas.length % 2 ^ 8 ∧
          memRead t.mem (hostBase + b.arg1 % 2 ^ 51 + 24) 8 = (s.die 0).cycle % 2 ^ 64) ∧
        (e.2 = 3 → Memory.wf s.mem = true → memRead t.mem (hostBase + b.arg0 % 2 ^ 51) 64 = Config.publicKey.toNat ∧
          memRead t.mem (hostBase + b.arg0 % 2 ^ 51 + 64) 29792 = Config.keySignature.toNat) ∧
        (e.2 = 4 → t.module.repMask = b.arg0) ∧ (e.2 ≤ 1 ∨ e.2 = 4 → SameMemory s t))

/-- HOST_BAR_ACCESS writes and reads committed bytes at WINBASE and its offset, within the size of BAR 4 (R381); a write
releases at SYSTEM scope (R305); HOST_ATOMICOP performs an atomic there, and
PEER_ACCESS does the same for a peer at an address of the module; each gives the bytes that were there. -/
def OutsideAccesses : Prop :=
  (∀ (s : State) (p : Nat), s.ev.item = 8 → Memory.wf s.mem = true →
    (∀ i < 8, barAddr s (s.ev.unit + i) = some (p + i)) →
    (s.ev.ok = false → ∃ t, exec .hostBarAccess s = .next t ∧ t.module.hostOut = memRead s.mem p 8 ∧ SameMemory s t) ∧
    (s.ev.ok = true → ∃ t, exec .hostBarAccess s = .next t ∧ memRead t.mem p 8 = s.ev.value % 2 ^ 64 ∧
      (∀ b, b < p ∨ p + 8 ≤ b → memGet t.mem b = memGet s.mem b) ∧ t.vers = s.vers ∧
      ∀ i < 8, t.rels.find (lineOf (p + i)) = some { core := 192, dev := 64, scope := 4 })) ∧
  (∀ s : State, s.ev.ok = true → 2 ^ s.module.barLog2 ≤ s.ev.unit →
    ∃ t, exec .hostBarAccess s = .next t ∧ SameMemory s t) ∧
  (∀ (s : State) (p : Nat), s.ev.item = 8 → s.ev.unit % 8 = 0 → barAddr s s.ev.unit = some p → Memory.wf s.mem = true →
    let old := memRead s.mem p 8
    let new := if s.ev.sub = 0 then (old + s.ev.value) % 2 ^ 64 else s.ev.value % 2 ^ 64
    (s.ev.sub ≤ 1 ∨ (s.ev.sub = 2 ∧ old = s.ev.old % 2 ^ 64) →
      ∃ t, exec .hostAtomicop s = .next t ∧ t.module.hostOut = old ∧ memRead t.mem p 8 = new ∧
        ∀ b, b < p ∨ p + 8 ≤ b → memGet t.mem b = memGet s.mem b) ∧
    (s.ev.sub = 2 → old ≠ s.ev.old % 2 ^ 64 →
      ∃ t, exec .hostAtomicop s = .next t ∧ t.module.hostOut = old ∧ t.mem = s.mem)) ∧
  ∀ (s : State) (p : Nat),
    let q := s.ev.peer
    (∀ i < q.n, peerAddr s (q.addr + i) = some (p + i)) → Memory.wf s.mem = true →
    (q.kind = 0 → ∃ t, exec .peerAccess s = .next t ∧ t.module.hostOut = memRead s.mem p q.n ∧ SameMemory s t) ∧
    (q.kind = 1 → ∃ t, exec .peerAccess s = .next t ∧ memRead t.mem p q.n = q.value % 2 ^ (8 * q.n) ∧
      ∀ b, b < p ∨ p + q.n ≤ b → memGet t.mem b = memGet s.mem b) ∧
    (q.kind = 2 → q.fn = 0 → 1 ≤ q.n → p % q.n = 0 → ∃ t, exec .peerAccess s = .next t ∧
      t.module.hostOut = memRead s.mem p q.n ∧
      memRead t.mem p q.n = (memRead s.mem p q.n + q.value) % 2 ^ (8 * q.n))

end Sys2Proof.Machine

/-- R308, R377 to R380, R383, R386, R388 to R392: errors, ports, bring-up, the mailbox, power, and what reaches
memory from outside. Details are by the readings of logs 31, 32 and 33. -/
def Obligations.ModuleAndPeerEvents : Prop := ErrorEvents ∧ ModuleEvents ∧ MailboxCommands ∧ OutsideAccesses

/-! ## Floating arithmetic -/

namespace Sys2Proof.Machine

/-- Table 7-1: the widths of an element and of its fraction, the bias, emin, and the largest finite number. -/
structure Fmt where
  w    : Nat
  f    : Nat
  bias : Int
  emin : Int
  top  : Rat

/-- The rows of Table 7-1 by TY, 9 to 14. -/
def fmtOf : Nat → Fmt
  | 14 => ⟨64, 52, 1023, -1022, (2 - 1 / 2 ^ 52) * 2 ^ 1023⟩
  | 13 => ⟨32, 23, 127, -126, (2 - 1 / 2 ^ 23) * 2 ^ 127⟩
  | 12 => ⟨16, 10, 15, -14, 65504⟩
  | 11 => ⟨16, 7, 127, -126, (2 - 1 / 2 ^ 7) * 2 ^ 127⟩
  | 10 => ⟨8, 2, 15, -14, 57344⟩
  | _ => ⟨8, 3, 7, -6, 448⟩

/-- 2^z. -/
def pow2 (z : Int) : Rat := if 0 ≤ z then 2 ^ z.toNat else 1 / 2 ^ (-z).toNat

/-- S, E and F of an element (R139). -/
def fieldS (ty x : Nat) : Nat := x / 2 ^ ((fmtOf ty).w - 1) % 2
def fieldE (ty x : Nat) : Nat := x / 2 ^ (fmtOf ty).f % 2 ^ ((fmtOf ty).w - 1 - (fmtOf ty).f)
def fieldF (ty x : Nat) : Nat := x % 2 ^ (fmtOf ty).f
/-- E all ones. -/
def topE (ty : Nat) : Nat := 2 ^ ((fmtOf ty).w - 1 - (fmtOf ty).f) - 1

/-- The magnitude of a finite element (R139), a subnormal taken as zero where FTZ flushes it (R149). -/
def magOf (ftz : Bool) (ty x : Nat) : Rat :=
  let m := fmtOf ty
  if fieldE ty x = 0 then
    (if ftz = true ∧ 11 ≤ ty ∧ ty ≤ 13 then 0 else (fieldF ty x : Rat) / 2 ^ m.f * pow2 m.emin)
  else (1 + (fieldF ty x : Rat) / 2 ^ m.f) * pow2 (fieldE ty x - m.bias)

/-- Its value. -/
def valOf (ftz : Bool) (ty x : Nat) : Rat := if fieldS ty x = 1 then -(magOf ftz ty x) else magOf ftz ty x

/-- A NaN, a signalling NaN, an infinity, and a finite number (R140). -/
def IsNaN (ty x : Nat) : Prop :=
  if ty = 9 then x % 128 = 127 else fieldE ty x = topE ty ∧ fieldF ty x ≠ 0
def IsSNaN (ty x : Nat) : Prop := ty ≠ 9 ∧ IsNaN ty x ∧ fieldF ty x < 2 ^ ((fmtOf ty).f - 1)
def IsInf (ty x : Nat) : Prop := ty ≠ 9 ∧ fieldE ty x = topE ty ∧ fieldF ty x = 0
def IsNum (ty x : Nat) : Prop := x < 2 ^ (fmtOf ty).w ∧ ¬ IsNaN ty x ∧ ¬ IsInf ty x

/-- The bits of a zero, an infinity and the canonical NaN (Table 7-5). -/
def zeroOf (ty sgn : Nat) : Nat := sgn * 2 ^ ((fmtOf ty).w - 1)
def infOf (ty sgn : Nat) : Nat := sgn * 2 ^ ((fmtOf ty).w - 1) + topE ty * 2 ^ (fmtOf ty).f
def nanOf : Nat → Nat
  | 14 => 0x7FF8000000000000 | 13 => 0x7FC00000 | 12 => 0x7E00 | 11 => 0x7FC0 | 10 => 0x7E | _ => 0x7F

/-- quiet of R152. -/
def quieted (ty x : Nat) : Nat := if ty = 9 ∨ 2 ^ ((fmtOf ty).f - 1) ≤ fieldF ty x then x else x + 2 ^ ((fmtOf ty).f - 1)

/-- The flags of a result, NX, UF, OF, DZ and NV in that order (Table 4-4). -/
def FlagsAre (fl : Nat) (nx uf o dz nv : Prop) : Prop :=
  fl < 32 ∧ (bit fl 0 = true ↔ nx) ∧ (bit fl 1 = true ↔ uf) ∧ (bit fl 2 = true ↔ o) ∧ (bit fl 3 = true ↔ dz) ∧
    (bit fl 4 = true ↔ nv)

/-- Whether the last place rises (R145): `le` and `lt` say which rationals are at most, and below, the magnitude that is
rounded, which lies in [t × q, (t + 1) × q). -/
def RisesAt (r : Rounding) (sgn t : Nat) (q : Rat) (le lt : Rat → Prop) : Prop :=
  match r.rm with
  | 0 => lt ((t + 1 / 2) * q) ∨ (le ((t + 1 / 2) * q) ∧ t % 2 = 1)
  | 1 => False
  | 2 => lt (t * q) ∧ sgn = 1
  | 3 => lt (t * q) ∧ sgn = 0
  | 4 => le ((t + 1 / 2) * q)
  | _ => le ((t + ((r.rnd : Rat) + 1) / 2 ^ 32) * q)

/-- round of R145, with Table 7-4 and R149, of a nonzero real whose magnitude the predicates `le` and `lt` give: the bits
and the flags. -/
def RoundedTo (r : Rounding) (ty sgn : Nat) (le lt : Rat → Prop) (res : Nat × Nat) : Prop :=
  let m := fmtOf ty
  ∃ (l : Int) (t : Nat) (y : Rat), le (pow2 l) ∧ ¬ le (pow2 (l + 1)) ∧
    let q := pow2 (max l m.emin - m.f)
    le (t * q) ∧ ¬ le ((t + 1) * q) ∧
    (RisesAt r sgn t q le lt → y = (t + 1) * q) ∧ (¬ RisesAt r sgn t q le lt → y = t * q) ∧
    let inexact := lt (t * q)
    let big := m.top < y
    let keeps := r.sat = true ∨ r.rm = 1 ∨ (r.rm = 2 ∧ sgn = 0) ∨ (r.rm = 3 ∧ sgn = 1)
    let small := y < pow2 m.emin ∧ y ≠ 0 ∧ r.ftz = true ∧ 11 ≤ ty ∧ ty ≤ 13
    (big → keeps → IsNum ty res.1 ∧ fieldS ty res.1 = sgn ∧ magOf false ty res.1 = m.top) ∧
    (big → ¬ keeps → res.1 = if ty = 9 then zeroOf 9 sgn + 0x7F else infOf ty sgn) ∧
    (¬ big → small → res.1 = zeroOf ty sgn) ∧
    (¬ big → ¬ small → IsNum ty res.1 ∧ fieldS ty res.1 = sgn ∧ magOf false ty res.1 = y) ∧
    FlagsAre res.2 (inexact ∨ (big ∧ (keeps ∨ ty ≠ 9)) ∨ (¬ big ∧ small))
      (¬ big ∧ ((¬ le (pow2 m.emin) ∧ inexact) ∨ small)) big False (big ∧ ¬ keeps ∧ ty = 9)

/-- round of a rational: an exact zero has the sign given, and raises no flag. -/
def RoundsRat (r : Rounding) (ty : Nat) (v : Rat) (zsgn : Nat) (res : Nat × Nat) : Prop :=
  (v = 0 → res = (zeroOf ty zsgn, 0)) ∧
  (v ≠ 0 → RoundedTo r ty (if v < 0 then 1 else 0) (fun q : Rat => q ≤ v.abs) (fun q : Rat => q < v.abs) res)

/-- The sign of an exact zero sum of numbers with signs a and b (R163): that of two zeros of one sign, and else that of the
mode. -/
def zeroSign (rm a b : Nat) (zeros : Prop) [Decidable zeros] : Nat := if zeros ∧ a = b then a else if rm = 2 then 1 else 0

/-- A function of a list of operands follows R152 where one is a NaN: quiet of the first, and NV for a signalling one, or
where `bad` holds. -/
def NaNsFirst (ty : Nat) (xs : List Nat) (bad : Prop) (res : Nat × Nat) : Prop :=
  ∀ (i : Nat) (x : Nat), xs[i]? = some x → IsNaN ty x → (∀ (j : Nat) (y : Nat), j < i → xs[j]? = some y → ¬ IsNaN ty y) →
    res.1 = quieted ty x ∧ FlagsAre res.2 False False False False ((∃ y ∈ xs, IsSNaN ty y) ∨ bad)

/-- An invalid operation (R151). -/
def Invalid (ty : Nat) (res : Nat × Nat) : Prop := res = (nanOf ty, 16)

end Sys2Proof.Machine

/-- R139, R140, R145, R149, R151, R152, R163: the sums, products and fused products of floating elements. Where an operand is
a NaN the result is quiet of the first; an infinity of one sign wins a sum, infinities of opposite sign and 0 × ∞ are
invalid; finite operands give the exact result rounded once, and an exact zero has its sign by R163. -/
def Sys2Proof.Machine.SumsAndProducts : Prop :=
  ∀ (r : Rounding) (ty b c a : Nat), r.rm ≤ 5 → r.rnd < 2 ^ 32 → 9 ≤ ty → ty ≤ 14 → b < 2 ^ (fmtOf ty).w →
    c < 2 ^ (fmtOf ty).w → a < 2 ^ (fmtOf ty).w →
    let v := valOf r.ftz ty
    let sg := fieldS ty
    let zero := fun x => IsNum ty x ∧ v x = 0
    let zi := (zero b ∧ IsInf ty c) ∨ (IsInf ty b ∧ zero c)
    (∀ sub : Bool, let res := fAdd r ty sub b c; let sc := (sg c + sub.toNat) % 2;
      NaNsFirst ty [b, c] False res ∧
      (IsInf ty b → IsInf ty c → sg b ≠ sc → Invalid ty res) ∧
      (IsInf ty b → ¬ IsNaN ty c → ¬ (IsInf ty c ∧ sg b ≠ sc) → res = (infOf ty (sg b), 0)) ∧
      (IsNum ty b → IsInf ty c → res = (infOf ty sc, 0)) ∧
      (IsNum ty b → IsNum ty c →
        RoundsRat r ty (if sub then v b - v c else v b + v c) (zeroSign r.rm (sg b) sc (v b = 0 ∧ v c = 0)) res)) ∧
    (let res := fMul r ty b c;
      NaNsFirst ty [b, c] False res ∧ (zi → Invalid ty res) ∧
      (¬ IsNaN ty b → ¬ IsNaN ty c → IsInf ty b ∨ IsInf ty c → ¬ zi → res = (infOf ty ((sg b + sg c) % 2), 0)) ∧
      (IsNum ty b → IsNum ty c → RoundsRat r ty (v b * v c) ((sg b + sg c) % 2) res)) ∧
    ∀ np na : Bool, let res := fFma r ty np na b c a
      let sp := (sg b + sg c + np.toNat) % 2
      let sa := (sg a + na.toNat) % 2;
      NaNsFirst ty [b, c, a] zi res ∧
      (¬ IsNaN ty a → zi → Invalid ty res) ∧
      (¬ IsNaN ty b → ¬ IsNaN ty c → IsInf ty b ∨ IsInf ty c → ¬ zi →
        (IsInf ty a → sp ≠ sa → Invalid ty res) ∧
        (¬ IsNaN ty a → ¬ (IsInf ty a ∧ sp ≠ sa) → res = (infOf ty sp, 0))) ∧
      (IsNum ty b → IsNum ty c → IsInf ty a → res = (infOf ty sa, 0)) ∧
      (IsNum ty b → IsNum ty c → IsNum ty a →
        RoundsRat r ty ((if np then -(v b * v c) else v b * v c) + (if na then -(v a) else v a))
          (zeroSign r.rm sp sa (v b * v c = 0 ∧ v a = 0)) res)

/-- R151, R163, Table 8-4: quotients, square roots, reciprocals and reciprocal square roots: a nonzero finite dividend over
a zero gives an infinity and DZ; 0 / 0, ∞ / ∞ and a root of a number below −0 are invalid; the exact quotient or root is
rounded once. -/
def Sys2Proof.Machine.QuotientsAndRoots : Prop :=
  ∀ (r : Rounding) (ty b c : Nat), r.rm ≤ 5 → r.rnd < 2 ^ 32 → 9 ≤ ty → ty ≤ 14 → b < 2 ^ (fmtOf ty).w →
    c < 2 ^ (fmtOf ty).w →
    let v := valOf r.ftz ty
    let sg := fieldS ty
    let s2 := (sg b + sg c) % 2
    let root := fun (x : Rat) => RoundedTo r ty 0 (fun q : Rat => q ≤ 0 ∨ q * q ≤ x) (fun q : Rat => q < 0 ∨ q * q < x)
    (let res := fDiv r ty b c;
      NaNsFirst ty [b, c] False res ∧ (IsInf ty b → IsInf ty c → Invalid ty res) ∧
      (IsInf ty b → IsNum ty c → res = (infOf ty s2, 0)) ∧ (IsNum ty b → IsInf ty c → res = (zeroOf ty s2, 0)) ∧
      (IsNum ty b → IsNum ty c →
        (v c = 0 → v b = 0 → Invalid ty res) ∧ (v c = 0 → v b ≠ 0 → res = (infOf ty s2, 8)) ∧
        (v c ≠ 0 → RoundsRat r ty (v b / v c) s2 res))) ∧
    (let res := fSqrt r ty b;
      NaNsFirst ty [b] False res ∧ (IsInf ty b → if sg b = 1 then Invalid ty res else res = (b, 0)) ∧
      (IsNum ty b → (v b = 0 → res = (zeroOf ty (sg b), 0)) ∧ (v b < 0 → Invalid ty res) ∧
        (0 < v b → root (v b) res))) ∧
    (let res := fSpecial r ty 2 b;
      NaNsFirst ty [b] False res ∧ (IsInf ty b → res = (zeroOf ty (sg b), 0)) ∧
      (IsNum ty b → (v b = 0 → res = (infOf ty (sg b), 8)) ∧ (v b ≠ 0 → RoundsRat r ty (1 / v b) (sg b) res))) ∧
    let res := fSpecial r ty 3 b;
    NaNsFirst ty [b] False res ∧ (IsInf ty b → if sg b = 1 then Invalid ty res else res = (zeroOf ty 0, 0)) ∧
    (IsNum ty b → (v b = 0 → res = (infOf ty (sg b), 8)) ∧ (v b < 0 → Invalid ty res) ∧ (0 < v b → root (1 / v b) res))

/-- R170, Table 8-4: the special values of the other functions of vsfn, and their exact values at integers and at powers of
two. -/
def Sys2Proof.Machine.SpecialFunctions : Prop :=
  ∀ (r : Rounding) (ty b : Nat), r.rm ≤ 5 → r.rnd < 2 ^ 32 → 11 ≤ ty → ty ≤ 13 → b < 2 ^ (fmtOf ty).w →
    let v := valOf r.ftz ty b
    let sg := fieldS ty b
    let f := fun n => fSpecial r ty n b
    let one := fun (s : Nat) (res : Nat × Nat) => res.2 = 0 ∧ IsNum ty res.1 ∧ valOf false ty res.1 = if s = 1 then -1 else 1
    (∀ n < 8, NaNsFirst ty [b] False (f n)) ∧
    (IsInf ty b → f 0 = (if sg = 1 then zeroOf ty 0 else infOf ty 0, 0) ∧
      (if sg = 1 then Invalid ty (f 1) else f 1 = (infOf ty 0, 0)) ∧ one sg (f 4) ∧
      (if sg = 1 then f 5 = (zeroOf ty 0, 0) else one 0 (f 5)) ∧ one sg (f 6) ∧ Invalid ty (f 7)) ∧
    (IsNum ty b → v = 0 → one 0 (f 0) ∧ f 1 = (infOf ty 1, 8) ∧ (∀ n ∈ [4, 6, 7], f n = (zeroOf ty sg, 0)) ∧
      (f 5).2 = 0 ∧ valOf false ty (f 5).1 = 1 / 2) ∧
    (IsNum ty b → v < 0 → Invalid ty (f 1)) ∧
    (∀ z : Int, IsNum ty b → v = z → -4096 < z → z < 4096 → RoundsRat r ty (pow2 z) 0 (f 0)) ∧
    ∀ z : Int, IsNum ty b → v = pow2 z → RoundsRat r ty z 0 (f 1)

/-- The order of two numbers, −0 as `nz` says below +0 or equal to it: whether b is below c. -/
def Sys2Proof.Machine.Under (ftz nz : Bool) (ty b c : Nat) : Prop :=
  let v := valOf ftz ty
  (IsInf ty b ∧ fieldS ty b = 1 ∧ ¬ (IsInf ty c ∧ fieldS ty c = 1)) ∨
  (IsInf ty c ∧ fieldS ty c = 0 ∧ ¬ (IsInf ty b ∧ fieldS ty b = 0)) ∨
  (IsNum ty b ∧ IsNum ty c ∧ (v b < v c ∨ (nz = true ∧ v b = 0 ∧ v c = 0 ∧ fieldS ty b = 1 ∧ fieldS ty c = 0)))

/-- R163, R167, R169: the smaller and the larger of two elements, with −0 below +0; the comparisons of Table 8-3, with −0
equal to +0, and their NV; and the classes, of the stored bits. -/
def Sys2Proof.Machine.OrderAndClass : Prop :=
  ∀ (r : Rounding) (ty b c : Nat), 9 ≤ ty → ty ≤ 14 → b < 2 ^ (fmtOf ty).w → c < 2 ^ (fmtOf ty).w →
    let sg := fieldS ty
    let flushed := fun x => if r.ftz = true ∧ 11 ≤ ty ∧ ty ≤ 13 ∧ fieldE ty x = 0 then zeroOf ty (sg x) else x
    let un := IsNaN ty b ∨ IsNaN ty c
    let low := Under r.ftz false ty b c
    let high := Under r.ftz false ty c b
    (∀ larger : Bool, let res := fMinMax r ty larger b c;
      NaNsFirst ty [b, c] False res ∧
      (¬ un → let beats := if larger then Under r.ftz true ty b c else Under r.ftz true ty c b
        (beats → res = (flushed c, 0)) ∧ (¬ beats → res = (flushed b, 0)))) ∧
    (∀ e ∈ [(0, ¬ un ∧ ¬ low ∧ ¬ high), (1, un ∨ low ∨ high), (2, ¬ un ∧ low), (3, ¬ un ∧ ¬ high), (4, ¬ un ∧ high),
        (5, ¬ un ∧ ¬ low), (6, un), (7, ¬ un)],
      ((fCmp r.ftz ty e.1 b c).1 = true ↔ e.2) ∧
      FlagsAre (fCmp r.ftz ty e.1 b c).2 False False False False
        (if e.1 ∈ [0, 1, 6, 7] then IsSNaN ty b ∨ IsSNaN ty c else un)) ∧
    ∀ e ∈ [(0, IsInf ty b ∧ sg b = 1), (1, IsNum ty b ∧ fieldE ty b ≠ 0 ∧ sg b = 1),
        (2, fieldE ty b = 0 ∧ fieldF ty b ≠ 0 ∧ sg b = 1), (3, fieldE ty b = 0 ∧ fieldF ty b = 0 ∧ sg b = 1),
        (4, fieldE ty b = 0 ∧ fieldF ty b = 0 ∧ sg b = 0), (5, fieldE ty b = 0 ∧ fieldF ty b ≠ 0 ∧ sg b = 0),
        (6, IsNum ty b ∧ fieldE ty b ≠ 0 ∧ sg b = 0), (7, IsInf ty b ∧ sg b = 0), (8, IsSNaN ty b),
        (9, IsNaN ty b ∧ ¬ IsSNaN ty b)],
      fClass ty b = e.1 ↔ e.2

/-- The value of an integer element (R138). -/
def Sys2Proof.Machine.intOf (ty x : Nat) : Int :=
  let w := widthOf ty
  if ty < 4 ∧ 2 ^ (w - 1) ≤ x then (x : Int) - 2 ^ w else x

/-- The ends of the range of an integer type (R138). -/
def Sys2Proof.Machine.rangeOf (ty : Nat) : Int × Int :=
  if ty < 4 then (-(2 ^ (widthOf ty - 1)), 2 ^ (widthOf ty - 1) - 1) else (0, 2 ^ widthOf ty - 1)

/-- R147, R148, R153, R171: convert, between integer types (a destination that is not wider keeps the low bits, or with SAT
clamps), from an integer, into one (rounded, and out of range by SAT), and between floating types. -/
def Sys2Proof.Machine.Conversions : Prop :=
  ∀ (r : Rounding) (xf ty x : Nat), r.rm ≤ 5 → r.rnd < 2 ^ 32 →
    let lo := (rangeOf ty).1
    let hi := (rangeOf ty).2
    let wrap := fun (z : Int) => (z % 2 ^ widthOf ty).toNat
    let res := convert r xf ty x
    (xf < 8 → ty < 8 → x < 2 ^ widthOf xf →
      res = (wrap (if r.sat = true ∧ widthOf ty ≤ widthOf xf then max lo (min hi (intOf xf x)) else intOf xf x), 0)) ∧
    (xf < 8 → 9 ≤ ty → ty ≤ 14 → x < 2 ^ widthOf xf → RoundsRat r ty (intOf xf x) 0 res) ∧
    (9 ≤ xf → xf ≤ 14 → ty < 8 → x < 2 ^ (fmtOf xf).w →
      let v := valOf r.ftz xf x
      let out := fun (neg : Bool) => wrap (if r.sat then (if neg then lo else hi) else if ty < 4 then lo else hi)
      (IsNaN xf x → res = (if r.sat then 0 else out false, 16)) ∧
      (IsInf xf x → res = (out (fieldS xf x == 1), 16)) ∧
      (IsNum xf x → ∃ (t : Nat) (z : Int), (t : Rat) ≤ v.abs ∧ v.abs < t + 1 ∧
        let up := RisesAt r (fieldS xf x) t 1 (fun q : Rat => q ≤ v.abs) (fun q : Rat => q < v.abs)
        let mag : Int → Prop := fun m => z = if fieldS xf x = 1 then -m else m
        (up → mag (t + 1)) ∧ (¬ up → mag t) ∧
        (lo ≤ z → z ≤ hi → res = (wrap z, if v.abs = t then 0 else 1)) ∧
        (z < lo ∨ hi < z → res = (out (fieldS xf x == 1), 16)))) ∧
    (9 ≤ xf → xf ≤ 14 → 9 ≤ ty → ty ≤ 14 → x < 2 ^ (fmtOf xf).w →
      let sg := fieldS xf x
      (IsNaN xf x → (ty = 9 → res.1 = zeroOf 9 sg + 0x7F) ∧
        (ty ≠ 9 → IsNaN ty res.1 ∧ ¬ IsSNaN ty res.1 ∧ fieldS ty res.1 = sg ∧ (xf ≠ 9 →
          ∀ i, 2 ≤ i → i ≤ (fmtOf ty).f → bit (fieldF ty res.1) ((fmtOf ty).f - i) =
            (decide (i ≤ (fmtOf xf).f) && bit (fieldF xf x) ((fmtOf xf).f - i)))) ∧
        FlagsAre res.2 False False False False (IsSNaN xf x)) ∧
      (IsInf xf x →
        (r.sat = true → IsNum ty res.1 ∧ fieldS ty res.1 = sg ∧ magOf false ty res.1 = (fmtOf ty).top ∧ res.2 = 1) ∧
        (r.sat = false → res = if ty = 9 then (zeroOf 9 sg + 0x7F, 16) else (infOf ty sg, 0))) ∧
      (IsNum xf x → RoundsRat r ty (valOf r.ftz xf x) sg res))

/-- R142, R171, Table 7-2: the decoded value of a code in a block with a scale and a spare, and its conversion. -/
def Sys2Proof.Machine.BlockDecodes : Prop :=
  ∀ (code scale spare : Nat), code < 16 → scale < 256 → spare < 256 →
    let res := e2m1Value code scale spare
    let mags : List Rat := [0, 1 / 2, 1, 3 / 2, 2, 3, 4, 6]
    let u : Rat := if code = 8 then (if spare % 128 = 127 then 0 else valOf false 9 spare)
      else if 8 < code then -(mags.getD (code - 8) 0) else mags.getD code 0
    let is := fun (v : Rat) => (if res.1.neg then -1 else (1 : Rat)) * res.1.m * pow2 res.1.x = v
    (scale = 255 → is 0 ∧ res.2 = 0) ∧
    (scale ≠ 255 → is (u * pow2 (scale - 127)) ∧ res.2 = if code = 8 ∧ spare % 128 = 127 then 16 else 0) ∧
    ∀ (r : Rounding) (w : VReg) (ty j : Nat), r.rm ≤ 5 → r.rnd < 2 ^ 32 → 9 ≤ ty → ty ≤ 14 → w.elem 8 j = code →
      w.scaleAt (j / 32) = scale → w.spareAt (j / 32) = spare →
      let res := convertCode r w ty j;
      (scale = 255 → res = (0, 0)) ∧
      (scale ≠ 255 → if code = 8 ∧ spare % 128 = 127 then res = (0, 16)
        else RoundsRat r ty (u * pow2 (scale - 127)) (if code = 8 then spare / 128 else 0) res)

/-- R138 to R153, R163, R167, R169 to R171: what the floating functions of the vector instructions give for single elements:
the values, the rounding and the flags. Of exp2, log2, tanh, sigmoid, erf and sin the special values are stated, and exp2
and log2 where they are rational; the model computes the others by series (log 18). -/
def Obligations.FloatRounding : Prop :=
  SumsAndProducts ∧ QuotientsAndRoots ∧ SpecialFunctions ∧ OrderAndClass ∧ Conversions ∧ BlockDecodes

namespace Sys2Proof.Machine

/-- The rounding that an instruction captures for element i (R144 to R147, R154): SAT acts where it converts. -/
def capturedRounding (x : Kite) (f : Fields) (conv : Bool) (i : Nat) : Rounding :=
  { rm := if f.rm = 7 then x.rm else f.rm.toNat, ftz := x.ftz, sat := conv && x.sat, rnd := srsMix x.seed.toNat i }

/-- The elementwise forms with a floating meaning (Table 8-2, R170), with their function of one element. -/
def floatRules : List ((Fields → Instr) × Nat × (Rounding → Nat → Nat → Nat → Nat × Nat)) :=
  [(.vadd, 0x50, fun r ty b c => fAdd r ty false b c), (.vsub, 0x51, fun r ty b c => fAdd r ty true b c),
   (.vmul, 0x52, fMul), (.vdiv, 0x54, fDiv), (.vsqrt, 0x55, fun r ty b _ => fSqrt r ty b),
   (.vmin, 0x56, fun r ty b c => fMinMax r ty false b c), (.vmax, 0x57, fun r ty b c => fMinMax r ty true b c),
   (.vabs, 0x58, fun _ ty b _ => (b % 2 ^ (widthOf ty - 1), 0)),
   (.vneg, 0x59, fun _ ty b _ => ((b + 2 ^ (widthOf ty - 1)) % 2 ^ widthOf ty, 0))] ++
  (List.range 8).zipWith (fun n e => (e, 0x64, fun r ty b _ => fSpecial r ty n b))
    [.vsfnExp2, .vsfnLog2, .vsfnRcp, .vsfnRsqrt, .vsfnTanh, .vsfnSigmoid, .vsfnErf, .vsfnSin]

/-- What an instruction writes to elements of v[A], with its flags: element i where `at_ i` is `res`, every other kept; each
flag is that of some element written in a block that is valid afterwards (R150). -/
def WritesElems (x y : Kite) (fl a ty : Nat) (at_ : Nat → Option (Nat × Nat)) : Prop :=
  y = { x with v := y.v, binds := y.binds } ∧ (∀ r, r ≠ a → y.vget r = x.vget r) ∧ (y.vget a).tag = ty ∧
  (∀ i, (y.vget a).elem ty i = match at_ i with
    | some r => r.1 % 2 ^ widthOf ty
    | none => (x.vget a).elem ty i) ∧
  fl < 32 ∧ ∀ j < 5, bit fl j = true ↔ ∃ i r, at_ i = some r ∧ (y.vget a).valid (i / 32) = true ∧ bit r.2 j = true

end Sys2Proof.Machine

/-- R150, R159, R163, R164, R170: on a floating type, vadd, vsub, vmul, vdiv, vsqrt, vmin, vmax, vabs, vneg and the vsfn forms
write each active, guarded element with their function of the operands, whose value `FloatRounding` states; vfma likewise,
of v[B], C and the old element of v[A]. -/
def Sys2Proof.Machine.FloatElements : Prop :=
  (∀ e ∈ floatRules, ∀ (s : State) (c k : Nat) (f : Fields), VecIssues (e.1 f) e.2.1 f s c k → 9 ≤ f.ty.toNat →
    let x := s.kite c k
    let ctx := x.capture f
    let ty := f.ty.toNat
    ∃ (y : Kite) (fl : Nat),
      exec (e.1 f) s = .next (retire (s.modKite c k fun _ => y.vecDone e.2.1 f fl) c k f.yld) ∧
      WritesElems x y fl (opdValue f.a) ty fun i =>
        if i < ctx.len * 8 / widthOf ty ∧ ctx.on i = true then
          some (e.2.2 (capturedRounding x f false i) ty (x.celem ctx ty f.b i).v (x.celem ctx ty f.c i).v) else none) ∧
  ∀ (s : State) (c k : Nat) (f : Fields), VecIssues (.vfma f) 0x53 f s c k →
    let x := s.kite c k
    let ctx := x.capture f
    let ty := f.ty.toNat
    ∃ (y : Kite) (fl : Nat),
      exec (.vfma f) s = .next (retire (s.modKite c k fun _ => y.vecDone 0x53 f fl) c k f.yld) ∧
      WritesElems x y fl (opdValue f.a) ty fun i =>
        if i < ctx.len * 8 / widthOf ty ∧ ctx.on i = true then
          some (fFma (capturedRounding x f false i) ty (f.xf.toNat % 2 == 1) (f.xf.toNat / 2 % 2 == 1)
            (x.celem ctx ty f.b i).v (x.celem ctx ty f.c i).v ((x.vget (opdValue f.a)).elem ty i)) else none

/-- R167, R169: on a floating type vcmp writes bit i of p[A] with its comparison, 0 where a source is not valid, and raises
the flags of the comparisons of valid sources, by the reading of log 15; vclass with whether the class of the stored bits is in its mask, and no
flag; both for active i whose guard bit is set, and every other bit is kept. -/
def Sys2Proof.Machine.FloatTests : Prop :=
  (∀ e ∈ (List.range 8).zip [Instr.vcmpEq, .vcmpNe, .vcmpLt, .vcmpLe, .vcmpGt, .vcmpGe, .vcmpUo, .vcmpOrd],
    ∀ (s : State) (c k : Nat) (f : Fields), VecIssues (e.2 f) 0x5F f s c k → 9 ≤ f.ty.toNat →
    let x := s.kite c k
    let ctx := x.capture f
    let ty := f.ty.toNat
    let valid := fun i => (x.celem ctx ty f.b i).ok = true ∧ (x.celem ctx ty f.c i).ok = true
    let test := fun i => fCmp x.ftz ty e.1 (x.celem ctx ty f.b i).v (x.celem ctx ty f.c i).v
    ∃ (y : Kite) (fl : Nat),
      exec (e.2 f) s = .next (retire (s.modKite c k fun _ => y.vecDone 0x5F f fl) c k f.yld) ∧
      y = { x with p := y.p } ∧ (∀ r, r ≠ opdValue f.a → y.pget r = x.pget r) ∧
      (∀ i < x.pbits, bit (y.pget (opdValue f.a)) i = true ↔
        if i < ctx.count ty ∧ ctx.on i = true then valid i ∧ (test i).1 = true
        else bit (x.pget (opdValue f.a)) i = true) ∧
      ∀ j < 5, bit fl j = true ↔
        ∃ i, i < ctx.count ty ∧ ctx.on i = true ∧ valid i ∧ bit (test i).2 j = true) ∧
  ∀ (s : State) (c k : Nat) (f : Fields), VecIssues (.vclass f) 0x65 f s c k →
    let x := s.kite c k
    let ctx := x.capture f
    let ty := f.ty.toNat
    ∃ y : Kite, exec (.vclass f) s = .next (retire (s.modKite c k fun _ => y.vecDone 0x65 f 0) c k f.yld) ∧
      y = { x with p := y.p } ∧ (∀ r, r ≠ opdValue f.a → y.pget r = x.pget r) ∧
      ∀ i < x.pbits, bit (y.pget (opdValue f.a)) i =
        if i < ctx.count ty ∧ ctx.on i = true then
          bit (opdValue f.c) (fClass ty ((x.vget (opdValue f.b)).elem ty i))
        else bit (x.pget (opdValue f.a)) i

/-- R171: vcvt writes the elements d of v[A] below its capacity that its offset names, with the conversion of element j of
v[B], or zero where j is beyond its capacity; an E2M1B element is decoded with the scale and the spare of its block. -/
def Sys2Proof.Machine.ConversionResults : Prop :=
  ∀ e ∈ [(Instr.vcvtHalve, false), (.vcvtDouble, true)], ∀ (s : State) (c k : Nat) (f : Fields),
    VecIssues (e.1 f) 0x66 f s c k →
    let x := s.kite c k
    let ctx := x.capture f
    let ty := f.ty.toNat
    let xf := f.xf.toNat
    let n := ctx.len * 8 / max (widthOf ty) (widthOf xf)
    let o := if f.c = .none then 0 else ctx.sc.toNat
    let j := fun d => if e.2 then d + o else d - o
    let src := x.vget (opdValue f.b)
    ∃ (y : Kite) (fl : Nat),
      exec (e.1 f) s = .next (retire (s.modKite c k fun _ => y.vecDone 0x66 f fl) c k f.yld) ∧
      WritesElems x y fl (opdValue f.a) ty fun d =>
        if (if e.2 then d < n else o ≤ d ∧ d < n + o) ∧ d < capOf x.mvlb ty ∧ ctx.on d = true then
          some (if capOf x.mvlb xf ≤ j d then (0, 0)
            else if xf = 8 then convertCode (capturedRounding x f true d) src ty (j d)
            else convert (capturedRounding x f true d) xf ty (src.elem xf (j d))) else none

/-- A code of R172: q is nearest to the magnitude y among those of Table 7-2, of two as near the one of even code. -/
def Sys2Proof.Machine.NearestCode (y : Rat) (q : Nat) : Prop :=
  let mags : List Rat := [0, 1 / 2, 1, 3 / 2, 2, 3, 4, 6]
  q < 8 ∧ ∀ p < 8, p ≠ q → (y - mags.getD q 0).abs < (y - mags.getD p 0).abs ∨
    ((y - mags.getD q 0).abs = (y - mags.getD p 0).abs ∧ q % 2 = 0)

/-- R172: vcvtq, block by block: one without a chosen element is kept; one with a NaN, an infinity or an invalid source
becomes invalid, with scale 0xFF; another has the scale of its largest element, the nearest codes, and with .spare the
element of the largest error in its spare. -/
def Sys2Proof.Machine.QuantizedBlocks : Prop :=
  ∀ (s : State) (c k : Nat) (f : Fields), VecIssues (.vcvtq f) 0x67 f s c k → 0 < (s.kite c k).mvlb →
    (s.kite c k).mvlb % 128 = 0 →
    let x := s.kite c k
    let ctx := x.capture f
    let cap := x.mvlb / 4
    let a := opdValue f.a
    let from_ := fun i => x.vget (opdValue f.b + i / cap)
    let bitsOf := fun i => (from_ i).elem 13 (i % cap)
    let v := fun i => valOf x.ftz 13 (bitsOf i)
    let chosen := fun b i => 32 * b ≤ i ∧ i < 32 * b + 32 ∧ i < ctx.len * 2 ∧ ctx.on i = true
    let bad := fun b => (∃ i, chosen b i ∧ (IsNaN 13 (bitsOf i) ∨ IsInf 13 (bitsOf i))) ∨
      (from_ (32 * b)).valid (32 * b % cap / 32) = false
    ∃ (y : Kite) (fl : Nat),
      exec (.vcvtq f) s = .next (retire (s.modKite c k fun _ => y.vecDone 0x67 f fl) c k f.yld) ∧
      (∀ r, r ≠ a → y.vget r = x.vget r) ∧
      let old := x.vget a
      let new := y.vget a
      new.tag = 8 ∧ new.link = none ∧ (∀ j < 5, bit fl j = true → j = 0 ∨ j = 4) ∧
      (bit fl 4 = true ↔ ∃ b i, chosen b i ∧ IsSNaN 13 (bitsOf i)) ∧
      ∀ b, (∀ i, 32 * b ≤ i → i < 32 * b + 32 → ¬ chosen b i → new.elem 8 i = old.elem 8 i) ∧
        ((∀ i, ¬ chosen b i) →
          new.scaleAt b = old.scaleAt b ∧ new.spareAt b = old.spareAt b ∧ new.valid b = old.valid b) ∧
        ((∃ i, chosen b i) → bad b → new.scaleAt b = 255 ∧ new.spareAt b = 0 ∧ new.valid b = false ∧
          ∀ i, chosen b i → new.elem 8 i = 0) ∧
        ((∃ i, chosen b i) → ¬ bad b → ∃ (X : Int) (q : Nat → Nat),
          ((∀ i, chosen b i → v i = 0) → X = -127) ∧
          (∀ i l, chosen b i → (∀ j, chosen b j → (v j).abs ≤ (v i).abs) → pow2 l ≤ (v i).abs → (v i).abs < pow2 (l + 1) →
            X = max (-127) (min 127 (l - 2))) ∧
          new.scaleAt b = X + 127 ∧ (∀ i, chosen b i → NearestCode ((v i).abs / pow2 X) (q i)) ∧
          let err := fun i => ((v i).abs / pow2 X - ([0, 1 / 2, 1, 3 / 2, 2, 3, 4, 6] : List Rat).getD (q i) 0).abs
          let code := fun i => if q i ≠ 0 ∧ v i < 0 then 8 + q i else q i
          (new.valid b = true ↔ (old.valid b = true ∨ ∀ i, 32 * b ≤ i → i < 32 * b + 32 → i < capOf x.mvlb 8 → chosen b i)) ∧
          (f.xf.toNat % 2 = 0 ∨ (∀ i, chosen b i → err i = 0) →
            new.spareAt b = 0 ∧ (∀ i, chosen b i → new.elem 8 i = code i) ∧
            (new.valid b = true → (∃ i, chosen b i ∧ err i ≠ 0) → bit fl 0 = true)) ∧
          (f.xf.toNat % 2 = 1 → (∃ i, chosen b i ∧ err i ≠ 0) → ∃ (k0 g : Nat), chosen b k0 ∧
            (∀ i, chosen b i → err i ≤ err k0 ∧ (err i = err k0 → k0 ≤ i)) ∧ new.elem 8 k0 = 8 ∧
            RoundsRat {} 9 (v k0 / pow2 X) 0 (new.spareAt b, g) ∧
            (∀ i, chosen b i → i ≠ k0 → new.elem 8 i = code i) ∧
            (new.valid b = true → g ≠ 0 ∨ (∃ i, chosen b i ∧ i ≠ k0 ∧ err i ≠ 0) → bit fl 0 = true)))

/-- R173: vbscl moves the scale, spare and validity of the blocks b whose guard bit 32 b is set, as Table 8-6 says, and raises
no flag. -/
def Sys2Proof.Machine.BlockBytes : Prop :=
  let done := fun (i : Instr) (s : State) (c k : Nat) (f : Fields) (y : Kite) =>
    exec i s = .next (retire (s.modKite c k fun _ => y.vecDone 0x68 f 0) c k f.yld) ∧
      y = { s.kite c k with v := y.v, p := y.p, binds := y.binds }
  let picks := fun (x : Kite) (f : Fields) (b : Nat) =>
    32 * b < (x.capture f).len * 8 / widthOf f.ty.toNat ∧ (x.capture f).on (32 * b) = true
  (∀ e ∈ [(Instr.vbsclRdscale, VReg.scaleAt), (.vbsclRdspare, VReg.spareAt)], ∀ (s : State) (c k : Nat) (f : Fields),
    VecIssues (e.1 f) 0x68 f s c k →
    let x := s.kite c k
    let nb := ((x.capture f).len * 2 + 31) / 32
    ∃ y : Kite, done (e.1 f) s c k f y ∧ (∀ r, r ≠ opdValue f.a → y.vget r = x.vget r) ∧
      (y.vget (opdValue f.a)).link = none ∧
      (∀ b, picks x f b → (y.vget (opdValue f.a)).elem 0 b = e.2 (x.vget (opdValue f.b)) b) ∧
      (∀ b, ¬ picks x f b → (y.vget (opdValue f.a)).elem 0 b = (x.vget (opdValue f.a)).elem 0 b) ∧
      ∀ j, (y.vget (opdValue f.a)).valid j = (decide (32 * j < nb) || (x.vget (opdValue f.a)).valid j)) ∧
  (∀ (s : State) (c k : Nat) (f : Fields), VecIssues (.vbsclWrscale f) 0x68 f s c k →
    let x := s.kite c k
    let old := x.vget (opdValue f.a)
    let e := fun b => (x.vget (opdValue f.b)).elem 0 b
    ∃ y : Kite, done (.vbsclWrscale f) s c k f y ∧ (∀ r, r ≠ opdValue f.a → y.vget r = x.vget r) ∧
      let new := y.vget (opdValue f.a)
      new.data = old.data ∧ new.link = old.link ∧
      ∀ b, (picks x f b → new.scaleAt b = e b ∧ new.valid b = (decide (e b ≠ 255) && old.valid b)) ∧
        (¬ picks x f b → new.scaleAt b = old.scaleAt b ∧ new.valid b = old.valid b)) ∧
  (∀ (s : State) (c k : Nat) (f : Fields), VecIssues (.vbsclWrspare f) 0x68 f s c k →
    let x := s.kite c k
    let old := x.vget (opdValue f.a)
    ∃ y : Kite, done (.vbsclWrspare f) s c k f y ∧ (∀ r, r ≠ opdValue f.a → y.vget r = x.vget r) ∧
      let new := y.vget (opdValue f.a)
      new.data = old.data ∧ new.link = old.link ∧ new.inval = old.inval ∧
      ∀ b, new.spareAt b = if picks x f b then (x.vget (opdValue f.b)).elem 0 b else old.spareAt b) ∧
  (∀ (s : State) (c k : Nat) (f : Fields), VecIssues (.vbsclRdvalid f) 0x68 f s c k →
    let x := s.kite c k
    ∃ y : Kite, done (.vbsclRdvalid f) s c k f y ∧ (∀ r, y.vget r = x.vget r) ∧
      ∀ b < x.pbits, bit (y.pget (opdValue f.a)) b =
        if picks x f b then (x.vget (opdValue f.b)).valid b else bit (x.pget (opdValue f.a)) b) ∧
  ∀ (s : State) (c k : Nat) (f : Fields), VecIssues (.vbsclWrvalid f) 0x68 f s c k →
    let x := s.kite c k
    let old := x.vget (opdValue f.a)
    ∃ y : Kite, done (.vbsclWrvalid f) s c k f y ∧ (∀ r, r ≠ opdValue f.a → y.vget r = x.vget r) ∧
      let new := y.vget (opdValue f.a)
      new.data = old.data ∧ new.scale = old.scale ∧ new.spare = old.spare ∧ new.link = old.link ∧
      ∀ b, new.valid b = if picks x f b then bit (x.pget (opdValue f.b)) b else old.valid b

/-- R150, R159, R163, R164, R167, R169 to R173: what the floating vector instructions, the conversions and vbscl write. That
the flags of a comparison are those of its elements with valid sources alone is the model's reading (log 15). -/
def Obligations.FloatResults : Prop :=
  FloatElements ∧ FloatTests ∧ ConversionResults ∧ QuantizedBlocks ∧ BlockBytes
/-! ## Results of vector memory instructions -/

namespace Sys2Proof.Machine

/-- The kite is outside a region, where a fault parks it at once (R291), and no late trap waits for its instruction to be
over (R364). -/
def ParksHere (x : Kite) : Prop := x.region = none ∧ x.late = []

/-- The kite has been parked by a failed check at an address and an element, with its vector registers as they were. -/
def ParkedAt (x y : Kite) (va i : Nat) : Prop :=
  y.st = .parked ∧ y.faultva = BitVec.ofNat 64 va ∧ y.faultelt = BitVec.ofNat 64 i ∧ y.v = x.v ∧ y.p = x.p ∧
    y.cur = x.cur ∧ y.idx = x.idx

/-- R211: vldff loads the taken elements before the first that fails a check, sets bits 0 to n - 1 of p[C] for the elements
loaded and clears the others, and leaves later elements as they were; it faults only where the first taken element
fails. -/
def FirstFaultLoads : Prop :=
  ∀ (s : State) (c k : Nat) (f : Fields), VecIssues (.vldff f) 0x74 f s c k →
    let x := s.kite c k
    let ctx := x.capture f
    let ty := f.ty.toNat
    let w := widthOf ty / 8
    let n := ctx.count ty
    let a := opdValue f.a
    let addr := fun i => (x.memAddr f.b + i * w) % 2 ^ 64
    let taken := fun i => i < n ∧ ctx.on i = true
    let fails := fun i => taken i ∧ foundAt s c 0 (addr i) w false = none
    Quiet s c x →
    (∀ (far : Nat) (at_ : Nat → Xlat), (∀ i < far, taken i → Reads s c 0 (addr i) w (at_ i)) →
      far = n ∨ (fails far ∧ ∃ i < far, taken i) →
      ∃ t, exec (.vldff f) s = .next (retire t c k f.yld) ∧ SameMemory s t ∧
        (∀ i, i < far → taken i → ((t.kite c k).vget a).elem ty i = s.seen c x 0 (at_ i).a w) ∧
        (∀ i, ¬ (i < far ∧ taken i) → ((t.kite c k).vget a).elem ty i = (x.vget a).elem ty i) ∧
        (∀ b, ((t.kite c k).vget a).valid b = true ↔ ValidAfter ((x.vget a).valid b) (capOf x.mvlb ty)
          (fun i => i < far ∧ taken i) (fun _ => True) b) ∧
        (∀ r, r ≠ a → (t.kite c k).vget r = x.vget r) ∧
        ∀ i, bit ((t.kite c k).pget (opdValue f.c)) i =
          if i < n then decide (i < far) && ctx.on i else bit (x.pget (opdValue f.c)) i) ∧
    (ParksHere x → ∀ i, fails i → (∀ j < i, ¬ taken j) →
      ∃ u, exec (.vldff f) s = .next u ∧ ParkedAt x (u.kite c k) (addr i) i ∧
        (addr i % w ≠ 0 → (u.kite c k).cause = 0x03) ∧
        (addr i % w = 0 → inWindow (addr i) = false ∨ inWindow (addr i + w - 1) = false → (u.kite c k).cause = 0x06) ∧
        ∀ e, addr i % w = 0 → inWindow (addr i) = true → inWindow (addr i + w - 1) = true →
          spanXlat s c (s.crew c).ctx (addr i) false = .error e → (u.kite c k).cause = readCause e)

/-- The addresses of a block access (R212): of the code of element i, and of the scale and the spare byte of block b. -/
def codeAddr (base i : Nat) : Nat := (base + i / 2) % 2 ^ 64
def scaleAddr (arr : Nat) (nsp : Bool) (b : Nat) : Nat := (arr + if nsp then b else 2 * b) % 2 ^ 64
def spareAddr (arr b : Nat) : Nat := (arr + 2 * b + 1) % 2 ^ 64

/-- R212: vldb loads the code of each taken element, and the scale of each block whose first element is taken, with the
spare byte beside it or zero without; such a block becomes valid unless its scale is 255, or it keeps an element and was
invalid. -/
def BlockLoads : Prop :=
  ∀ (s : State) (c k : Nat) (f : Fields), VecIssues (.vldb f) 0x75 f s c k →
    let x := s.kite c k
    let ctx := x.capture f
    let sp := f.xf.toNat / 2
    let nsp := bit f.xf.toNat 0
    let a := opdValue f.a
    let base := x.memAddr f.b
    let arr := (x.opd f.c).toNat
    let taken := fun i => i < ctx.count 8 ∧ ctx.on i = true
    let heads := fun b => taken (32 * b)
    (sp = 0 → Quiet s c x) → base % 16 = 0 → nsp = true ∨ arr % 2 = 0 →
    ∀ at_ : Nat → Xlat,
    let good := fun va => Reads s c sp va 1 (at_ va)
    let byte := fun va => s.seen c x sp (at_ va).a 1
    (∀ i, taken i → good (codeAddr base i)) → (∀ b, heads b → good (scaleAddr arr nsp b)) →
    (∀ b, heads b → nsp = false → good (spareAddr arr b)) →
    ∃ t, exec (.vldb f) s = .next (retire t c k f.yld) ∧ SameMemory s t ∧ (sp ≠ 0 → OnlyKite c k s t) ∧
      let old := x.vget a
      let new := (t.kite c k).vget a
      (∀ i, taken i → new.elem 8 i = byte (codeAddr base i) / 16 ^ (i % 2) % 16) ∧
      (∀ i, ¬ taken i → new.elem 8 i = old.elem 8 i) ∧
      (∀ b, heads b → new.scaleAt b = byte (scaleAddr arr nsp b) ∧
        new.spareAt b = (if nsp then 0 else byte (spareAddr arr b)) ∧
        (new.valid b = true ↔ byte (scaleAddr arr nsp b) ≠ 255 ∧
          ((∃ j < 32, 32 * b + j < capOf x.mvlb 8 ∧ ¬ taken (32 * b + j)) → old.valid b = true))) ∧
      (∀ b, ¬ heads b → new.scaleAt b = old.scaleAt b ∧ new.spareAt b = old.spareAt b ∧ new.valid b = old.valid b) ∧
      new.tag = 8 ∧ new.link = none ∧ ∀ r, r ≠ a → (t.kite c k).vget r = x.vget r

/-- R212: vstb puts among the strip's pending stores the code of each taken element, a nibble of its byte, and for each
block whose first element is taken its scale, 255 for an invalid block, with its spare byte unless there is none; the
scales lie apart from the codes. -/
def BlockStores : Prop :=
  ∀ (s : State) (c k : Nat) (f : Fields), VecIssues (.vstb f) 0x76 f s c k →
    let x := s.kite c k
    let ctx := x.capture f
    let sp := f.xf.toNat / 2
    let nsp := bit f.xf.toNat 0
    let r := x.vget (opdValue f.b)
    let base := x.memAddr f.a
    let arr := (x.opd f.c).toNat
    let taken := fun i => i < ctx.count 8 ∧ ctx.on i = true
    let heads := fun b => taken (32 * b)
    f.lst = false → (sp = 0 → x.tintv = 0) → base % 16 = 0 → nsp = true ∨ arr % 2 = 0 →
    ∀ at_ : Nat → Xlat,
    let good := fun va => foundAt s c sp va 1 true = some (at_ va)
    let codeOf := fun i m => taken i ∧ (at_ (codeAddr base i)).a = m
    let scaleOf := fun b m => heads b ∧ (at_ (scaleAddr arr nsp b)).a = m
    let spareOf := fun b m => heads b ∧ nsp = false ∧ (at_ (spareAddr arr b)).a = m
    (∀ i, taken i → good (codeAddr base i)) → (∀ b, heads b → good (scaleAddr arr nsp b)) →
    (∀ b, heads b → nsp = false → good (spareAddr arr b)) →
    (∀ i j m, codeOf i m → codeOf j m → i / 2 = j / 2) →
    (∀ b d m, scaleOf b m → scaleOf d m → b = d) → (∀ b d m, spareOf b m → spareOf d m → b = d) →
    (∀ i b m, codeOf i m → ¬ scaleOf b m ∧ ¬ spareOf b m) → (∀ b d m, scaleOf b m → ¬ spareOf d m) →
    ∃ t ps, exec (.vstb f) s = .next (retire t c k f.yld) ∧ OnlyKite c k s t ∧ (t.kite c k).pend = x.pend ++ ps ∧
      (∀ m, (∃ p ∈ ps, ∃ b ∈ p.bytes, b.addr = m) ↔
        (∃ i, codeOf i m) ∨ (∃ b, scaleOf b m) ∨ ∃ b, spareOf b m) ∧
      (t.kite c k).v = x.v ∧
      ∀ p ∈ ps, p.space = sp ∧ p.view = x.tintv ∧ ∀ w ∈ p.bytes,
        (∀ i, codeOf i w.addr → w.value / 16 ^ (i % 2) % 16 = r.elem 8 i ∧ w.mask / 16 ^ (i % 2) % 16 = 15 ∧
          ((∀ j, codeOf j w.addr → j = i) → w.mask / 16 ^ (1 - i % 2) % 16 = 0)) ∧
        (∀ b, scaleOf b w.addr → w.mask = 255 ∧ w.value = if r.valid b then r.scaleAt b else 255) ∧
        ∀ b, spareOf b w.addr → w.mask = 255 ∧ w.value = r.spareAt b

/-- R218, R219: element i of an mmv, at which it starts or goes on, makes the destination's bytes the function of what was
there and of the source's element; as its last element it ends the instruction with MMPROG zero and its flags delivered,
and otherwise MMPROG names the next. An element that fails a check stops it there, with the elements before kept. -/
def StreamElements : Prop :=
  ∀ e ∈ streamForms, ∀ (s : State) (c k : Nat) (f : Fields),
    let x := s.kite c k
    let ctx := x.capture f
    let w := widthOf f.ty.toNat / 8
    let sw := widthOf (if f.fn = 4 then f.xf.toNat else f.ty.toNat) / 8
    let i := if x.mmAct then x.mmIdx else 0
    let n := (x.opd f.c).toNat
    let d := (x.memAddr f.a + i * w) % 2 ^ 64
    let u := (x.memAddr f.b + i * sw) % 2 ^ 64
    Quiet s c x → x.late = [] →
    (∀ pd px, foundAt s c 0 d w true = some pd → isGuest s.module (dieOf c) pd.cl pd.a = false → Reads s c 0 u sw px →
      let r := e.2 f (ctx.rounding (f.fn == 4) i) (s.seen c x 0 pd.a w) (s.seen c x 0 px.a sw)
        (ctx.sc1.toNat % 2 ^ widthOf f.ty.toNat)
      let wrote := fun (t : State) => SameMemory s t ∧ ∀ a, engineByte t c (s.crew c).ctx 0 a =
        if pd.a ≤ a ∧ a < pd.a + w then BitVec.ofNat 8 (r.1 / 2 ^ (8 * (a - pd.a))) else memGet s.mem a
      (VecIssues (e.1 f) 0x79 f s c k → n = i + 1 →
        ∃ t, exec (e.1 f) s = .next (retire t c k f.yld) ∧ wrote t ∧ (t.kite c k).mmAct = false ∧
          (t.kite c k).mmIdx = 0 ∧ (t.kite c k).v = x.v ∧ ∃ q, (t.kite c k).vq = x.vq ++ [q] ∧ q.flags = r.2) ∧
      (Issues (e.1 f) s c k → s.hold = true → x.vq.length < 8 → x.undispatched = false → movesQueued s c k = false →
        i < n →
        ∃ t, exec (e.1 f) s = .next t ∧ wrote t ∧ (t.kite c k).mmAct = true ∧ (t.kite c k).mmIdx = i + 1 ∧
          (t.kite c k).fpflags = x.fpflags ||| r.2 ∧ (t.kite c k).cur = x.cur ∧ (t.kite c k).idx = x.idx ∧
          (t.kite c k).st = .flying)) ∧
    (VecIssues (e.1 f) 0x79 f s c k → ParksHere x → i < n →
      let stops := fun (va : Nat) => ∃ t, exec (e.1 f) s = .next t ∧ ParkedAt x (t.kite c k) va i ∧
        (t.kite c k).mmAct = true ∧ (t.kite c k).mmIdx = i ∧ (t.kite c k).fpflags = x.fpflags
      (foundAt s c 0 d w true = none → stops d) ∧
      ∀ pd, foundAt s c 0 d w true = some pd → foundAt s c 0 u sw false = none → stops u)

/-- R300, R364: a vector load or an nshld that the machine holds after its checks takes its place in the vector queue with
the bytes that it is to read, and its registers are written as its data arrives; so does a reader of bound registers, its
streams moved on. Which of them may be held is the reading of log 11. -/
def LoadsUnderWay : Prop :=
  (∀ e ∈ ([(.vld, 0x70, vldPlan), (.vldx, 0x72, vldxPlan), (.vldff, 0x74, vldffPlan), (.vldb, 0x75, vldbPlan),
      (.nshld, 0x88, nshldPlan)] :
      List ((Fields → Instr) × Nat × (Fields → State → Nat → Nat → VCtx → Except KFail (HeldLoad × State)))),
    ∀ (s s' : State) (c k : Nat) (f : Fields) (h : HeldLoad), Issues (e.1 f) s c k → s.hold = true →
      let x := s.kite c k
      x.vq.length < 8 → x.undispatched = false → movesQueued s c k = false →
      (∀ r ∈ vecReads e.2.1 f, x.binds.find r = none) → e.2.2 f s c k (x.capture f) = .ok (h, s') →
      exec (e.1 f) s = .next (retire (s'.modKite c k fun y => ((y.finishLst e.2.1 f).advanceSeed f).enqueue
        { op := e.2.1, f := f, ctx := x.capture f, load := some h }) c k f.yld)) ∧
  (∀ e ∈ arithForms, ∀ (s : State) (c k : Nat) (f : Fields) (bs : List (VAddr × List Xlat)), Issues (e.1 f) s c k →
    s.hold = true →
      let x := s.kite c k
      x.vq.length < 8 → x.undispatched = false → movesQueued s c k = false → x.mayTrail e.2.1 f = true →
      planStreams s c k (x.capture f) (vecReads e.2.1 f) = .ok bs → vecFixing s c k 0 = none →
      exec (e.1 f) s = .next (retire (s.modKite c k fun y =>
        ((y.stepStreams (x.capture f) (vecReads e.2.1 f)).advanceSeed f).enqueue
          { op := e.2.1, f := f, ctx := x.capture f, load := some (holdElems 0 0 bs fun _ => true) }) c k f.yld)) ∧
  ∀ (s : State) (c k : Nat) (f : Fields) (at_ : Nat → Xlat),
    let x := s.kite c k
    let ctx := x.capture f
    let w := widthOf f.ty.toNat / 8
    kiteOrphan s c x = false → viewFixing s (s.crew c).ctx x.tintv = false →
    (∀ i < ctx.count f.ty.toNat, ctx.on i = true → foundAt s c f.fn.toNat (vecAddr x f f.b i) w false = some (at_ i)) →
    ∃ h, vldPlan f s c k ctx = .ok (h, s) ∧ h.space = f.fn.toNat ∧
      h.elems.map (·.i) = (List.range (ctx.count f.ty.toNat)).filter ctx.on ∧
      ∀ l ∈ h.elems, l.ok = true ∧ l.bytes.map (·.a) = (List.range w).map fun j => (at_ l.i).a + j

end Sys2Proof.Machine

/-- R211, R212, R218, R219, R300: the results of the first-fault loads, the block accesses and the memory streams, and the
loads whose data comes later. Details are by the readings of logs 11 and 16. -/
def Obligations.MemoryVectorResults : Prop :=
  FirstFaultLoads ∧ BlockLoads ∧ BlockStores ∧ StreamElements ∧ LoadsUnderWay

/-! ## Results of nested instructions -/

namespace Sys2Proof.Machine

/-- An integer fold of some elements by a function of Table 9-6 (R183, R186): their sum modulo 2^w, the smallest, the
largest, or their bitwise and, or and exclusive or; the identity of Table 9-4 where there is none. -/
def FoldsTo (g : RedFn) (ty : Nat) (vs : List Nat) (v : Nat) : Prop :=
  v < 2 ^ widthOf ty ∧
  match g with
  | .add => v = vs.sum % 2 ^ widthOf ty
  | .min => if vs = [] then intVal ty v = intMax ty else v ∈ vs ∧ ∀ u ∈ vs, intVal ty v ≤ intVal ty u
  | .max => if vs = [] then intVal ty v = intMin ty else v ∈ vs ∧ ∀ u ∈ vs, intVal ty u ≤ intVal ty v
  | .and => ∀ j < widthOf ty, (v.testBit j = true ↔ ∀ u ∈ vs, u.testBit j = true)
  | .or => ∀ j < widthOf ty, (v.testBit j = true ↔ ∃ u ∈ vs, u.testBit j = true)
  | .xor => ∀ j < widthOf ty, v.testBit j = decide ((vs.countP fun u => u.testBit j) % 2 = 1)

/-- nred and nscan by their function. -/
def reduceForms : List ((Fields → Instr) × RedFn) :=
  [(.nredAdd, .add), (.nredMin, .min), (.nredMax, .max), (.nredAnd, .and), (.nredOr, .or), (.nredXor, .xor)]
def scanForms : List ((Fields → Instr) × RedFn) :=
  [(.nscanAdd, .add), (.nscanMin, .min), (.nscanMax, .max), (.nscanAnd, .and), (.nscanOr, .or), (.nscanXor, .xor)]

/-- The checks of R178 and R185 pass for a source shape at a depth, of n elements. -/
def ShapeFits (x : Kite) (sh : Option Shape) (dp n : Nat) : Prop :=
  match sh with
  | none => dp = 0
  | some h => dp ≤ h.depth ∧ (∀ o ∈ h.lv, o.length - 1 ≤ x.levelCap) ∧ h.extent = n

/-- What a reduction reads (R180, R182, R186): its segments, whether a carry is taken up, whether one is left, and its
present elements, the active ones whose guard bit is set. -/
structure RedSource where
  ty    : Nat
  n     : Nat
  segs  : List (Nat × Nat)
  takes : Prop
  leaves : Prop
  carry : Carry
  reg   : VReg
  on    : Nat → Bool

/-- The source of nred and nscan. -/
def redSource (x : Kite) (f : Fields) : RedSource :=
  let ctx := x.capture f
  let dp := f.dp.toNat
  let sh := x.linked (opdValue f.b)
  let n := ctx.count f.ty.toNat
  let segs := match sh with | some h => h.segments dp n | none => [(0, n)]
  { ty := f.ty.toNat, n := n, segs := segs
    takes := (x.k.get dp).opn = true ∧ ∀ h, sh = some h → bit h.openIn dp = true
    leaves := segs ≠ [] ∧ ∃ h, sh = some h ∧ bit h.openOut dp = true
    carry := x.k.get dp, reg := x.vget (opdValue f.b), on := ctx.on }

/-- The indices of the present elements from lo up to hi, hi excluded. -/
def RedSource.present (r : RedSource) (lo hi : Nat) : List Nat :=
  (List.range r.n).filter fun i => decide (lo ≤ i) && decide (i < hi) && r.on i

/-- What segment j folds of its elements from lo up to hi: the first segment begins with a carry that it takes up, whose
VALUE bits above the width are dropped (log 18); and
whether all of it is valid (R188). -/
def RedSource.values (r : RedSource) (j lo hi : Nat) (vs : List Nat) : Prop :=
  let es := (r.present lo hi).map fun i => r.reg.elem r.ty i
  (j = 0 ∧ r.takes → vs = r.carry.value % 2 ^ widthOf r.ty :: es) ∧ (¬ (j = 0 ∧ r.takes) → vs = es)
def RedSource.okay (r : RedSource) (j lo hi : Nat) : Prop :=
  (∀ i ∈ r.present lo hi, r.reg.valid (i / 32) = true) ∧ (j = 0 ∧ r.takes → r.carry.bad = false)

/-- The carry that a reduction leaves at its depth (R182, R186): the fold of its last segment, or zero;
VALUE bits above the width are dropped (log 18). -/
def RedSource.carryLeft (r : RedSource) (g : RedFn) (k' : Carry) : Prop :=
  (¬ r.leaves → k' = {}) ∧
  (r.leaves → ∀ lo hi, r.segs[r.segs.length - 1]? = some (lo, hi) →
    let j := r.segs.length - 1
    (∃ vs, r.values j lo hi vs ∧ FoldsTo g r.ty vs k'.value) ∧ k'.opn = true ∧ (k'.bad = false ↔ r.okay j lo hi) ∧
    ∀ old, (j = 0 ∧ r.takes → old = r.carry.count) → (¬ (j = 0 ∧ r.takes) → old = 0) →
      k'.count = min (old + (r.present lo hi).length) (2 ^ 32 - 1))

/-- R183, R186, R188: an integer nred at any depth gives each segment, but a last one that goes on, its fold in v[A], and
leaves the carry; from depth 2 on h[C] receives the levels above, and below it becomes empty. -/
def ReduceResults : Prop :=
  ∀ e ∈ reduceForms, ∀ (s : State) (c k : Nat) (f : Fields) (results : Nat), VecIssues (e.1 f) 0x80 f s c k →
    f.ty.toNat < 8 →
    let x := s.kite c k
    let r := redSource x f
    let dp := f.dp.toNat
    let sh := x.linked (opdValue f.b)
    let a := opdValue f.a
    ShapeFits x sh dp r.n → results ≤ capOf x.mvlb r.ty →
    (r.leaves → results + 1 = r.segs.length) → (¬ r.leaves → results = r.segs.length) →
    ∃ t, exec (e.1 f) s = .next (retire t c k f.yld) ∧ OnlyKite c k s t ∧
      let y := t.kite c k
      (∀ j lo hi, j < results → r.segs[j]? = some (lo, hi) →
        ∃ vs, r.values j lo hi vs ∧ FoldsTo e.2 r.ty vs ((y.vget a).elem r.ty j)) ∧
      (∀ j, results ≤ j → (y.vget a).elem r.ty j = (x.vget a).elem r.ty j) ∧
      (∀ b, (y.vget a).valid b = true ↔ ValidAfter ((x.vget a).valid b) (capOf x.mvlb r.ty) (fun j => j < results)
        (fun j => ∀ lo hi, r.segs[j]? = some (lo, hi) → r.okay j lo hi) b) ∧
      r.carryLeft e.2 (y.k.get dp) ∧ (∀ l, l ≠ dp → y.k.get l = x.k.get l) ∧
      (f.lst = false → ∀ i, i ≠ a → y.vget i = x.vget i) ∧
      (dp ≤ 1 → (y.vget a).link = none ∧ ∀ i, f.c = .h i → y.h.get i.toNat = {}) ∧
      ∀ h, sh = some h → 2 ≤ dp → ∀ i, f.c = .h i →
        (y.vget a).link = some i.toNat ∧ (y.h.get i.toNat).depth = dp - 1 ∧
        (∀ l, 1 ≤ l → l < dp - 1 → (y.h.get i.toNat).level l = h.level l) ∧
        (y.h.get i.toNat).level (dp - 1) = (h.level (dp - 1)).map (min results) ∧
        ∀ l < dp, bit (y.h.get i.toNat).openIn l = bit h.openIn l ∧ bit (y.h.get i.toNat).openOut l = bit h.openOut l

/-- R183, R187, R188: an integer nscan gives each present element the fold of its segment up to it, or below it with
XF[0], keeps the others, and leaves the carry of nred. -/
def ScanResults : Prop :=
  ∀ e ∈ scanForms, ∀ (s : State) (c k : Nat) (f : Fields), VecIssues (e.1 f) 0x81 f s c k → f.ty.toNat < 8 →
    let x := s.kite c k
    let r := redSource x f
    let dp := f.dp.toNat
    let a := opdValue f.a
    let upTo := fun i => if bit f.xf.toNat 0 then i else i + 1
    let folded := fun i => i < r.n ∧ r.on i = true ∧ ∃ e ∈ r.segs, e.1 ≤ i ∧ i < e.2
    ShapeFits x (x.linked (opdValue f.b)) dp r.n → r.segs.Pairwise (fun e d => e.2 ≤ d.1) →
    ∃ t, exec (e.1 f) s = .next (retire t c k f.yld) ∧ OnlyKite c k s t ∧
      let y := t.kite c k
      (∀ i j lo hi, i < r.n → r.on i = true → r.segs[j]? = some (lo, hi) → lo ≤ i → i < hi →
        ∃ vs, r.values j lo (upTo i) vs ∧ FoldsTo e.2 r.ty vs ((y.vget a).elem r.ty i)) ∧
      (∀ i, ¬ folded i → (y.vget a).elem r.ty i = (x.vget a).elem r.ty i) ∧
      (∀ b, (y.vget a).valid b = true ↔ ValidAfter ((x.vget a).valid b) (capOf x.mvlb r.ty) folded
        (fun i => ∀ j lo hi, r.segs[j]? = some (lo, hi) → lo ≤ i → i < hi → r.okay j lo (upTo i)) b) ∧
      (y.vget a).link = (x.vget (opdValue f.b)).link ∧
      r.carryLeft e.2 (y.k.get dp) ∧ (∀ l, l ≠ dp → y.k.get l = x.k.get l) ∧
      (f.lst = false → ∀ i, i ≠ a → y.vget i = x.vget i) ∧ y.h = x.h

/-- R189: ndist gives each guarded element the value of the segment that holds it, and links v[A] to h[C]. -/
def DistributeResults : Prop :=
  ∀ (s : State) (c k : Nat) (f : Fields), VecIssues (.ndist f) 0x83 f s c k →
    let x := s.kite c k
    let ctx := x.capture f
    let ty := f.ty.toNat
    let n := ctx.count ty
    let dp := f.dp.toNat
    let h := x.h.get (opdValue f.c)
    let segs := h.segments dp n
    let a := opdValue f.a
    (dp ≠ 0 → ShapeFits x (some h) dp n) → segs.length ≤ capOf x.mvlb ty →
    segs.Pairwise (fun e d => e.2 ≤ d.1) →
    ∃ t, exec (.ndist f) s = .next (retire t c k f.yld) ∧ OnlyKite c k s t ∧
      let y := t.kite c k
      (∀ i j lo hi, i < n → ctx.on i = true → segs[j]? = some (lo, hi) → lo ≤ i → i < hi →
        (y.vget a).elem ty i = (x.vget (opdValue f.b)).elem ty j) ∧
      (∀ i, ¬ (i < n ∧ ctx.on i = true ∧ ∃ e ∈ segs, e.1 ≤ i ∧ i < e.2) →
        (y.vget a).elem ty i = (x.vget a).elem ty i) ∧
      (∀ b, (y.vget a).valid b = true ↔ ValidAfter ((x.vget a).valid b) (capOf x.mvlb ty)
        (fun i => i < n ∧ ctx.on i = true ∧ ∃ e ∈ segs, e.1 ≤ i ∧ i < e.2)
        (fun i => ∀ j lo hi, segs[j]? = some (lo, hi) → lo ≤ i → i < hi →
          (x.vget (opdValue f.b)).valid (j / 32) = true) b) ∧
      (y.vget a).link = some (opdValue f.c) ∧ y.h = x.h ∧ y.k = x.k

/-- R190: npack moves the kept elements, those whose guard bit is set, to the front of v[A], makes the rest up to n zero
and valid, and gives h[C] the shape of the source with each innermost offset counting the kept elements below it. -/
def PackResults : Prop :=
  ∀ (s : State) (c k : Nat) (f : Fields), VecIssues (.npack f) 0x82 f s c k →
    let x := s.kite c k
    let ctx := x.capture f
    let ty := f.ty.toNat
    let n := ctx.count ty
    let sh := x.linked (opdValue f.b)
    let a := opdValue f.a
    let kept := (List.range n).filter ctx.on
    ShapeFits x sh 0 n →
    ∃ t, exec (.npack f) s = .next (retire t c k f.yld) ∧ OnlyKite c k s t ∧
      let y := t.kite c k
      let h' := y.h.get (opdValue f.c)
      (∀ i j, kept[i]? = some j → (y.vget a).elem ty i = (x.vget (opdValue f.b)).elem ty j) ∧
      (∀ i, kept.length ≤ i → i < n → (y.vget a).elem ty i = 0) ∧
      (∀ i, n ≤ i → (y.vget a).elem ty i = (x.vget a).elem ty i) ∧
      (∀ b, (y.vget a).valid b = true ↔ ValidAfter ((x.vget a).valid b) (capOf x.mvlb ty) (fun i => i < n)
        (fun i => ∀ j, kept[i]? = some j → (x.vget (opdValue f.b)).valid (j / 32) = true) b) ∧
      (sh = none → h' = {} ∧ (y.vget a).link = none) ∧
      ∀ h, sh = some h → (y.vget a).link = some (opdValue f.c) ∧ h'.depth = h.depth ∧
        (∀ l, 1 ≤ l → l < h.depth → h'.level l = h.level l) ∧
        h'.level h.depth = (h.level h.depth).map (fun u => (kept.filter fun j => decide (j < u)).length) ∧
        h'.openIn = h.openIn ∧ h'.openOut = h.openOut

/-- R192: nnest gives h[A] the running sums of the lengths in v[B] as a new innermost level of h[C], or as its only level;
too many lengths, too deep a shape, too large a sum and a wrong extent raise SHAPE_OVF. -/
def NestResults : Prop :=
  ∀ (s : State) (c k : Nat) (f : Fields), VecIssues (.nnest f) 0x85 f s c k →
    let x := s.kite c k
    let ctx := x.capture f
    let ty := f.ty.toNat
    let n := ctx.count ty
    let h : Shape := match f.c with | .h i => x.h.get i.toNat | _ => {}
    let len := fun i => if ctx.on i then (x.vget (opdValue f.b)).elem ty i else 0
    let sum := fun j => ((List.range j).map len).sum
    let raises := fun (reason value : Nat) =>
      exec (.nnest f) s = .next (trapKite (s.modKite c k fun y => { y with v := x.v, binds := x.binds }) c k
        { cause := 0x0A, va := 0, elt := BitVec.ofNat 64 (2 ^ 32 * reason + value % 2 ^ 32) } .here none)
    let levels := ∀ o ∈ h.lv, o.length - 1 ≤ x.levelCap
    (h.depth = 3 → raises 2 4) ∧
    (h.depth ≠ 3 → x.levelCap < n → raises 1 n) ∧
    (h.depth ≠ 3 → n ≤ x.levelCap → levels → 65535 < sum n → raises 3 (sum n)) ∧
    (h.depth ≠ 3 → n ≤ x.levelCap → levels → sum n ≤ 65535 → h.depth ≠ 0 → h.extent ≠ n → raises 3 h.extent) ∧
    (h.depth ≠ 3 → n ≤ x.levelCap → levels → sum n ≤ 65535 → (h.depth ≠ 0 → h.extent = n) →
      ∃ t, exec (.nnest f) s = .next (retire t c k f.yld) ∧ OnlyKite c k s t ∧
        let h' := (t.kite c k).h.get (opdValue f.a)
        h'.lv = h.lv ++ [(List.range (n + 1)).map sum] ∧
        (h.depth = 0 → h'.openIn = 0 ∧ h'.openOut = 0) ∧
        (h.depth ≠ 0 → ∀ l, bit h'.openIn l = (decide (l ≠ h.depth + 1) && bit h.openIn l) ∧
          bit h'.openOut l = (decide (l ≠ h.depth + 1) && bit h.openOut l)) ∧
        (∀ i, i ≠ opdValue f.a → (t.kite c k).h.get i = x.h.get i) ∧ (f.lst = false → (t.kite c k).v = x.v))

/-- R193: nflat copies the guarded elements; at depth 0 it links v[A] to h[C] as it stands, and at depth L it gives h[C]
the shape without level L. -/
def FlattenResults : Prop :=
  ∀ (s : State) (c k : Nat) (f : Fields), VecIssues (.nflat f) 0x86 f s c k →
    let x := s.kite c k
    let ctx := x.capture f
    let ty := f.ty.toNat
    let n := ctx.count ty
    let l := f.dp.toNat
    let sh := x.linked (opdValue f.b)
    let a := opdValue f.a
    (l ≠ 0 → ShapeFits x sh l n) →
    ∃ t, exec (.nflat f) s = .next (retire t c k f.yld) ∧ OnlyKite c k s t ∧
      let y := t.kite c k
      let h' := y.h.get (opdValue f.c)
      (∀ i, (y.vget a).elem ty i =
        if i < n ∧ ctx.on i = true then (x.vget (opdValue f.b)).elem ty i else (x.vget a).elem ty i) ∧
      (∀ b, (y.vget a).valid b = true ↔ ValidAfter ((x.vget a).valid b) (capOf x.mvlb ty)
        (fun i => i < n ∧ ctx.on i = true) (fun i => (x.vget (opdValue f.b)).valid (i / 32) = true) b) ∧
      (l = 0 → (y.vget a).link = some (opdValue f.c) ∧ y.h = x.h) ∧
      ∀ h, sh = some h → 1 ≤ l →
        (h.depth = 1 → h' = {} ∧ (y.vget a).link = none) ∧
        (2 ≤ h.depth → (y.vget a).link = some (opdValue f.c) ∧ h'.depth = h.depth - 1 ∧
          (∀ m, 1 ≤ m → m + 1 < l → h'.level m = h.level m) ∧
          (2 ≤ l → h'.level (l - 1) = (h.level (l - 1)).map fun u => (h.level l).getD u 0) ∧
          (∀ m, l < m → m ≤ h.depth → h'.level (m - 1) = h.level m) ∧
          (∀ b < 3, bit h'.openIn b = bit h.openIn (if b < l then b else b + 1) ∧
            bit h'.openOut b = bit h.openOut (if b < l then b else b + 1)))

/-- The key of an element for nsort (R194): its integer, or its place in the totalOrder of floating numbers. -/
def keyOf (ty v : Nat) : Int :=
  if ty < 8 then intVal ty v
  else
    let mag : Int := (v % 2 ^ (widthOf ty - 1) : Nat)
    if v / 2 ^ (widthOf ty - 1) % 2 = 1 then -1 - mag else mag

/-- R194: nsort permutes the guarded elements of each segment into the order of their keys, reversed with XF[0], equal keys
in their old order; v[C], where named, is permuted in the same way; every other element stays. -/
def SortResults : Prop :=
  ∀ (s : State) (c k : Nat) (f : Fields), VecIssues (.nsort f) 0x87 f s c k →
    let x := s.kite c k
    let ctx := x.capture f
    let ty := f.ty.toNat
    let n := ctx.count ty
    let dp := f.dp.toNat
    let sh := x.linked (opdValue f.b)
    let segs := match sh with | some h => h.segments dp n | none => [(0, n)]
    let a := opdValue f.a
    let b := opdValue f.b
    let key := fun i => keyOf ty ((x.vget b).elem ty i)
    let inOrder := fun i j =>
      (if bit f.xf.toNat 0 then key j < key i else key i < key j) ∨ (key i = key j ∧ i < j)
    let sorted := fun i => i < n ∧ ctx.on i = true ∧ ∃ e ∈ segs, e.1 ≤ i ∧ i < e.2
    (dp ≠ 0 → ShapeFits x sh dp n) → segs.Pairwise (fun e d => e.2 ≤ d.1) →
    ∃ t, ∃ src : Nat → Nat, exec (.nsort f) s = .next (retire t c k f.yld) ∧ OnlyKite c k s t ∧
      let y := t.kite c k
      (∀ i lo hi, (lo, hi) ∈ segs → sorted i → lo ≤ i → i < hi → sorted (src i) ∧ lo ≤ src i ∧ src i < hi) ∧
      (∀ i j, sorted i → sorted j → src i = src j → i = j) ∧
      (∀ i j lo hi, (lo, hi) ∈ segs → lo ≤ i → i < j → j < hi → sorted i → sorted j → inOrder (src i) (src j)) ∧
      (∀ i, sorted i → (y.vget a).elem ty i = (x.vget b).elem ty (src i)) ∧
      (∀ i, ¬ sorted i → (y.vget a).elem ty i = (x.vget a).elem ty i) ∧
      (∀ j, (y.vget a).valid j = true ↔ ValidAfter ((x.vget a).valid j) (capOf x.mvlb ty) sorted
        (fun i => (x.vget b).valid (src i / 32) = true) j) ∧
      (y.vget a).link = (x.vget b).link ∧
      ∀ r : BitVec 5, f.c = .v r → r.toNat ≠ a →
        (y.vget r.toNat).link = (x.vget r.toNat).link ∧
        (∀ i, sorted i → (y.vget r.toNat).elem ty i = (x.vget r.toNat).elem ty (src i)) ∧
        ∀ i, ¬ sorted i → (y.vget r.toNat).elem ty i = (x.vget r.toNat).elem ty i

/-- The halfword at byte p of an image, and where the offsets of level l + 1 begin (R195): `count` is the number of segments
that the header gives it. -/
def halfAt (img : List Byte) (p : Nat) : Nat := (img.getD p 0).toNat + 256 * (img.getD (p + 1) 0).toNat
def imageCount (img : List Byte) (l : Nat) : Nat := halfAt img (2 * l + 2)
def levelStart (img : List Byte) (l : Nat) : Nat := 8 + ((List.range l).map fun m => 2 * (imageCount img m + 1)).sum

/-- The rule of R195 for the field at byte p of an image, and of R196 for the OPEN bits of one that a window is taken
from. -/
def ImageRule (window : Bool) (img : List Byte) (p : Nat) : Prop :=
  let b0 := (img.getD 0 0).toNat
  let b1 := (img.getD 1 0).toNat
  let d := b0 % 4
  if p = 0 then d ≠ 0 ∧ b0 < 4
  else if p = 1 then
    (window = true → b1 = 0) ∧ ∀ l < d, imageCount img l = 0 → b1.testBit (l + 1) = false ∧ b1.testBit (l + 5) = false
  else if p = 4 ∨ p = 6 then d < p / 2 → halfAt img p = 0
  else ∀ l < d, ∀ j ≤ imageCount img l, p = levelStart img l + 2 * j →
    (j = 0 → halfAt img p = 0) ∧ (0 < j → halfAt img (p - 2) ≤ halfAt img p) ∧
      (j = imageCount img l → l + 1 < d → halfAt img p = imageCount img (l + 1))

/-- R195, R196: nshld, its image read, raises SHAPE_OVF with reason 4 and the lowest byte at which the image is bad; a good
one without a window goes to h[A] as it stands, where every level fits, and of one level a window takes the segments
that meet it, their offsets clipped and lowered by its start. -/
def ShapeLoads : Prop :=
  ∀ (s s2 : State) (c k : Nat) (f : Fields) (us : List (VAddr × List Xlat)) (vs : List Nat),
    VecIssues (.nshld f) 0x88 f s c k →
    let x := s.kite c k
    let ctx := x.capture f
    let va := x.memAddr f.b
    let img := imageBytes vs
    let d := (img.getD 0 0).toNat % 4
    let window := decide (f.c ≠ .none)
    let level := fun l => (List.range (imageCount img l + 1)).map fun j => halfAt img (levelStart img l + 2 * j)
    let raises := fun (reason value : Nat) =>
      exec (.nshld f) s = .next (trapKite (s2.modKite c k fun y => { y with v := x.v, binds := x.binds }) c k
        { cause := 0x0A, va := BitVec.ofNat 64 va, elt := BitVec.ofNat 64 (2 ^ 32 * reason + value % 2 ^ 32) } .here none)
    let loads := fun (h : Shape) =>
      exec (.nshld f) s = .next (retire (s2.modKite c k fun y =>
        ({ y with h := y.h.set (opdValue f.a) h } : Kite).vecDone 0x88 f 0) c k f.yld)
    readImageAt s c k f.rd.toNat va = .ok (us, vs, s2) →
    (∀ p, ¬ ImageRule window img p → (∀ q < p, ImageRule window img q) → raises 4 p) ∧
    ((∀ p, ImageRule window img p) → window = false →
      ((∀ l < d, imageCount img l ≤ x.levelCap) →
        loads { lv := (List.range d).map level, openIn := (img.getD 1 0).toNat % 16
                openOut := (img.getD 1 0).toNat / 16 }) ∧
      ∀ l < d, x.levelCap < imageCount img l → (∀ m < l, imageCount img m ≤ x.levelCap) →
        raises 1 (imageCount img l)) ∧
    ((∀ p, ImageRule window img p) → window = true → d = 1 →
      let o := fun j => (level 0).getD j 0
      let total := o (imageCount img 0)
      let from_ := (x.opd f.c).toNat
      let e := from_ + ctx.count f.ty.toNat
      let kept := (List.range (imageCount img 0)).filter fun j =>
        (decide (o j < e) && decide (from_ < o (j + 1))) ||
          (o j == o (j + 1) && ((decide (from_ ≤ o j) && decide (o j < e)) || (o j == e && e == total)))
      let clipped := fun u => min (max u from_) e - from_
      (x.levelCap < kept.length → raises 1 kept.length) ∧
      (kept.length ≤ x.levelCap → total < e → raises 3 e) ∧
      (kept.length ≤ x.levelCap → e ≤ total → ∃ h, loads h ∧ h.depth = 1 ∧
        (kept = [] → h.level 1 = [0]) ∧
        (∀ j0, kept.head? = some j0 → h.level 1 = clipped (o j0) :: kept.map fun j => clipped (o (j + 1))) ∧
        h.openIn < 4 ∧ (bit h.openIn 0 = true ↔ 0 < from_) ∧
        (bit h.openIn 1 = true ↔ ∃ j0, kept.head? = some j0 ∧ o j0 < from_) ∧
        h.openOut < 4 ∧ (bit h.openOut 0 = true ↔ e < total) ∧
        (bit h.openOut 1 = true ↔ ∃ j, kept.getLast? = some j ∧ e < o (j + 1))))

/-- R195, R197: the image that nshst writes: the header of Table 9-1 and the offsets of each level in turn; its bytes join
the strip's pending stores, where the shape's levels fit and every byte of it translates. -/
def ShapeStores : Prop :=
  (∀ h : Shape, h.depth ≤ 3 → h.openIn < 16 → h.openOut < 16 →
    (∀ o ∈ h.lv, o ≠ [] ∧ o.length ≤ 2 ^ 16 ∧ ∀ u ∈ o, u < 2 ^ 16) →
    let img := h.image
    img.length = 8 + ((h.lv.map fun o => 2 * o.length).sum) ∧ (img.getD 0 0).toNat = h.depth ∧
    (img.getD 1 0).toNat = h.openIn + 16 * h.openOut ∧
    (∀ l < 3, imageCount img l = if l < h.depth then h.count (l + 1) else 0) ∧
    ∀ l < h.depth, ∀ j, j ≤ h.count (l + 1) → halfAt img (levelStart img l + 2 * j) = (h.level (l + 1)).getD j 0) ∧
  (∀ (s s1 s2 : State) (c k : Nat) (f : Fields) (ws : List VByte), VecIssues (.nshst f) 0x89 f s c k →
    let x := s.kite c k
    let a := x.memAddr f.a
    let h := x.h.get (opdValue f.b)
    kiteOrphan s c x = false → a % 8 = 0 → (∀ o ∈ h.lv, o.length - 1 ≤ x.levelCap) →
    imageXlat s c k a h.image = .ok (ws, s1) → vecReserve s1 c k 0 ws = .ok s2 →
    ws.map (·.value) = h.image.map (·.toNat) ∧
    exec (.nshst f) s = .next (retire ((vecStore s2 c k 0 ws).modKite c k fun y => y.vecDone 0x89 f 0) c k f.yld)) ∧
  ∀ (s : State) (c k : Nat) (f : Fields), VecIssues (.nshst f) 0x89 f s c k →
    let x := s.kite c k
    let a := x.memAddr f.a
    let h := x.h.get (opdValue f.b)
    let traps := fun (t : Trap) => exec (.nshst f) s = .next (trapKite (s.modKite c k fun y =>
      { y with v := x.v, binds := x.binds }) c k t .here none)
    (kiteOrphan s c x = true → traps (trapAt 0x08 a x.tintv)) ∧
    (kiteOrphan s c x = false → a % 8 ≠ 0 → traps (trapAt 0x03 a 0)) ∧
    ∀ (l : Nat) (o : List Nat), kiteOrphan s c x = false → a % 8 = 0 → h.lv[l]? = some o → x.levelCap < o.length - 1 →
      (∀ m < l, ∀ u : List Nat, h.lv[m]? = some u → u.length - 1 ≤ x.levelCap) →
      traps { cause := 0x0A, va := 0, elt := BitVec.ofNat 64 (2 ^ 32 + (o.length - 1) % 2 ^ 32) }

/-- A score with its bias has a key (R272), and one key lies above another: sums of exact values, with the infinities at the
ends. -/
def HasKey (ty a b : Nat) : Prop :=
  ¬ IsNaN ty a ∧ ¬ IsNaN ty b ∧ ¬ (IsInf ty a ∧ IsInf ty b ∧ fieldS ty a ≠ fieldS ty b)
def KeyAbove (ftz : Bool) (ty a b c d : Nat) : Prop :=
  let ends := fun sgn u v => (IsInf ty u ∧ fieldS ty u = sgn) ∨ (IsInf ty v ∧ fieldS ty v = sgn)
  let high := ends 0
  let low := ends 1
  (high a b ∧ ¬ high c d) ∨ (low c d ∧ ¬ low a b) ∨
    (¬ high a b ∧ ¬ low a b ∧ ¬ high c d ∧ ¬ low c d ∧
      valOf ftz ty c + valOf ftz ty d < valOf ftz ty a + valOf ftz ty b)

/-- R271, R272: spsrch gives each row its N best experts, by key and then by number, in v[A], and in v[A + 1] the counter
of each as it was when it was chosen, with the bits for a full counter and for PAR; a place that no expert fills is all
ones. The counters have gone up by one for each choice, up to 65,535. -/
def RoutingResults : Prop :=
  ∀ (s : State) (c k : Nat) (f : Fields) (h : Shape), VecIssues (.spsrch f) 0x9B f s c k →
    let x := s.kite c k
    let w := s.crew c
    let ctx := x.capture f
    let ty := f.ty.toNat
    let a := opdValue f.a
    let rows := h.ranges 1
    let num := f.xf.toNat % 8 + 1
    let score := fun j e => (x.vget (opdValue f.b)).elem ty ((rows.getD j (0, 0)).1 + e)
    let bias := fun e => if e < capOf x.mvlb ty then (x.vget (opdValue f.c)).elem ty e else 0
    let chosen := fun j e =>
      let i := (rows.getD j (0, 0)).1 + e
      i < (rows.getD j (0, 0)).2 ∧ ctx.on i = true ∧ (x.vget (opdValue f.b)).valid (i / 32) = true ∧
        HasKey ty (score j e) (bias e)
    let above := fun j e d => KeyAbove ctx.ftz ty (score j e) (bias e) (score j d) (bias d)
    x.linked (opdValue f.b) = some h → h.depth = 1 → (∀ o ∈ h.lv, o.length - 1 ≤ x.levelCap) →
    (∀ r ∈ rows, r.2 ≤ r.1 + 64) → rows.length * num ≤ capOf x.mvlb 6 → h.openIn = 0 → h.openOut = 0 →
    h.extent = ctx.count ty → (∀ e, w.ctr.get e ≤ 65535) → f.lst = false →
    ∃ t, ∃ pick : Nat → List Nat, exec (.spsrch f) s = .next (retire t c k f.yld) ∧
      OnlyCrew c s t ∧ (∀ j, j ≠ k → t.kite c j = s.kite c j) ∧
      (∀ j < rows.length, (∀ e, e ∈ pick j ↔ chosen j e) ∧
        (pick j).Pairwise fun e d => above j e d ∨ (¬ above j d e ∧ e < d)) ∧
      let y := t.kite c k
      let earlier := fun j e => ((List.range j).map fun i => ((pick i).take num).count e).sum
      (∀ j < rows.length, ∀ i < num,
        (∀ e, (pick j)[i]? = some e →
          let n := min (w.ctr.get e + earlier j e) 65535
          (y.vget a).elem 6 (j * num + i) = e ∧
          (y.vget (a + 1)).elem 6 (j * num + i) = n + (if n = 65535 then 2 ^ 30 else 0) + if w.par then 2 ^ 31 else 0) ∧
        ((pick j)[i]? = none →
          (y.vget a).elem 6 (j * num + i) = 2 ^ 32 - 1 ∧ (y.vget (a + 1)).elem 6 (j * num + i) = 2 ^ 32 - 1)) ∧
      (∀ e, (t.crew c).ctr.get e = min (w.ctr.get e + earlier rows.length e) 65535) ∧ (t.crew c).par = w.par ∧
      ∀ r, (r = a ∨ r = a + 1 →
        (∀ i, rows.length * num ≤ i → (y.vget r).elem 6 i = (x.vget r).elem 6 i) ∧ (y.vget r).link = none ∧
          ∀ b, (y.vget r).valid b = true ↔ ValidAfter ((x.vget r).valid b) (capOf x.mvlb 6)
            (fun i => i < rows.length * num) (fun _ => True) b) ∧
        (r ≠ a → r ≠ a + 1 → y.vget r = x.vget r)

end Sys2Proof.Machine

/-- R175, R180 to R190, R192 to R197, R271, R272: the results of the nested instructions, the images that nshld and nshst
move, and the routing of spsrch. Details are by the readings of logs 17 and 26; that VALUE bits of a carry above the width
of the type are dropped is the model's choice (log 18). -/
def Obligations.NestedResults : Prop :=
  ReduceResults ∧ ScanResults ∧ DistributeResults ∧ PackResults ∧ NestResults ∧ FlattenResults ∧ SortResults ∧
    ShapeLoads ∧ ShapeStores ∧ RoutingResults
end

