-- ==== Sys2Proof/Laws/Table.lean ====
section
/-!
SUPPORT. Laws of tables: what is read after a write, and writes that follow each other.
-/
namespace Sys2Proof.Machine

variable {α : Type}

@[simp] theorem Tab.get_nil [Inhabited α] (n : Nat) : Tab.get ([] : Tab α) n = default := rfl

@[simp] theorem Tab.get_set_self [Inhabited α] (t : Tab α) (n : Nat) (x : α) : (t.set n x).get n = x := by
  induction t with
  | nil => simp [Tab.set, Tab.get]
  | cons e t ih =>
    obtain ⟨m, y⟩ := e
    simp only [Tab.set]
    split
    · simp [Tab.get]
    · split
      · simp [Tab.get]
      · rename_i h
        simp only [Tab.get, if_neg h]
        exact ih

theorem Tab.get_set_ne [Inhabited α] (t : Tab α) {n m : Nat} (x : α) (h : m ≠ n) : (t.set n x).get m = t.get m := by
  induction t with
  | nil => simp [Tab.set, Tab.get, h]
  | cons e t ih =>
    obtain ⟨j, y⟩ := e
    simp only [Tab.set]
    split
    · simp [Tab.get, h]
    · split
      · rename_i hj
        subst hj
        simp [Tab.get, h]
      · simp only [Tab.get, ih]

theorem Tab.get_set [Inhabited α] (t : Tab α) (n m : Nat) (x : α) :
    (t.set n x).get m = if m = n then x else t.get m := by
  split
  · rename_i h; rw [h]; simp
  · rename_i h; exact t.get_set_ne x h

@[simp] theorem Tab.find_set_self (t : Tab α) (n : Nat) (x : α) : (t.set n x).find n = some x := by
  induction t with
  | nil => simp [Tab.set, Tab.find]
  | cons e t ih =>
    obtain ⟨m, y⟩ := e
    simp only [Tab.set]
    split
    · simp [Tab.find]
    · split
      · simp [Tab.find]
      · rename_i h
        simp only [Tab.find, if_neg h]
        exact ih

theorem Tab.find_set_ne (t : Tab α) {n m : Nat} (x : α) (h : m ≠ n) : (t.set n x).find m = t.find m := by
  induction t with
  | nil => simp [Tab.set, Tab.find, h]
  | cons e t ih =>
    obtain ⟨j, y⟩ := e
    simp only [Tab.set]
    split
    · simp [Tab.find, h]
    · split
      · rename_i hj
        subst hj
        simp [Tab.find, h]
      · simp only [Tab.find, ih]

/-- The second of two writes of one key is the one that counts. -/
@[simp] theorem Tab.set_set (t : Tab α) (n : Nat) (x y : α) : (t.set n x).set n y = t.set n y := by
  induction t with
  | nil => simp [Tab.set]
  | cons e t ih =>
    obtain ⟨m, z⟩ := e
    simp only [Tab.set]
    split
    · simp [Tab.set]
    · split
      · simp [Tab.set]
      · rename_i h1 h2
        simp [Tab.set, h1, h2, ih]

@[simp] theorem Tab.get_mod_self [Inhabited α] (t : Tab α) (n : Nat) (f : α → α) :
    (t.mod n f).get n = f (t.get n) := by simp [Tab.mod]

theorem Tab.get_mod_ne [Inhabited α] (t : Tab α) {n m : Nat} (f : α → α) (h : m ≠ n) :
    (t.mod n f).get m = t.get m := t.get_set_ne _ h

/-- Two changes of one entry are one change. -/
@[simp] theorem Tab.mod_mod [Inhabited α] (t : Tab α) (n : Nat) (f g : α → α) :
    (t.mod n f).mod n g = t.mod n fun x => g (f x) := by simp [Tab.mod]

theorem Tab.set_mod [Inhabited α] (t : Tab α) (n : Nat) (f : α → α) (x : α) : (t.mod n f).set n x = t.set n x := by
  simp [Tab.mod]

theorem Tab.mod_eq_set [Inhabited α] (t : Tab α) (n : Nat) (f : α → α) : t.mod n f = t.set n (f (t.get n)) := rfl

@[simp] theorem Tab.find_mod_self [Inhabited α] (t : Tab α) (n : Nat) (f : α → α) :
    (t.mod n f).find n = some (f (t.get n)) := by simp [Tab.mod]

end Sys2Proof.Machine
end

