-- ==== Sys2Proof/Laws/State.lean ====
section
/-!
SUPPORT. One law for each field under each named update of the state, and what an entry reads as after it was
changed.
-/
namespace Sys2Proof.Machine

variable (s : State)

/-! ## modCrew -/

@[simp] theorem State.modCrew_moves (c : Nat) (f : Crew → Crew) : (s.modCrew c f).moves = s.moves := rfl
@[simp] theorem State.modCrew_cur (c : Nat) (f : Crew → Crew) : (s.modCrew c f).cur = s.cur := rfl
@[simp] theorem State.modCrew_hold (c : Nat) (f : Crew → Crew) : (s.modCrew c f).hold = s.hold := rfl
@[simp] theorem State.modCrew_ev (c : Nat) (f : Crew → Crew) : (s.modCrew c f).ev = s.ev := rfl
@[simp] theorem State.modCrew_draws (c : Nat) (f : Crew → Crew) : (s.modCrew c f).draws = s.draws := rfl
@[simp] theorem State.modCrew_mem (c : Nat) (f : Crew → Crew) : (s.modCrew c f).mem = s.mem := rfl
@[simp] theorem State.modCrew_vers (c : Nat) (f : Crew → Crew) : (s.modCrew c f).vers = s.vers := rfl
@[simp] theorem State.modCrew_rels (c : Nat) (f : Crew → Crew) : (s.modCrew c f).rels = s.rels := rfl
@[simp] theorem State.modCrew_sprels (c : Nat) (f : Crew → Crew) : (s.modCrew c f).sprels = s.sprels := rfl
@[simp] theorem State.modCrew_resvs (c : Nat) (f : Crew → Crew) : (s.modCrew c f).resvs = s.resvs := rfl
@[simp] theorem State.modCrew_dies (c : Nat) (f : Crew → Crew) : (s.modCrew c f).dies = s.dies := rfl
@[simp] theorem State.modCrew_cores (c : Nat) (f : Crew → Crew) : (s.modCrew c f).cores = s.cores := rfl
@[simp] theorem State.modCrew_crews (c : Nat) (f : Crew → Crew) : (s.modCrew c f).crews = s.crews.mod c f := rfl
@[simp] theorem State.modCrew_flights (c : Nat) (f : Crew → Crew) : (s.modCrew c f).flights = s.flights := rfl
@[simp] theorem State.modCrew_ascents (c : Nat) (f : Crew → Crew) : (s.modCrew c f).ascents = s.ascents := rfl
@[simp] theorem State.modCrew_queues (c : Nat) (f : Crew → Crew) : (s.modCrew c f).queues = s.queues := rfl
@[simp] theorem State.modCrew_slots (c : Nat) (f : Crew → Crew) : (s.modCrew c f).slots = s.slots := rfl
@[simp] theorem State.modCrew_ctxs (c : Nat) (f : Crew → Crew) : (s.modCrew c f).ctxs = s.ctxs := rfl
@[simp] theorem State.modCrew_spans (c : Nat) (f : Crew → Crew) : (s.modCrew c f).spans = s.spans := rfl
@[simp] theorem State.modCrew_chips (c : Nat) (f : Crew → Crew) : (s.modCrew c f).chips = s.chips := rfl
@[simp] theorem State.modCrew_module (c : Nat) (f : Crew → Crew) : (s.modCrew c f).module = s.module := rfl
@[simp] theorem State.modCrew_nextId (c : Nat) (f : Crew → Crew) : (s.modCrew c f).nextId = s.nextId := rfl

/-! ## modKite -/

@[simp] theorem State.modKite_moves (c k : Nat) (f : Kite → Kite) : (s.modKite c k f).moves = s.moves := rfl
@[simp] theorem State.modKite_cur (c k : Nat) (f : Kite → Kite) : (s.modKite c k f).cur = s.cur := rfl
@[simp] theorem State.modKite_hold (c k : Nat) (f : Kite → Kite) : (s.modKite c k f).hold = s.hold := rfl
@[simp] theorem State.modKite_ev (c k : Nat) (f : Kite → Kite) : (s.modKite c k f).ev = s.ev := rfl
@[simp] theorem State.modKite_draws (c k : Nat) (f : Kite → Kite) : (s.modKite c k f).draws = s.draws := rfl
@[simp] theorem State.modKite_mem (c k : Nat) (f : Kite → Kite) : (s.modKite c k f).mem = s.mem := rfl
@[simp] theorem State.modKite_vers (c k : Nat) (f : Kite → Kite) : (s.modKite c k f).vers = s.vers := rfl
@[simp] theorem State.modKite_rels (c k : Nat) (f : Kite → Kite) : (s.modKite c k f).rels = s.rels := rfl
@[simp] theorem State.modKite_sprels (c k : Nat) (f : Kite → Kite) : (s.modKite c k f).sprels = s.sprels := rfl
@[simp] theorem State.modKite_resvs (c k : Nat) (f : Kite → Kite) : (s.modKite c k f).resvs = s.resvs := rfl
@[simp] theorem State.modKite_dies (c k : Nat) (f : Kite → Kite) : (s.modKite c k f).dies = s.dies := rfl
@[simp] theorem State.modKite_cores (c k : Nat) (f : Kite → Kite) : (s.modKite c k f).cores = s.cores := rfl
@[simp] theorem State.modKite_flights (c k : Nat) (f : Kite → Kite) : (s.modKite c k f).flights = s.flights := rfl
@[simp] theorem State.modKite_ascents (c k : Nat) (f : Kite → Kite) : (s.modKite c k f).ascents = s.ascents := rfl
@[simp] theorem State.modKite_queues (c k : Nat) (f : Kite → Kite) : (s.modKite c k f).queues = s.queues := rfl
@[simp] theorem State.modKite_slots (c k : Nat) (f : Kite → Kite) : (s.modKite c k f).slots = s.slots := rfl
@[simp] theorem State.modKite_ctxs (c k : Nat) (f : Kite → Kite) : (s.modKite c k f).ctxs = s.ctxs := rfl
@[simp] theorem State.modKite_spans (c k : Nat) (f : Kite → Kite) : (s.modKite c k f).spans = s.spans := rfl
@[simp] theorem State.modKite_chips (c k : Nat) (f : Kite → Kite) : (s.modKite c k f).chips = s.chips := rfl
@[simp] theorem State.modKite_module (c k : Nat) (f : Kite → Kite) : (s.modKite c k f).module = s.module := rfl
@[simp] theorem State.modKite_nextId (c k : Nat) (f : Kite → Kite) : (s.modKite c k f).nextId = s.nextId := rfl

/-! ## modReel -/

@[simp] theorem State.modReel_moves (c : Nat) (f : Reel → Reel) : (s.modReel c f).moves = s.moves := rfl
@[simp] theorem State.modReel_cur (c : Nat) (f : Reel → Reel) : (s.modReel c f).cur = s.cur := rfl
@[simp] theorem State.modReel_hold (c : Nat) (f : Reel → Reel) : (s.modReel c f).hold = s.hold := rfl
@[simp] theorem State.modReel_ev (c : Nat) (f : Reel → Reel) : (s.modReel c f).ev = s.ev := rfl
@[simp] theorem State.modReel_draws (c : Nat) (f : Reel → Reel) : (s.modReel c f).draws = s.draws := rfl
@[simp] theorem State.modReel_mem (c : Nat) (f : Reel → Reel) : (s.modReel c f).mem = s.mem := rfl
@[simp] theorem State.modReel_vers (c : Nat) (f : Reel → Reel) : (s.modReel c f).vers = s.vers := rfl
@[simp] theorem State.modReel_rels (c : Nat) (f : Reel → Reel) : (s.modReel c f).rels = s.rels := rfl
@[simp] theorem State.modReel_sprels (c : Nat) (f : Reel → Reel) : (s.modReel c f).sprels = s.sprels := rfl
@[simp] theorem State.modReel_resvs (c : Nat) (f : Reel → Reel) : (s.modReel c f).resvs = s.resvs := rfl
@[simp] theorem State.modReel_dies (c : Nat) (f : Reel → Reel) : (s.modReel c f).dies = s.dies := rfl
@[simp] theorem State.modReel_cores (c : Nat) (f : Reel → Reel) : (s.modReel c f).cores = s.cores := rfl
@[simp] theorem State.modReel_flights (c : Nat) (f : Reel → Reel) : (s.modReel c f).flights = s.flights := rfl
@[simp] theorem State.modReel_ascents (c : Nat) (f : Reel → Reel) : (s.modReel c f).ascents = s.ascents := rfl
@[simp] theorem State.modReel_queues (c : Nat) (f : Reel → Reel) : (s.modReel c f).queues = s.queues := rfl
@[simp] theorem State.modReel_slots (c : Nat) (f : Reel → Reel) : (s.modReel c f).slots = s.slots := rfl
@[simp] theorem State.modReel_ctxs (c : Nat) (f : Reel → Reel) : (s.modReel c f).ctxs = s.ctxs := rfl
@[simp] theorem State.modReel_spans (c : Nat) (f : Reel → Reel) : (s.modReel c f).spans = s.spans := rfl
@[simp] theorem State.modReel_chips (c : Nat) (f : Reel → Reel) : (s.modReel c f).chips = s.chips := rfl
@[simp] theorem State.modReel_module (c : Nat) (f : Reel → Reel) : (s.modReel c f).module = s.module := rfl
@[simp] theorem State.modReel_nextId (c : Nat) (f : Reel → Reel) : (s.modReel c f).nextId = s.nextId := rfl

/-! ## modCore -/

@[simp] theorem State.modCore_moves (c : Nat) (f : Core → Core) : (s.modCore c f).moves = s.moves := rfl
@[simp] theorem State.modCore_cur (c : Nat) (f : Core → Core) : (s.modCore c f).cur = s.cur := rfl
@[simp] theorem State.modCore_hold (c : Nat) (f : Core → Core) : (s.modCore c f).hold = s.hold := rfl
@[simp] theorem State.modCore_ev (c : Nat) (f : Core → Core) : (s.modCore c f).ev = s.ev := rfl
@[simp] theorem State.modCore_draws (c : Nat) (f : Core → Core) : (s.modCore c f).draws = s.draws := rfl
@[simp] theorem State.modCore_mem (c : Nat) (f : Core → Core) : (s.modCore c f).mem = s.mem := rfl
@[simp] theorem State.modCore_vers (c : Nat) (f : Core → Core) : (s.modCore c f).vers = s.vers := rfl
@[simp] theorem State.modCore_rels (c : Nat) (f : Core → Core) : (s.modCore c f).rels = s.rels := rfl
@[simp] theorem State.modCore_sprels (c : Nat) (f : Core → Core) : (s.modCore c f).sprels = s.sprels := rfl
@[simp] theorem State.modCore_resvs (c : Nat) (f : Core → Core) : (s.modCore c f).resvs = s.resvs := rfl
@[simp] theorem State.modCore_dies (c : Nat) (f : Core → Core) : (s.modCore c f).dies = s.dies := rfl
@[simp] theorem State.modCore_cores (c : Nat) (f : Core → Core) : (s.modCore c f).cores = s.cores.mod c f := rfl
@[simp] theorem State.modCore_crews (c : Nat) (f : Core → Core) : (s.modCore c f).crews = s.crews := rfl
@[simp] theorem State.modCore_flights (c : Nat) (f : Core → Core) : (s.modCore c f).flights = s.flights := rfl
@[simp] theorem State.modCore_ascents (c : Nat) (f : Core → Core) : (s.modCore c f).ascents = s.ascents := rfl
@[simp] theorem State.modCore_queues (c : Nat) (f : Core → Core) : (s.modCore c f).queues = s.queues := rfl
@[simp] theorem State.modCore_slots (c : Nat) (f : Core → Core) : (s.modCore c f).slots = s.slots := rfl
@[simp] theorem State.modCore_ctxs (c : Nat) (f : Core → Core) : (s.modCore c f).ctxs = s.ctxs := rfl
@[simp] theorem State.modCore_spans (c : Nat) (f : Core → Core) : (s.modCore c f).spans = s.spans := rfl
@[simp] theorem State.modCore_chips (c : Nat) (f : Core → Core) : (s.modCore c f).chips = s.chips := rfl
@[simp] theorem State.modCore_module (c : Nat) (f : Core → Core) : (s.modCore c f).module = s.module := rfl
@[simp] theorem State.modCore_nextId (c : Nat) (f : Core → Core) : (s.modCore c f).nextId = s.nextId := rfl

/-! ## modDie -/

@[simp] theorem State.modDie_moves (d : Nat) (f : Die → Die) : (s.modDie d f).moves = s.moves := rfl
@[simp] theorem State.modDie_cur (d : Nat) (f : Die → Die) : (s.modDie d f).cur = s.cur := rfl
@[simp] theorem State.modDie_hold (d : Nat) (f : Die → Die) : (s.modDie d f).hold = s.hold := rfl
@[simp] theorem State.modDie_ev (d : Nat) (f : Die → Die) : (s.modDie d f).ev = s.ev := rfl
@[simp] theorem State.modDie_draws (d : Nat) (f : Die → Die) : (s.modDie d f).draws = s.draws := rfl
@[simp] theorem State.modDie_mem (d : Nat) (f : Die → Die) : (s.modDie d f).mem = s.mem := rfl
@[simp] theorem State.modDie_vers (d : Nat) (f : Die → Die) : (s.modDie d f).vers = s.vers := rfl
@[simp] theorem State.modDie_rels (d : Nat) (f : Die → Die) : (s.modDie d f).rels = s.rels := rfl
@[simp] theorem State.modDie_sprels (d : Nat) (f : Die → Die) : (s.modDie d f).sprels = s.sprels := rfl
@[simp] theorem State.modDie_resvs (d : Nat) (f : Die → Die) : (s.modDie d f).resvs = s.resvs := rfl
@[simp] theorem State.modDie_dies (d : Nat) (f : Die → Die) : (s.modDie d f).dies = s.dies.mod d f := rfl
@[simp] theorem State.modDie_cores (d : Nat) (f : Die → Die) : (s.modDie d f).cores = s.cores := rfl
@[simp] theorem State.modDie_crews (d : Nat) (f : Die → Die) : (s.modDie d f).crews = s.crews := rfl
@[simp] theorem State.modDie_flights (d : Nat) (f : Die → Die) : (s.modDie d f).flights = s.flights := rfl
@[simp] theorem State.modDie_ascents (d : Nat) (f : Die → Die) : (s.modDie d f).ascents = s.ascents := rfl
@[simp] theorem State.modDie_queues (d : Nat) (f : Die → Die) : (s.modDie d f).queues = s.queues := rfl
@[simp] theorem State.modDie_slots (d : Nat) (f : Die → Die) : (s.modDie d f).slots = s.slots := rfl
@[simp] theorem State.modDie_ctxs (d : Nat) (f : Die → Die) : (s.modDie d f).ctxs = s.ctxs := rfl
@[simp] theorem State.modDie_spans (d : Nat) (f : Die → Die) : (s.modDie d f).spans = s.spans := rfl
@[simp] theorem State.modDie_chips (d : Nat) (f : Die → Die) : (s.modDie d f).chips = s.chips := rfl
@[simp] theorem State.modDie_module (d : Nat) (f : Die → Die) : (s.modDie d f).module = s.module := rfl
@[simp] theorem State.modDie_nextId (d : Nat) (f : Die → Die) : (s.modDie d f).nextId = s.nextId := rfl

/-! ## modCtx -/

@[simp] theorem State.modCtx_moves (n : Nat) (f : Context → Context) : (s.modCtx n f).moves = s.moves := rfl
@[simp] theorem State.modCtx_cur (n : Nat) (f : Context → Context) : (s.modCtx n f).cur = s.cur := rfl
@[simp] theorem State.modCtx_hold (n : Nat) (f : Context → Context) : (s.modCtx n f).hold = s.hold := rfl
@[simp] theorem State.modCtx_ev (n : Nat) (f : Context → Context) : (s.modCtx n f).ev = s.ev := rfl
@[simp] theorem State.modCtx_draws (n : Nat) (f : Context → Context) : (s.modCtx n f).draws = s.draws := rfl
@[simp] theorem State.modCtx_mem (n : Nat) (f : Context → Context) : (s.modCtx n f).mem = s.mem := rfl
@[simp] theorem State.modCtx_vers (n : Nat) (f : Context → Context) : (s.modCtx n f).vers = s.vers := rfl
@[simp] theorem State.modCtx_rels (n : Nat) (f : Context → Context) : (s.modCtx n f).rels = s.rels := rfl
@[simp] theorem State.modCtx_sprels (n : Nat) (f : Context → Context) : (s.modCtx n f).sprels = s.sprels := rfl
@[simp] theorem State.modCtx_resvs (n : Nat) (f : Context → Context) : (s.modCtx n f).resvs = s.resvs := rfl
@[simp] theorem State.modCtx_dies (n : Nat) (f : Context → Context) : (s.modCtx n f).dies = s.dies := rfl
@[simp] theorem State.modCtx_cores (n : Nat) (f : Context → Context) : (s.modCtx n f).cores = s.cores := rfl
@[simp] theorem State.modCtx_crews (n : Nat) (f : Context → Context) : (s.modCtx n f).crews = s.crews := rfl
@[simp] theorem State.modCtx_flights (n : Nat) (f : Context → Context) : (s.modCtx n f).flights = s.flights := rfl
@[simp] theorem State.modCtx_ascents (n : Nat) (f : Context → Context) : (s.modCtx n f).ascents = s.ascents := rfl
@[simp] theorem State.modCtx_queues (n : Nat) (f : Context → Context) : (s.modCtx n f).queues = s.queues := rfl
@[simp] theorem State.modCtx_slots (n : Nat) (f : Context → Context) : (s.modCtx n f).slots = s.slots := rfl
@[simp] theorem State.modCtx_ctxs (n : Nat) (f : Context → Context) : (s.modCtx n f).ctxs = s.ctxs.mod n f := rfl
@[simp] theorem State.modCtx_spans (n : Nat) (f : Context → Context) : (s.modCtx n f).spans = s.spans := rfl
@[simp] theorem State.modCtx_chips (n : Nat) (f : Context → Context) : (s.modCtx n f).chips = s.chips := rfl
@[simp] theorem State.modCtx_module (n : Nat) (f : Context → Context) : (s.modCtx n f).module = s.module := rfl
@[simp] theorem State.modCtx_nextId (n : Nat) (f : Context → Context) : (s.modCtx n f).nextId = s.nextId := rfl

/-! ## modFlight -/

@[simp] theorem State.modFlight_moves (n : Nat) (f : Flight → Flight) : (s.modFlight n f).moves = s.moves := rfl
@[simp] theorem State.modFlight_cur (n : Nat) (f : Flight → Flight) : (s.modFlight n f).cur = s.cur := rfl
@[simp] theorem State.modFlight_hold (n : Nat) (f : Flight → Flight) : (s.modFlight n f).hold = s.hold := rfl
@[simp] theorem State.modFlight_ev (n : Nat) (f : Flight → Flight) : (s.modFlight n f).ev = s.ev := rfl
@[simp] theorem State.modFlight_draws (n : Nat) (f : Flight → Flight) : (s.modFlight n f).draws = s.draws := rfl
@[simp] theorem State.modFlight_mem (n : Nat) (f : Flight → Flight) : (s.modFlight n f).mem = s.mem := rfl
@[simp] theorem State.modFlight_vers (n : Nat) (f : Flight → Flight) : (s.modFlight n f).vers = s.vers := rfl
@[simp] theorem State.modFlight_rels (n : Nat) (f : Flight → Flight) : (s.modFlight n f).rels = s.rels := rfl
@[simp] theorem State.modFlight_sprels (n : Nat) (f : Flight → Flight) : (s.modFlight n f).sprels = s.sprels := rfl
@[simp] theorem State.modFlight_resvs (n : Nat) (f : Flight → Flight) : (s.modFlight n f).resvs = s.resvs := rfl
@[simp] theorem State.modFlight_dies (n : Nat) (f : Flight → Flight) : (s.modFlight n f).dies = s.dies := rfl
@[simp] theorem State.modFlight_cores (n : Nat) (f : Flight → Flight) : (s.modFlight n f).cores = s.cores := rfl
@[simp] theorem State.modFlight_crews (n : Nat) (f : Flight → Flight) : (s.modFlight n f).crews = s.crews := rfl
@[simp] theorem State.modFlight_flights (n : Nat) (f : Flight → Flight) : (s.modFlight n f).flights = s.flights.mod n f := rfl
@[simp] theorem State.modFlight_ascents (n : Nat) (f : Flight → Flight) : (s.modFlight n f).ascents = s.ascents := rfl
@[simp] theorem State.modFlight_queues (n : Nat) (f : Flight → Flight) : (s.modFlight n f).queues = s.queues := rfl
@[simp] theorem State.modFlight_slots (n : Nat) (f : Flight → Flight) : (s.modFlight n f).slots = s.slots := rfl
@[simp] theorem State.modFlight_ctxs (n : Nat) (f : Flight → Flight) : (s.modFlight n f).ctxs = s.ctxs := rfl
@[simp] theorem State.modFlight_spans (n : Nat) (f : Flight → Flight) : (s.modFlight n f).spans = s.spans := rfl
@[simp] theorem State.modFlight_chips (n : Nat) (f : Flight → Flight) : (s.modFlight n f).chips = s.chips := rfl
@[simp] theorem State.modFlight_module (n : Nat) (f : Flight → Flight) : (s.modFlight n f).module = s.module := rfl
@[simp] theorem State.modFlight_nextId (n : Nat) (f : Flight → Flight) : (s.modFlight n f).nextId = s.nextId := rfl

/-! ## modAscent -/

@[simp] theorem State.modAscent_moves (n : Nat) (f : Ascent → Ascent) : (s.modAscent n f).moves = s.moves := rfl
@[simp] theorem State.modAscent_cur (n : Nat) (f : Ascent → Ascent) : (s.modAscent n f).cur = s.cur := rfl
@[simp] theorem State.modAscent_hold (n : Nat) (f : Ascent → Ascent) : (s.modAscent n f).hold = s.hold := rfl
@[simp] theorem State.modAscent_ev (n : Nat) (f : Ascent → Ascent) : (s.modAscent n f).ev = s.ev := rfl
@[simp] theorem State.modAscent_draws (n : Nat) (f : Ascent → Ascent) : (s.modAscent n f).draws = s.draws := rfl
@[simp] theorem State.modAscent_mem (n : Nat) (f : Ascent → Ascent) : (s.modAscent n f).mem = s.mem := rfl
@[simp] theorem State.modAscent_vers (n : Nat) (f : Ascent → Ascent) : (s.modAscent n f).vers = s.vers := rfl
@[simp] theorem State.modAscent_rels (n : Nat) (f : Ascent → Ascent) : (s.modAscent n f).rels = s.rels := rfl
@[simp] theorem State.modAscent_sprels (n : Nat) (f : Ascent → Ascent) : (s.modAscent n f).sprels = s.sprels := rfl
@[simp] theorem State.modAscent_resvs (n : Nat) (f : Ascent → Ascent) : (s.modAscent n f).resvs = s.resvs := rfl
@[simp] theorem State.modAscent_dies (n : Nat) (f : Ascent → Ascent) : (s.modAscent n f).dies = s.dies := rfl
@[simp] theorem State.modAscent_cores (n : Nat) (f : Ascent → Ascent) : (s.modAscent n f).cores = s.cores := rfl
@[simp] theorem State.modAscent_crews (n : Nat) (f : Ascent → Ascent) : (s.modAscent n f).crews = s.crews := rfl
@[simp] theorem State.modAscent_flights (n : Nat) (f : Ascent → Ascent) : (s.modAscent n f).flights = s.flights := rfl
@[simp] theorem State.modAscent_ascents (n : Nat) (f : Ascent → Ascent) : (s.modAscent n f).ascents = s.ascents.mod n f := rfl
@[simp] theorem State.modAscent_queues (n : Nat) (f : Ascent → Ascent) : (s.modAscent n f).queues = s.queues := rfl
@[simp] theorem State.modAscent_slots (n : Nat) (f : Ascent → Ascent) : (s.modAscent n f).slots = s.slots := rfl
@[simp] theorem State.modAscent_ctxs (n : Nat) (f : Ascent → Ascent) : (s.modAscent n f).ctxs = s.ctxs := rfl
@[simp] theorem State.modAscent_spans (n : Nat) (f : Ascent → Ascent) : (s.modAscent n f).spans = s.spans := rfl
@[simp] theorem State.modAscent_chips (n : Nat) (f : Ascent → Ascent) : (s.modAscent n f).chips = s.chips := rfl
@[simp] theorem State.modAscent_module (n : Nat) (f : Ascent → Ascent) : (s.modAscent n f).module = s.module := rfl
@[simp] theorem State.modAscent_nextId (n : Nat) (f : Ascent → Ascent) : (s.modAscent n f).nextId = s.nextId := rfl

/-! ## modQueue -/

@[simp] theorem State.modQueue_moves (n : Nat) (f : Queue → Queue) : (s.modQueue n f).moves = s.moves := rfl
@[simp] theorem State.modQueue_cur (n : Nat) (f : Queue → Queue) : (s.modQueue n f).cur = s.cur := rfl
@[simp] theorem State.modQueue_hold (n : Nat) (f : Queue → Queue) : (s.modQueue n f).hold = s.hold := rfl
@[simp] theorem State.modQueue_ev (n : Nat) (f : Queue → Queue) : (s.modQueue n f).ev = s.ev := rfl
@[simp] theorem State.modQueue_draws (n : Nat) (f : Queue → Queue) : (s.modQueue n f).draws = s.draws := rfl
@[simp] theorem State.modQueue_mem (n : Nat) (f : Queue → Queue) : (s.modQueue n f).mem = s.mem := rfl
@[simp] theorem State.modQueue_vers (n : Nat) (f : Queue → Queue) : (s.modQueue n f).vers = s.vers := rfl
@[simp] theorem State.modQueue_rels (n : Nat) (f : Queue → Queue) : (s.modQueue n f).rels = s.rels := rfl
@[simp] theorem State.modQueue_sprels (n : Nat) (f : Queue → Queue) : (s.modQueue n f).sprels = s.sprels := rfl
@[simp] theorem State.modQueue_resvs (n : Nat) (f : Queue → Queue) : (s.modQueue n f).resvs = s.resvs := rfl
@[simp] theorem State.modQueue_dies (n : Nat) (f : Queue → Queue) : (s.modQueue n f).dies = s.dies := rfl
@[simp] theorem State.modQueue_cores (n : Nat) (f : Queue → Queue) : (s.modQueue n f).cores = s.cores := rfl
@[simp] theorem State.modQueue_crews (n : Nat) (f : Queue → Queue) : (s.modQueue n f).crews = s.crews := rfl
@[simp] theorem State.modQueue_flights (n : Nat) (f : Queue → Queue) : (s.modQueue n f).flights = s.flights := rfl
@[simp] theorem State.modQueue_ascents (n : Nat) (f : Queue → Queue) : (s.modQueue n f).ascents = s.ascents := rfl
@[simp] theorem State.modQueue_queues (n : Nat) (f : Queue → Queue) : (s.modQueue n f).queues = s.queues.mod n f := rfl
@[simp] theorem State.modQueue_slots (n : Nat) (f : Queue → Queue) : (s.modQueue n f).slots = s.slots := rfl
@[simp] theorem State.modQueue_ctxs (n : Nat) (f : Queue → Queue) : (s.modQueue n f).ctxs = s.ctxs := rfl
@[simp] theorem State.modQueue_spans (n : Nat) (f : Queue → Queue) : (s.modQueue n f).spans = s.spans := rfl
@[simp] theorem State.modQueue_chips (n : Nat) (f : Queue → Queue) : (s.modQueue n f).chips = s.chips := rfl
@[simp] theorem State.modQueue_module (n : Nat) (f : Queue → Queue) : (s.modQueue n f).module = s.module := rfl
@[simp] theorem State.modQueue_nextId (n : Nat) (f : Queue → Queue) : (s.modQueue n f).nextId = s.nextId := rfl

/-! ## modSlot -/

@[simp] theorem State.modSlot_moves (n : Nat) (f : MSlot → MSlot) : (s.modSlot n f).moves = s.moves := rfl
@[simp] theorem State.modSlot_cur (n : Nat) (f : MSlot → MSlot) : (s.modSlot n f).cur = s.cur := rfl
@[simp] theorem State.modSlot_hold (n : Nat) (f : MSlot → MSlot) : (s.modSlot n f).hold = s.hold := rfl
@[simp] theorem State.modSlot_ev (n : Nat) (f : MSlot → MSlot) : (s.modSlot n f).ev = s.ev := rfl
@[simp] theorem State.modSlot_draws (n : Nat) (f : MSlot → MSlot) : (s.modSlot n f).draws = s.draws := rfl
@[simp] theorem State.modSlot_mem (n : Nat) (f : MSlot → MSlot) : (s.modSlot n f).mem = s.mem := rfl
@[simp] theorem State.modSlot_vers (n : Nat) (f : MSlot → MSlot) : (s.modSlot n f).vers = s.vers := rfl
@[simp] theorem State.modSlot_rels (n : Nat) (f : MSlot → MSlot) : (s.modSlot n f).rels = s.rels := rfl
@[simp] theorem State.modSlot_sprels (n : Nat) (f : MSlot → MSlot) : (s.modSlot n f).sprels = s.sprels := rfl
@[simp] theorem State.modSlot_resvs (n : Nat) (f : MSlot → MSlot) : (s.modSlot n f).resvs = s.resvs := rfl
@[simp] theorem State.modSlot_dies (n : Nat) (f : MSlot → MSlot) : (s.modSlot n f).dies = s.dies := rfl
@[simp] theorem State.modSlot_cores (n : Nat) (f : MSlot → MSlot) : (s.modSlot n f).cores = s.cores := rfl
@[simp] theorem State.modSlot_crews (n : Nat) (f : MSlot → MSlot) : (s.modSlot n f).crews = s.crews := rfl
@[simp] theorem State.modSlot_flights (n : Nat) (f : MSlot → MSlot) : (s.modSlot n f).flights = s.flights := rfl
@[simp] theorem State.modSlot_ascents (n : Nat) (f : MSlot → MSlot) : (s.modSlot n f).ascents = s.ascents := rfl
@[simp] theorem State.modSlot_queues (n : Nat) (f : MSlot → MSlot) : (s.modSlot n f).queues = s.queues := rfl
@[simp] theorem State.modSlot_slots (n : Nat) (f : MSlot → MSlot) : (s.modSlot n f).slots = s.slots.mod n f := rfl
@[simp] theorem State.modSlot_ctxs (n : Nat) (f : MSlot → MSlot) : (s.modSlot n f).ctxs = s.ctxs := rfl
@[simp] theorem State.modSlot_spans (n : Nat) (f : MSlot → MSlot) : (s.modSlot n f).spans = s.spans := rfl
@[simp] theorem State.modSlot_chips (n : Nat) (f : MSlot → MSlot) : (s.modSlot n f).chips = s.chips := rfl
@[simp] theorem State.modSlot_module (n : Nat) (f : MSlot → MSlot) : (s.modSlot n f).module = s.module := rfl
@[simp] theorem State.modSlot_nextId (n : Nat) (f : MSlot → MSlot) : (s.modSlot n f).nextId = s.nextId := rfl

/-! ## modModule -/

@[simp] theorem State.modModule_moves (f : Module → Module) : (s.modModule f).moves = s.moves := rfl
@[simp] theorem State.modModule_cur (f : Module → Module) : (s.modModule f).cur = s.cur := rfl
@[simp] theorem State.modModule_hold (f : Module → Module) : (s.modModule f).hold = s.hold := rfl
@[simp] theorem State.modModule_ev (f : Module → Module) : (s.modModule f).ev = s.ev := rfl
@[simp] theorem State.modModule_draws (f : Module → Module) : (s.modModule f).draws = s.draws := rfl
@[simp] theorem State.modModule_mem (f : Module → Module) : (s.modModule f).mem = s.mem := rfl
@[simp] theorem State.modModule_vers (f : Module → Module) : (s.modModule f).vers = s.vers := rfl
@[simp] theorem State.modModule_rels (f : Module → Module) : (s.modModule f).rels = s.rels := rfl
@[simp] theorem State.modModule_sprels (f : Module → Module) : (s.modModule f).sprels = s.sprels := rfl
@[simp] theorem State.modModule_resvs (f : Module → Module) : (s.modModule f).resvs = s.resvs := rfl
@[simp] theorem State.modModule_dies (f : Module → Module) : (s.modModule f).dies = s.dies := rfl
@[simp] theorem State.modModule_cores (f : Module → Module) : (s.modModule f).cores = s.cores := rfl
@[simp] theorem State.modModule_crews (f : Module → Module) : (s.modModule f).crews = s.crews := rfl
@[simp] theorem State.modModule_flights (f : Module → Module) : (s.modModule f).flights = s.flights := rfl
@[simp] theorem State.modModule_ascents (f : Module → Module) : (s.modModule f).ascents = s.ascents := rfl
@[simp] theorem State.modModule_queues (f : Module → Module) : (s.modModule f).queues = s.queues := rfl
@[simp] theorem State.modModule_slots (f : Module → Module) : (s.modModule f).slots = s.slots := rfl
@[simp] theorem State.modModule_ctxs (f : Module → Module) : (s.modModule f).ctxs = s.ctxs := rfl
@[simp] theorem State.modModule_spans (f : Module → Module) : (s.modModule f).spans = s.spans := rfl
@[simp] theorem State.modModule_chips (f : Module → Module) : (s.modModule f).chips = s.chips := rfl
@[simp] theorem State.modModule_module (f : Module → Module) : (s.modModule f).module = f s.module := rfl
@[simp] theorem State.modModule_nextId (f : Module → Module) : (s.modModule f).nextId = s.nextId := rfl

/-! ## draw -/

@[simp] theorem State.draw_moves (f : Nat → Nat) : (s.draw f).2.moves = s.moves := rfl
@[simp] theorem State.draw_cur (f : Nat → Nat) : (s.draw f).2.cur = s.cur := rfl
@[simp] theorem State.draw_hold (f : Nat → Nat) : (s.draw f).2.hold = s.hold := rfl
@[simp] theorem State.draw_ev (f : Nat → Nat) : (s.draw f).2.ev = s.ev := rfl
@[simp] theorem State.draw_draws (f : Nat → Nat) : (s.draw f).2.draws = s.draws + 1 := rfl
@[simp] theorem State.draw_mem (f : Nat → Nat) : (s.draw f).2.mem = s.mem := rfl
@[simp] theorem State.draw_vers (f : Nat → Nat) : (s.draw f).2.vers = s.vers := rfl
@[simp] theorem State.draw_rels (f : Nat → Nat) : (s.draw f).2.rels = s.rels := rfl
@[simp] theorem State.draw_sprels (f : Nat → Nat) : (s.draw f).2.sprels = s.sprels := rfl
@[simp] theorem State.draw_resvs (f : Nat → Nat) : (s.draw f).2.resvs = s.resvs := rfl
@[simp] theorem State.draw_dies (f : Nat → Nat) : (s.draw f).2.dies = s.dies := rfl
@[simp] theorem State.draw_cores (f : Nat → Nat) : (s.draw f).2.cores = s.cores := rfl
@[simp] theorem State.draw_crews (f : Nat → Nat) : (s.draw f).2.crews = s.crews := rfl
@[simp] theorem State.draw_flights (f : Nat → Nat) : (s.draw f).2.flights = s.flights := rfl
@[simp] theorem State.draw_ascents (f : Nat → Nat) : (s.draw f).2.ascents = s.ascents := rfl
@[simp] theorem State.draw_queues (f : Nat → Nat) : (s.draw f).2.queues = s.queues := rfl
@[simp] theorem State.draw_slots (f : Nat → Nat) : (s.draw f).2.slots = s.slots := rfl
@[simp] theorem State.draw_ctxs (f : Nat → Nat) : (s.draw f).2.ctxs = s.ctxs := rfl
@[simp] theorem State.draw_spans (f : Nat → Nat) : (s.draw f).2.spans = s.spans := rfl
@[simp] theorem State.draw_chips (f : Nat → Nat) : (s.draw f).2.chips = s.chips := rfl
@[simp] theorem State.draw_module (f : Nat → Nat) : (s.draw f).2.module = s.module := rfl
@[simp] theorem State.draw_nextId (f : Nat → Nat) : (s.draw f).2.nextId = s.nextId := rfl

/-! ## Reading what was changed -/

@[simp] theorem State.crew_modCrew_self (c : Nat) (f : Crew → Crew) : (s.modCrew c f).crew c = f (s.crew c) := by
  simp [State.crew]

theorem State.crew_modCrew_ne {c d : Nat} (f : Crew → Crew) (h : d ≠ c) : (s.modCrew c f).crew d = s.crew d := by
  simp [State.crew, Tab.get_mod_ne _ f h]

@[simp] theorem State.hasCrew_modCrew_self (c : Nat) (f : Crew → Crew) : (s.modCrew c f).hasCrew c = true := by
  simp [State.hasCrew]

@[simp] theorem State.crew_modKite_self (c k : Nat) (f : Kite → Kite) :
    (s.modKite c k f).crew c = { s.crew c with kites := (s.crew c).kites.mod k f } := by simp [State.modKite]

theorem State.crew_modKite_ne {c d : Nat} (k : Nat) (f : Kite → Kite) (h : d ≠ c) :
    (s.modKite c k f).crew d = s.crew d := s.crew_modCrew_ne _ h

@[simp] theorem State.crew_modReel_self (c : Nat) (f : Reel → Reel) :
    (s.modReel c f).crew c = { s.crew c with reel := f (s.crew c).reel } := by simp [State.modReel]

theorem State.crew_modReel_ne {c d : Nat} (f : Reel → Reel) (h : d ≠ c) : (s.modReel c f).crew d = s.crew d :=
  s.crew_modCrew_ne _ h

@[simp] theorem State.kite_modKite_self (c k : Nat) (f : Kite → Kite) :
    (s.modKite c k f).kite c k = f (s.kite c k) := by simp [State.kite]

theorem State.kite_modKite_ne {c k j : Nat} (f : Kite → Kite) (h : j ≠ k) :
    (s.modKite c k f).kite c j = s.kite c j := by simp [State.kite, Tab.get_mod_ne _ f h]

theorem State.kite_modKite_other {c d : Nat} (k j : Nat) (f : Kite → Kite) (h : d ≠ c) :
    (s.modKite c k f).kite d j = s.kite d j := by simp [State.kite, s.crew_modKite_ne k f h]

@[simp] theorem State.kite_modReel (c d j : Nat) (f : Reel → Reel) : (s.modReel c f).kite d j = s.kite d j := by
  by_cases h : d = c
  · subst h; simp [State.kite]
  · simp [State.kite, s.crew_modReel_ne f h]

@[simp] theorem State.reelOf_modReel_self (c : Nat) (f : Reel → Reel) :
    (s.modReel c f).reelOf c = f (s.reelOf c) := by simp [State.reelOf]

theorem State.reelOf_modReel_ne {c d : Nat} (f : Reel → Reel) (h : d ≠ c) :
    (s.modReel c f).reelOf d = s.reelOf d := by simp [State.reelOf, s.crew_modReel_ne f h]

@[simp] theorem State.reelOf_modKite (c k d : Nat) (f : Kite → Kite) :
    (s.modKite c k f).reelOf d = s.reelOf d := by
  by_cases h : d = c
  · subst h; simp [State.reelOf]
  · simp [State.reelOf, s.crew_modKite_ne k f h]

@[simp] theorem State.core_modCore_self (c : Nat) (f : Core → Core) : (s.modCore c f).core c = f (s.core c) := by
  simp [State.core]

theorem State.core_modCore_ne {c d : Nat} (f : Core → Core) (h : d ≠ c) : (s.modCore c f).core d = s.core d := by
  simp [State.core, Tab.get_mod_ne _ f h]

@[simp] theorem State.die_modDie_self (d : Nat) (f : Die → Die) : (s.modDie d f).die d = f (s.die d) := by
  simp [State.die]

theorem State.die_modDie_ne {c d : Nat} (f : Die → Die) (h : d ≠ c) : (s.modDie c f).die d = s.die d := by
  simp [State.die, Tab.get_mod_ne _ f h]

@[simp] theorem State.ctx_modCtx_self (n : Nat) (f : Context → Context) : (s.modCtx n f).ctx n = f (s.ctx n) := by
  simp [State.ctx]

theorem State.ctx_modCtx_ne {n m : Nat} (f : Context → Context) (h : m ≠ n) : (s.modCtx n f).ctx m = s.ctx m := by
  simp [State.ctx, Tab.get_mod_ne _ f h]

@[simp] theorem State.flight_modFlight_self (n : Nat) (f : Flight → Flight) :
    (s.modFlight n f).flight n = f (s.flight n) := by simp [State.flight]

theorem State.flight_modFlight_ne {n m : Nat} (f : Flight → Flight) (h : m ≠ n) :
    (s.modFlight n f).flight m = s.flight m := by simp [State.flight, Tab.get_mod_ne _ f h]

/-! ## Changes that follow each other -/

@[simp] theorem State.modCrew_modCrew (c : Nat) (f g : Crew → Crew) :
    (s.modCrew c f).modCrew c g = s.modCrew c fun w => g (f w) := by simp [State.modCrew]

@[simp] theorem State.modKite_modKite (c k : Nat) (f g : Kite → Kite) :
    (s.modKite c k f).modKite c k g = s.modKite c k fun x => g (f x) := by
  simp only [State.modKite, State.modCrew_modCrew, Tab.mod_mod]

@[simp] theorem State.modReel_modReel (c : Nat) (f g : Reel → Reel) :
    (s.modReel c f).modReel c g = s.modReel c fun r => g (f r) := by
  simp only [State.modReel, State.modCrew_modCrew]

@[simp] theorem State.modCore_modCore (c : Nat) (f g : Core → Core) :
    (s.modCore c f).modCore c g = s.modCore c fun k => g (f k) := by simp [State.modCore]

@[simp] theorem State.modModule_modModule (f g : Module → Module) :
    (s.modModule f).modModule g = s.modModule fun m => g (f m) := rfl

/-- What a change of a crew gives depends on that crew only. -/
theorem State.modCrew_congr {c : Nat} {f g : Crew → Crew} (h : f (s.crew c) = g (s.crew c)) :
    s.modCrew c f = s.modCrew c g := by
  unfold State.modCrew Tab.mod
  unfold State.crew at h
  rw [h]

/-- What a change of a kite gives depends on that kite only. -/
theorem State.modKite_congr {c k : Nat} {f g : Kite → Kite} (h : f (s.kite c k) = g (s.kite c k)) :
    s.modKite c k f = s.modKite c k g := by
  apply s.modCrew_congr
  unfold Tab.mod
  unfold State.kite at h
  rw [h]

/-- What a change of a reel gives depends on that reel only. -/
theorem State.modReel_congr {c : Nat} {f g : Reel → Reel} (h : f (s.reelOf c) = g (s.reelOf c)) :
    s.modReel c f = s.modReel c g := by
  apply s.modCrew_congr
  unfold State.reelOf at h
  rw [h]

end Sys2Proof.Machine
end

