-- ==== Sys2Proof/Laws/Issue.lean ====
section
/-!
SUPPORT. Laws of the frame in which a kite's instruction issues: one equation for each way that it ends.
-/
namespace Sys2Proof.Machine

variable {i : Instr} {s : State} {c k : Nat}

/-- What the frame does with the end of an instruction's body. -/
def Res.ends (r : Res) (s : State) (c k : Nat) (yld : Bool) : State :=
  match r with
  | .done s => retire s c k yld
  | .jump s (.ok p) _ => moveTo (s.modKite c k fun x => { x with waitCount := 0, yielded := yld }) c k p
  | .jump s (.error t) r => trapKite s c k t r none
  | .wait s w => waitKite s c k w
  | .notReady => s
  | .raise s t r q => trapKite s c k t r q
  | .stay s => s

@[simp] theorem Res.ends_done (t : State) (y : Bool) : (Res.done t).ends s c k y = retire t c k y := rfl
@[simp] theorem Res.ends_jump_ok (t : State) (p : Nat × Nat) (r : Resume) (y : Bool) :
    (Res.jump t (.ok p) r).ends s c k y =
      moveTo (t.modKite c k fun x => { x with waitCount := 0, yielded := y }) c k p := rfl
@[simp] theorem Res.ends_jump_error (t : State) (e : Trap) (r : Resume) (y : Bool) :
    (Res.jump t (.error e) r).ends s c k y = trapKite t c k e r none := rfl
@[simp] theorem Res.ends_wait (t : State) (w : WaitOn) (y : Bool) :
    (Res.wait t w).ends s c k y = waitKite t c k w := rfl
@[simp] theorem Res.ends_notReady (y : Bool) : Res.notReady.ends s c k y = s := rfl
@[simp] theorem Res.ends_raise (t : State) (e : Trap) (r : Resume) (q : Option Nat) (y : Bool) :
    (Res.raise t e r q).ends s c k y = trapKite t c k e r q := rfl
@[simp] theorem Res.ends_stay (t : State) (y : Bool) : (Res.stay t).ends s c k y = t := rfl

/-- An instruction whose guard lets it run ends as its body does. -/
theorem issue_of_issues {op a b : Nat} {f : Fields} (h : Issues i s c k) (hp : carugParts i = some (op, a, b, f))
    (body : State → Nat → Nat → Kite → Res) :
    issue i s body = (body s c k (s.kite c k)).ends s c k f.yld := by
  have hg : (!elementGuard op && !(s.kite c k).guardBit f 0) = false := by
    have := h.guard
    simp only [guardOpen, hp] at this
    revert this
    cases elementGuard op <;> simp
  have hl : legalInstr i = true := h.legal
  have hb : (s.kite c k).blocked (s.crew c) k op f s.hold = false := by
    have := h.free
    simpa only [notBlocked, hp, Bool.not_eq_true'] using this
  have hc : (s.kite c k).guardComes f = false := by
    simp only [Kite.blocked, Bool.or_eq_false_iff] at hb
    exact hb.1.1.1
  simp only [issue, h.turn, hp, h.flying, hl, hg, hb, hc, ne_eq, not_true_eq_false, if_false, Bool.not_true,
    Bool.false_eq_true]
  generalize body s c k (s.kite c k) = r
  cases r with
  | jump t p _ => cases p <;> rfl
  | _ => rfl

/-- Under a false scalar guard that is there an instruction only retires (R26). -/
theorem issue_of_guard_false {op a b : Nat} {f : Fields} (h : Turns i s c k)
    (hp : carugParts i = some (op, a, b, f)) (hg : guardOpen i (s.kite c k) = false)
    (hc : (s.kite c k).guardComes f = false)
    (body : State → Nat → Nat → Kite → Res) : issue i s body = retire s c k f.yld := by
  have hg : (!elementGuard op && !(s.kite c k).guardBit f 0) = true := by
    simp only [guardOpen, hp] at hg
    revert hg
    cases elementGuard op <;> simp
  have hl : legalInstr i = true := h.legal
  simp only [issue, h.turn, hp, h.flying, hl, hg, hc, ne_eq, not_true_eq_false, if_false, Bool.not_true,
    Bool.false_eq_true, if_true]

/-- An instruction that only changes the kite's registers retires with them changed. -/
theorem issueReg_of_issues {op a b : Nat} {f : Fields} (h : Issues i s c k)
    (hp : carugParts i = some (op, a, b, f)) (g : Kite → Kite) :
    issueReg i s g = retire (s.modKite c k g) c k f.yld := by
  rw [issueReg, issue_of_issues h hp]; rfl

/-! ## Retirement -/

/-- The kite after an instruction, where it is not repeating and goes on in the same buffer. -/
def Kite.stepped (x : Kite) (yld : Bool) : Kite :=
  { x with waitCount := 0, yielded := yld, idx := x.idx + 1, resume := .here
           st := if (x.buf x.cur).filling then .waiting else .flying
           wait := if (x.buf x.cur).filling then .fill x.cur else .none }

theorem moveTo_eq (s : State) (c k : Nat) (p : Nat × Nat) :
    moveTo s c k p = s.modKite c k fun x =>
      { x with cur := p.1, idx := p.2, resume := .here
               st := if (x.buf p.1).filling then .waiting else .flying
               wait := if (x.buf p.1).filling then .fill p.1 else .none } := by
  unfold moveTo
  apply State.modKite_congr
  have hb : ({ (s.kite c k) with cur := p.1, idx := p.2, resume := .here } : Kite).buf p.1 = (s.kite c k).buf p.1 := rfl
  simp only [hb]
  cases ((s.kite c k).buf p.1).filling <;> rfl

/-- An instruction that retires moves the kite, where it finds a position, and no rep runs. -/
theorem retire_eq {yld : Bool} {p : Nat × Nat} (hr : (s.kite c k).repRun = false)
    (hp : (s.kite c k).nextPos = .ok p) :
    retire s c k yld = s.modKite c k fun x => x.movedTo p yld := by
  simp only [retire, hr, Bool.false_eq_true, if_false]
  have hn : (((s.modKite c k fun x => { x with waitCount := 0, yielded := yld }).kite c k)).nextPos = .ok p := by
    simp only [State.kite_modKite_self]
    exact hp
  simp only [advance, hn, moveTo_eq, State.modKite_modKite]
  rfl

/-- The same for a kite that the instruction has changed. -/
theorem retire_modKite {yld : Bool} {p : Nat × Nat} {g : Kite → Kite} (hr : (g (s.kite c k)).repRun = false)
    (hp : (g (s.kite c k)).nextPos = .ok p) :
    retire (s.modKite c k g) c k yld = s.modKite c k fun x => (g x).movedTo p yld := by
  rw [retire_eq (p := p) (by simpa using hr) (by simpa using hp), State.modKite_modKite]

/-- Inside a buffer an instruction that does not repeat is followed by the next slot (R53). -/
theorem retire_inside {yld : Bool} (hr : (s.kite c k).repRun = false)
    (hb : (s.kite c k).idx + 1 < ((s.kite c k).buf (s.kite c k).cur).slots) :
    retire s c k yld = s.modKite c k fun x => x.stepped yld := by
  simp only [retire, hr, Bool.false_eq_true, if_false]
  have hn : (((s.modKite c k fun x => { x with waitCount := 0, yielded := yld }).kite c k)).nextPos =
      .ok ((s.kite c k).cur, (s.kite c k).idx + 1) := by
    simp only [State.kite_modKite_self, Kite.nextPos]
    rw [if_pos]
    exact hb
  simp only [advance, hn, moveTo_eq, State.modKite_modKite]
  apply State.modKite_congr
  simp only [Kite.stepped]
  rfl

end Sys2Proof.Machine
end

