-- ==== Sys2Proof/Laws/Memory.lean ====
section
/-!
SUPPORT. Laws of byte memories: the canonical form, which every operation keeps, what is read after a write, and
what a write leaves alone; of the module's memory, and of the on-chip spaces.
-/
namespace Sys2Proof.Machine

/-! ## The canonical form -/

/-- The canonical form in words: rising addresses, and no entry that reads as an unlisted address does. -/
theorem Memory.wf_iff (m : List Host.Cell) :
    Memory.wf m = true ↔ (m.map (·.1)).Pairwise (· < ·) ∧ ∀ e ∈ m, e.2 ≠ unlisted := by
  induction m with
  | nil => simp [Memory.wf]
  | cons e m ih =>
    obtain ⟨a, x⟩ := e
    cases m with
    | nil => simp [Memory.wf]
    | cons e' m' =>
      obtain ⟨b, y⟩ := e'
      simp only [Memory.wf, Bool.and_eq_true, decide_eq_true_eq, ih]
      simp only [List.map_cons, List.pairwise_cons, List.mem_cons, List.mem_map]
      constructor
      · rintro ⟨⟨hab, hx⟩, ⟨hb, hp⟩, hu⟩
        refine ⟨⟨?_, hb, hp⟩, ?_⟩
        · rintro c (rfl | ⟨e, he, rfl⟩)
          · exact hab
          · exact Nat.lt_trans hab (hb _ ⟨e, he, rfl⟩)
        · rintro e (rfl | he)
          · exact hx
          · exact hu e he
      · rintro ⟨⟨ha, hb, hp⟩, hu⟩
        exact ⟨⟨ha b (.inl rfl), hu _ (.inl rfl)⟩, ⟨hb, hp⟩, fun e he => hu e (.inr he)⟩

/-- An address below every entry reads as unlisted. -/
theorem memGet_below {m : List Host.Cell} {a : Nat} (h : ∀ b ∈ m.map (·.1), a < b) : memGet m a = unlisted := by
  induction m with
  | nil => rfl
  | cons e m ih =>
    obtain ⟨b, x⟩ := e
    have : a < b := h b (by simp)
    simp only [memGet, if_neg (Nat.ne_of_lt this)]
    exact ih fun c hc => h c (by simp [hc])

theorem memGet_memPut_ne (m : List Host.Cell) {a b : Nat} (x : Byte) (h : b ≠ a) :
    memGet (memPut m a x) b = memGet m b := by
  induction m with
  | nil => simp only [memPut]; split <;> simp [memGet, h]
  | cons e m ih =>
    obtain ⟨c, y⟩ := e
    simp only [memPut]
    split
    · split <;> simp [memGet, h]
    · split
      · rename_i hc
        subst hc
        split <;> simp [memGet, h]
      · simp only [memGet, ih]

/-- A byte reads as it was written. -/
theorem memGet_memPut_self {m : List Host.Cell} (hm : Memory.wf m = true) (a : Nat) (x : Byte) :
    memGet (memPut m a x) a = x := by
  rw [Memory.wf_iff] at hm
  induction m with
  | nil => simp only [memPut]; split <;> simp_all [memGet]
  | cons e m ih =>
    obtain ⟨c, y⟩ := e
    simp only [List.map_cons, List.pairwise_cons] at hm
    have hb : ∀ a', a' < c → memGet ((c, y) :: m) a' = unlisted := fun a' h => memGet_below (by
      simp only [List.map_cons, List.mem_cons]
      rintro d (rfl | hd)
      · exact h
      · exact Nat.lt_trans h (hm.1.1 d hd))
    simp only [memPut]
    split
    · rename_i h
      split
      · rename_i hx; rw [hb a h, hx]
      · simp [memGet]
    · split
      · rename_i hc
        subst hc
        split
        · rename_i hx; rw [memGet_below fun b h => hm.1.1 b h, hx]
        · simp [memGet]
      · rename_i h1 h2
        simp only [memGet, if_neg h2]
        exact ih ⟨hm.1.2, fun e he => hm.2 e (by simp [he])⟩

theorem memGet_memPut {m : List Host.Cell} (hm : Memory.wf m = true) (a b : Nat) (x : Byte) :
    memGet (memPut m a x) b = if b = a then x else memGet m b := by
  split
  · rename_i h; rw [h, memGet_memPut_self hm]
  · rename_i h; exact memGet_memPut_ne m x h

theorem mem_memPut {m : List Host.Cell} {a : Nat} {x : Byte} {e : Host.Cell} (h : e ∈ memPut m a x) :
    (e = (a, x) ∧ x ≠ unlisted) ∨ e ∈ m := by
  induction m with
  | nil => simp only [memPut] at h; split at h <;> simp_all
  | cons d m ih =>
    obtain ⟨c, y⟩ := d
    simp only [memPut] at h
    split at h
    · split at h <;> simp_all
    · split at h
      · split at h
        · simp_all
        · simp only [List.mem_cons] at h ⊢
          rcases h with rfl | h
          · simp_all
          · exact .inr (.inr h)
      · simp only [List.mem_cons] at h ⊢
        rcases h with rfl | h
        · exact .inr (.inl rfl)
        · exact (ih h).imp id .inr

/-- Writing a byte keeps the canonical form. -/
theorem memPut_wf {m : List Host.Cell} (hm : Memory.wf m = true) (a : Nat) (x : Byte) :
    Memory.wf (memPut m a x) = true := by
  rw [Memory.wf_iff] at hm ⊢
  refine ⟨?_, fun e he => (mem_memPut he).elim (fun h => by rw [h.1]; exact h.2) (hm.2 e)⟩
  induction m with
  | nil => simp only [memPut]; split <;> simp
  | cons d m ih =>
    obtain ⟨c, y⟩ := d
    have hm' := hm
    simp only [List.map_cons, List.pairwise_cons] at hm
    simp only [memPut]
    split
    · rename_i h
      split
      · exact hm'.1
      · simp only [List.map_cons, List.pairwise_cons, List.mem_cons]
        refine ⟨?_, hm.1.1, hm.1.2⟩
        rintro d (rfl | hd)
        · exact h
        · exact Nat.lt_trans h (hm.1.1 d hd)
    · split
      · rename_i hc
        subst hc
        split
        · exact hm.1.2
        · exact hm'.1
      · rename_i h1 h2
        simp only [List.map_cons, List.pairwise_cons]
        refine ⟨fun d hd => ?_, ih ⟨hm.1.2, fun e he => hm.2 e (by simp [he])⟩⟩
        obtain ⟨e, he, rfl⟩ := List.mem_map.mp hd
        rcases mem_memPut he with ⟨rfl, -⟩ | he
        · exact Nat.lt_of_le_of_ne (Nat.not_lt.mp h1) (Ne.symm h2)
        · exact hm.1.1 _ (List.mem_map.mpr ⟨e, he, rfl⟩)

/-- Memories of equal bytes in the canonical form are equal. -/
theorem Memory.ext {m n : List Host.Cell} (hm : Memory.wf m = true) (hn : Memory.wf n = true)
    (h : ∀ a, memGet m a = memGet n a) : m = n := by
  rw [Memory.wf_iff] at hm hn
  induction m generalizing n with
  | nil =>
    cases n with
    | nil => rfl
    | cons e n =>
      obtain ⟨b, y⟩ := e
      have := h b
      simp only [memGet, if_true] at this
      exact absurd this.symm (hn.2 _ (List.mem_cons_self ..))
  | cons d m ih =>
    obtain ⟨a, x⟩ := d
    have hx : x ≠ unlisted := hm.2 _ (List.mem_cons_self ..)
    cases n with
    | nil =>
      have := h a
      simp only [memGet, if_true] at this
      exact absurd this hx
    | cons e n =>
      obtain ⟨b, y⟩ := e
      have hy : y ≠ unlisted := hn.2 _ (List.mem_cons_self ..)
      simp only [List.map_cons, List.pairwise_cons] at hm hn
      have hab : a = b := by
        rcases Nat.lt_trichotomy a b with hlt | heq | hlt
        · have h1 := h a
          rw [memGet_below (m := (b, y) :: n) (by
            simp only [List.map_cons, List.mem_cons]
            rintro d (rfl | hd)
            · exact hlt
            · exact Nat.lt_trans hlt (hn.1.1 d hd))] at h1
          simp only [memGet, if_true] at h1
          exact absurd h1 hx
        · exact heq
        · have h1 := h b
          rw [memGet_below (m := (a, x) :: m) (by
            simp only [List.map_cons, List.mem_cons]
            rintro d (rfl | hd)
            · exact hlt
            · exact Nat.lt_trans hlt (hm.1.1 d hd))] at h1
          simp only [memGet, if_true] at h1
          exact absurd h1.symm hy
      subst hab
      have hxy : x = y := by have := h a; simpa [memGet] using this
      subst hxy
      congr 1
      apply ih ⟨hm.1.2, fun e he => hm.2 e (by simp [he])⟩ ⟨hn.1.2, fun e he => hn.2 e (by simp [he])⟩
      intro c
      by_cases hc : c = a
      · subst hc
        rw [memGet_below fun b h => hm.1.1 b h, memGet_below fun b h => hn.1.1 b h]
      · have := h c
        simpa [memGet, hc] using this

/-! ## Several bytes -/

theorem memWrite_wf {m : List Host.Cell} (hm : Memory.wf m = true) (a : Nat) (bs : List Byte) :
    Memory.wf (memWrite m a bs) = true := by
  induction bs generalizing m a with
  | nil => exact hm
  | cons b bs ih => exact ih (memPut_wf hm a b) (a + 1)

/-- A write leaves every byte outside it alone. -/
theorem memGet_memWrite_ne (m : List Host.Cell) (a : Nat) (bs : List Byte) {b : Nat}
    (h : b < a ∨ a + bs.length ≤ b) : memGet (memWrite m a bs) b = memGet m b := by
  induction bs generalizing m a with
  | nil => rfl
  | cons x bs ih =>
    simp only [List.length_cons] at h
    rw [memWrite, ih _ _ (by omega), memGet_memPut_ne _ _ (by omega)]

theorem memBytes_memWrite {m : List Host.Cell} (hm : Memory.wf m = true) (a : Nat) (bs : List Byte) :
    memBytes (memWrite m a bs) a bs.length = bs := by
  induction bs generalizing m a with
  | nil => rfl
  | cons x bs ih =>
    simp only [memWrite, List.length_cons, memBytes]
    rw [memGet_memWrite_ne _ _ _ (.inl (Nat.lt_succ_self a)), memGet_memPut_self hm, ih (memPut_wf hm a x)]

@[simp] theorem length_toBytes (n x : Nat) : (toBytes n x).length = n := by
  induction n generalizing x with
  | zero => rfl
  | succ n ih => simp [toBytes, ih]

@[simp] theorem ofBytes_toBytes (n x : Nat) : ofBytes (toBytes n x) = x % 2 ^ (8 * n) := by
  induction n generalizing x with
  | zero => simp [toBytes, ofBytes, Nat.mod_one]
  | succ n ih =>
    simp only [toBytes, ofBytes, ih, BitVec.toNat_ofNat]
    rw [show 8 * (n + 1) = 8 + 8 * n by omega, Nat.pow_add, Nat.mod_mul, show (256 : Nat) = 2 ^ 8 from rfl]

/-- A number reads as it was written. -/
theorem memRead_memWrite {m : List Host.Cell} (hm : Memory.wf m = true) (a n x : Nat) :
    memRead (memWrite m a (toBytes n x)) a n = x % 2 ^ (8 * n) := by
  have h := memBytes_memWrite hm a (toBytes n x)
  rw [length_toBytes] at h
  rw [memRead, h, ofBytes_toBytes]

theorem memBytes_congr {m n : List Host.Cell} (a k : Nat) (h : ∀ b, a ≤ b → b < a + k → memGet m b = memGet n b) :
    memBytes m a k = memBytes n a k := by
  induction k generalizing a with
  | zero => rfl
  | succ k ih =>
    simp only [memBytes]
    rw [h a (Nat.le_refl a) (by omega), ih (a + 1) fun b h1 h2 => h b (by omega) (by omega)]

theorem memRead_memWrite_ne (m : List Host.Cell) (a n b : Nat) (bs : List Byte) (h : b + n ≤ a ∨ a + bs.length ≤ b) :
    memRead (memWrite m a bs) b n = memRead m b n := by
  rw [memRead, memRead, memBytes_congr b n fun c h1 h2 => memGet_memWrite_ne m a bs (by omega)]

theorem memMerge_wf {m : List Host.Cell} (hm : Memory.wf m = true) (ws : List WByte) :
    Memory.wf (memMerge m ws) = true := by
  unfold memMerge
  induction ws generalizing m with
  | nil => exact hm
  | cons w ws ih => exact ih (memPut_wf hm _ _)

theorem memGet_memMerge_ne (m : List Host.Cell) (ws : List WByte) {b : Nat} (h : ∀ w ∈ ws, w.addr ≠ b) :
    memGet (memMerge m ws) b = memGet m b := by
  unfold memMerge
  induction ws generalizing m with
  | nil => rfl
  | cons w ws ih =>
    simp only [List.foldl_cons]
    rw [ih _ fun w' hw => h w' (by simp [hw]), memGet_memPut_ne _ _ fun hb => h w (by simp) hb.symm]

theorem mergeByte_full (old : Byte) (w : WByte) (h : w.mask = 255) : mergeByte old w = BitVec.ofNat 8 w.value := by
  have h2 : w.mask % 256 = 2 ^ 8 - 1 := by omega
  simp only [mergeByte, h2, Nat.and_two_pow_sub_one_eq_mod]
  apply BitVec.eq_of_toNat_eq
  simp

/-- Whole bytes merged are bytes written. -/
theorem memMerge_wbytes (m : List Host.Cell) (a : Nat) (bs : List Byte) :
    memMerge m (wbytes a bs) = memWrite m a bs := by
  unfold memMerge
  induction bs generalizing m a with
  | nil => rfl
  | cons b bs ih =>
    simp only [wbytes, List.foldl_cons, memWrite]
    rw [mergeByte_full _ _ rfl, ih]
    simp

/-! ## The module's memory -/

@[simp] theorem commit_cur (s : State) (a : Nat) (bs : List Byte) : (commit s a bs).cur = s.cur := rfl
@[simp] theorem commit_mem (s : State) (a : Nat) (bs : List Byte) : (commit s a bs).mem = memWrite s.mem a bs := rfl
@[simp] theorem commit_vers (s : State) (a : Nat) (bs : List Byte) : (commit s a bs).vers = s.vers := rfl
@[simp] theorem commit_crews (s : State) (a : Nat) (bs : List Byte) : (commit s a bs).crews = s.crews := rfl
@[simp] theorem commit_cores (s : State) (a : Nat) (bs : List Byte) : (commit s a bs).cores = s.cores := rfl
@[simp] theorem commit_flights (s : State) (a : Nat) (bs : List Byte) : (commit s a bs).flights = s.flights := rfl
@[simp] theorem commit_module (s : State) (a : Nat) (bs : List Byte) : (commit s a bs).module = s.module := rfl
@[simp] theorem commit_ctxs (s : State) (a : Nat) (bs : List Byte) : (commit s a bs).ctxs = s.ctxs := rfl
@[simp] theorem commit_dies (s : State) (a : Nat) (bs : List Byte) : (commit s a bs).dies = s.dies := rfl
@[simp] theorem commit_queues (s : State) (a : Nat) (bs : List Byte) : (commit s a bs).queues = s.queues := rfl

/-- A commit keeps the canonical form. -/
theorem commit_memOk {s : State} (h : s.memOk) (a : Nat) (bs : List Byte) : (commit s a bs).memOk :=
  memWrite_wf h a bs

/-- A commit writes its bytes and no other. -/
theorem memGet_commit_ne (s : State) (a : Nat) (bs : List Byte) {b : Nat} (h : b < a ∨ a + bs.length ≤ b) :
    memGet (commit s a bs).mem b = memGet s.mem b := memGet_memWrite_ne s.mem a bs h

/-- A reservation stands after a commit exactly if it holds none of the bytes (R95). -/
theorem mem_resvs_commit (s : State) (a : Nat) (bs : List Byte) (r : Nat × Resv) :
    r ∈ (commit s a bs).resvs ↔ r ∈ s.resvs ∧ (a + bs.length ≤ r.2.addr ∨ r.2.addr + r.2.n ≤ a) := by
  simp only [commit, List.mem_filter, Bool.not_eq_true', Bool.and_eq_false_iff, decide_eq_false_iff_not, Nat.not_lt]

/-- The atomic at the home keeps the canonical form, and the tinted versions. -/
theorem atomicAtHome_memOk {s : State} (h : s.memOk) (c a n : Nat) (g : Nat → Option Nat) (rel : Option Nat) :
    (atomicAtHome s c a n g rel).2.memOk := by
  unfold atomicAtHome
  simp only
  split
  · exact h
  · split <;> exact commit_memOk h _ _

/-! ## The on-chip spaces -/

theorem Tab.mem_set {α : Type} {t : Tab α} {n : Nat} {x : α} {e : Nat × α} (h : e ∈ t.set n x) :
    e = (n, x) ∨ e ∈ t := by
  induction t with
  | nil => simpa [Tab.set] using h
  | cons d t ih =>
    obtain ⟨m, y⟩ := d
    simp only [Tab.set] at h
    split at h
    · simpa using h
    · split at h
      · simp only [List.mem_cons] at h ⊢
        exact h.imp id .inr
      · simp only [List.mem_cons] at h ⊢
        rcases h with rfl | h
        · exact .inr (.inl rfl)
        · exact (ih h).imp id .inr

theorem Tab.get_mem {α : Type} [Inhabited α] (t : Tab α) (n : Nat) : t.get n = default ∨ ∃ e ∈ t, e.2 = t.get n := by
  induction t with
  | nil => exact .inl rfl
  | cons d t ih =>
    obtain ⟨m, y⟩ := d
    simp only [Tab.get]
    split
    · exact .inr ⟨_, List.mem_cons_self .., rfl⟩
    · exact ih.imp id fun ⟨e, he, h⟩ => ⟨e, List.mem_cons_of_mem _ he, h⟩

/-- A property of every entry holds of an entry read, if it holds of the default. -/
theorem Tab.get_of_all {α : Type} [Inhabited α] {p : α → Prop} {t : Tab α} (hd : p default) (h : ∀ e ∈ t, p e.2)
    (n : Nat) : p (t.get n) := by
  rcases t.get_mem n with h' | ⟨e, he, h'⟩
  · rw [h']; exact hd
  · rw [← h']; exact h e he

/-- A property of every entry is kept by a change that keeps it. -/
theorem Tab.all_mod {α : Type} [Inhabited α] {p : α → Prop} {t : Tab α} (hd : p default) (h : ∀ e ∈ t, p e.2)
    (n : Nat) {f : α → α} (hf : p (t.get n) → p (f (t.get n))) : ∀ e ∈ t.mod n f, p e.2 := by
  intro e he
  rcases Tab.mem_set he with rfl | he
  · exact hf (Tab.get_of_all hd h n)
  · exact h e he

/-- A property of every entry is kept by the removal of entries. -/
theorem Tab.all_del {α : Type} {p : α → Prop} {t : Tab α} (h : ∀ e ∈ t, p e.2) (n : Nat) : ∀ e ∈ t.del n, p e.2 := by
  induction t with
  | nil => simp [Tab.del]
  | cons d t ih =>
    obtain ⟨m, y⟩ := d
    have ih := ih fun e he => h e (List.mem_cons_of_mem _ he)
    simp only [Tab.del]
    split
    · exact ih
    · intro e he
      rcases List.mem_cons.mp he with rfl | he
      · exact h _ (List.mem_cons_self ..)
      · exact ih e he

theorem Crew.memOk_default : (default : Crew).memOk := ⟨rfl, rfl⟩

/-- A change of a crew that leaves its memories in canonical form. -/
theorem State.modCrew_onChipOk {s : State} (h : s.onChipOk) (c : Nat) {f : Crew → Crew}
    (hf : (s.crew c).memOk → (f (s.crew c)).memOk) : (s.modCrew c f).onChipOk :=
  ⟨Tab.all_mod Crew.memOk_default h.1 c hf, h.2⟩

theorem spMem_wf {s : State} (h : s.onChipOk) (c space : Nat) : Memory.wf (spMem s c space) = true := by
  have hw : (s.crew c).memOk := Tab.get_of_all Crew.memOk_default h.1 c
  have hd : Memory.wf (default : Flight).shared = true := rfl
  unfold spMem
  split
  · exact hw.1
  · exact Tab.get_of_all (p := fun f : Flight => Memory.wf f.shared = true) hd (fun e he => (h.2.1 e he).1) _
  · unfold chipOf
    cases hf : s.chips.find? _ with
    | none => rfl
    | some x => exact h.2.2 x (List.mem_of_find?_eq_some hf)
  · exact hw.2
  · rfl

/-- Setting the bytes of a space keeps every on-chip memory in canonical form. -/
theorem setSpMem_onChipOk {s : State} (h : s.onChipOk) (c space : Nat) {m : List Host.Cell}
    (hm : Memory.wf m = true) : (setSpMem s c space m).onChipOk := by
  unfold setSpMem
  split
  · exact State.modCrew_onChipOk h c fun hw => ⟨hm, hw.2⟩
  · refine ⟨h.1, ?_, h.2.2⟩
    exact Tab.all_mod (p := fun f : Flight => Memory.wf f.shared = true ∧ ∀ w ∈ f.saved, w.memOk)
      ⟨rfl, fun w hw => by cases hw⟩ h.2.1 _ (f := fun f => { f with shared := m }) fun hf => ⟨hm, hf.2⟩
  · refine ⟨h.1, h.2.1, fun x hx => ?_⟩
    obtain ⟨y, hy, rfl⟩ := List.mem_map.mp hx
    split
    · exact hm
    · exact h.2.2 y hy
  · exact State.modCrew_onChipOk h c fun hw => ⟨hw.1, hm⟩
  · exact h

theorem spWrite_onChipOk {s : State} (h : s.onChipOk) (c space : Nat) (ws : List WByte) :
    (spWrite s c space ws).onChipOk := setSpMem_onChipOk h c space (memMerge_wf (spMem_wf h c space) ws)

theorem setSpMem_mem (s : State) (c space : Nat) (m : List Host.Cell) : (setSpMem s c space m).mem = s.mem := by
  unfold setSpMem; split <;> rfl

@[simp] theorem spWrite_mem (s : State) (c space : Nat) (ws : List WByte) : (spWrite s c space ws).mem = s.mem :=
  setSpMem_mem s c space _

/-- At reset the module's memory is in canonical form. -/
theorem reset_mem_wf : Memory.wf State.reset.mem = true := rfl

end Sys2Proof.Machine
end

