-- ==== Sys2Proof/Laws/PerInstr.lean ====
section
/-!
SUPPORT. Per instruction: a Carug instruction is built again from its OP, its FN, its fields, and the bits of its B
and C (R34, R35), so that no two rows of the operation tables share an OP and FN.
-/
namespace Sys2Proof.Laws.Rebuild

open Sys2Proof.Machine

/-- An instruction of the Carug tables is what its OP, FN, fields and immediate build. -/
def Statement (i : Instr) : Prop :=
  ∀ op lo hi f, carugParts i = some (op, lo, hi, f) → lo ≤ f.fn.toNat → f.fn.toNat ≤ hi →
    carugBuild op f (carugBC i f) = some i

/-- A row of one FN. -/
theorem single {i : Instr} {op n : Nat} {f : Fields} (hp : carugParts i = some (op, n, n, f))
    (hb : f.fn.toNat = n → carugBuild op f (carugBC i f) = some i) : Statement i := by
  intro op' lo hi g h h1 h2
  rw [hp] at h
  cases h
  exact hb (Nat.le_antisymm h2 h1)

/-- No row. -/
theorem absent {i : Instr} (hp : carugParts i = none) : Statement i := by
  intro op lo hi g h
  rw [hp] at h
  cases h

theorem add (f : Fields) : Statement (.add f) :=
  single rfl fun h => by simp only [carugBuild, h]; rfl
theorem sub (f : Fields) : Statement (.sub f) :=
  single rfl fun h => by simp only [carugBuild, h]; rfl
theorem and (f : Fields) : Statement (.and f) :=
  single rfl fun h => by simp only [carugBuild, h]; rfl
theorem or (f : Fields) : Statement (.or f) :=
  single rfl fun h => by simp only [carugBuild, h]; rfl
theorem xor (f : Fields) : Statement (.xor f) :=
  single rfl fun h => by simp only [carugBuild, h]; rfl
theorem shl (f : Fields) : Statement (.shl f) :=
  single rfl fun h => by simp only [carugBuild, h]; rfl
theorem shr (f : Fields) : Statement (.shr f) :=
  single rfl fun h => by simp only [carugBuild, h]; rfl
theorem sra (f : Fields) : Statement (.sra f) :=
  single rfl fun h => by simp only [carugBuild, h]; rfl
theorem mul (f : Fields) : Statement (.mul f) :=
  single rfl fun h => by simp only [carugBuild, h]; rfl
theorem mulhS (f : Fields) : Statement (.mulhS f) :=
  single rfl fun h => by simp only [carugBuild, h]; rfl
theorem mulhN (f : Fields) : Statement (.mulhN f) :=
  single rfl fun h => by simp only [carugBuild, h]; rfl
theorem mulhSn (f : Fields) : Statement (.mulhSn f) :=
  single rfl fun h => by simp only [carugBuild, h]; rfl
theorem divS (f : Fields) : Statement (.divS f) :=
  single rfl fun h => by simp only [carugBuild, h]; rfl
theorem divN (f : Fields) : Statement (.divN f) :=
  single rfl fun h => by simp only [carugBuild, h]; rfl
theorem remS (f : Fields) : Statement (.remS f) :=
  single rfl fun h => by simp only [carugBuild, h]; rfl
theorem remN (f : Fields) : Statement (.remN f) :=
  single rfl fun h => by simp only [carugBuild, h]; rfl
theorem min (f : Fields) : Statement (.min f) :=
  single rfl fun h => by simp only [carugBuild, h]; rfl
theorem minn (f : Fields) : Statement (.minn f) :=
  single rfl fun h => by simp only [carugBuild, h]; rfl
theorem max (f : Fields) : Statement (.max f) :=
  single rfl fun h => by simp only [carugBuild, h]; rfl
theorem maxn (f : Fields) : Statement (.maxn f) :=
  single rfl fun h => by simp only [carugBuild, h]; rfl
theorem cmpEq (f : Fields) : Statement (.cmpEq f) :=
  single rfl fun h => by simp only [carugBuild, h]; rfl
theorem cmpNe (f : Fields) : Statement (.cmpNe f) :=
  single rfl fun h => by simp only [carugBuild, h]; rfl
theorem cmpLt (f : Fields) : Statement (.cmpLt f) :=
  single rfl fun h => by simp only [carugBuild, h]; rfl
theorem cmpGe (f : Fields) : Statement (.cmpGe f) :=
  single rfl fun h => by simp only [carugBuild, h]; rfl
theorem cmpLtn (f : Fields) : Statement (.cmpLtn f) :=
  single rfl fun h => by simp only [carugBuild, h]; rfl
theorem cmpGen (f : Fields) : Statement (.cmpGen f) :=
  single rfl fun h => by simp only [carugBuild, h]; rfl
theorem li (f : Fields) (imm : BitVec 40) : Statement (.li f imm) :=
  single rfl fun h => by simp only [carugBuild, h]; rfl
theorem mov (f : Fields) : Statement (.mov f) :=
  single rfl fun h => by simp only [carugBuild, h]; rfl
theorem sel (f : Fields) : Statement (.sel f) :=
  single rfl fun h => by simp only [carugBuild, h]; rfl
theorem clz (f : Fields) : Statement (.clz f) :=
  single rfl fun h => by simp only [carugBuild, h]; rfl
theorem popc (f : Fields) : Statement (.popc f) :=
  single rfl fun h => by simp only [carugBuild, h]; rfl
theorem br (f : Fields) : Statement (.br f) :=
  single rfl fun h => by simp only [carugBuild, h]; rfl
theorem jmpNear (f : Fields) : Statement (.jmpNear f) :=
  single rfl fun h => by simp only [carugBuild, h]; rfl
theorem jmpFar (f : Fields) : Statement (.jmpFar f) :=
  single rfl fun h => by simp only [carugBuild, h]; rfl
theorem jmpReg (f : Fields) : Statement (.jmpReg f) :=
  single rfl fun h => by simp only [carugBuild, h]; rfl
theorem call (f : Fields) : Statement (.call f) :=
  single rfl fun h => by simp only [carugBuild, h]; rfl
theorem ret (f : Fields) : Statement (.ret f) :=
  single rfl fun h => by simp only [carugBuild, h]; rfl
theorem qbr (f : Fields) : Statement (.qbr f) :=
  single rfl fun h => by simp only [carugBuild, h]; rfl
theorem fetchb (f : Fields) : Statement (.fetchb f) :=
  single rfl fun h => by simp only [carugBuild, h]; rfl
theorem land (f : Fields) : Statement (.land f) :=
  single rfl fun h => by simp only [carugBuild, h]; rfl
theorem yield (f : Fields) : Statement (.yield f) :=
  single rfl fun h => by simp only [carugBuild, h]; rfl
theorem nop (f : Fields) : Statement (.nop f) :=
  single rfl fun h => by simp only [carugBuild, h]; rfl
theorem trap (f : Fields) : Statement (.trap f) :=
  single rfl fun h => by simp only [carugBuild, h]; rfl
theorem sleepu (f : Fields) : Statement (.sleepu f) :=
  single rfl fun h => by simp only [carugBuild, h]; rfl
theorem csrr (f : Fields) : Statement (.csrr f) :=
  single rfl fun h => by simp only [carugBuild, h]; rfl
theorem csrw (f : Fields) : Statement (.csrw f) :=
  single rfl fun h => by simp only [carugBuild, h]; rfl
theorem ld (f : Fields) : Statement (.ld f) :=
  single rfl fun h => by simp only [carugBuild, h]; rfl
theorem st (f : Fields) : Statement (.st f) :=
  single rfl fun h => by simp only [carugBuild, h]; rfl
theorem ldsp (f : Fields) : Statement (.ldsp f) := by
  intro op lo hi g h h1 h2
  cases h
  have h : f.fn.toNat = 0 ∨ f.fn.toNat = 1 ∨ f.fn.toNat = 2 ∨ f.fn.toNat = 3 ∨ f.fn.toNat = 4 := by omega
  rcases h with h | h | h | h | h <;> first | omega | (simp only [carugBuild, h]; rfl)
theorem stsp (f : Fields) : Statement (.stsp f) := by
  intro op lo hi g h h1 h2
  cases h
  have h : f.fn.toNat = 0 ∨ f.fn.toNat = 1 ∨ f.fn.toNat = 2 ∨ f.fn.toNat = 3 ∨ f.fn.toNat = 4 := by omega
  rcases h with h | h | h | h | h <;> first | omega | (simp only [carugBuild, h]; rfl)
theorem amoAdd (f : Fields) : Statement (.amoAdd f) :=
  single rfl fun h => by simp only [carugBuild, h]; rfl
theorem amoAnd (f : Fields) : Statement (.amoAnd f) :=
  single rfl fun h => by simp only [carugBuild, h]; rfl
theorem amoOr (f : Fields) : Statement (.amoOr f) :=
  single rfl fun h => by simp only [carugBuild, h]; rfl
theorem amoXor (f : Fields) : Statement (.amoXor f) :=
  single rfl fun h => by simp only [carugBuild, h]; rfl
theorem amoMin (f : Fields) : Statement (.amoMin f) :=
  single rfl fun h => by simp only [carugBuild, h]; rfl
theorem amoMax (f : Fields) : Statement (.amoMax f) :=
  single rfl fun h => by simp only [carugBuild, h]; rfl
theorem amoMinn (f : Fields) : Statement (.amoMinn f) :=
  single rfl fun h => by simp only [carugBuild, h]; rfl
theorem amoMaxn (f : Fields) : Statement (.amoMaxn f) :=
  single rfl fun h => by simp only [carugBuild, h]; rfl
theorem amoSwap (f : Fields) : Statement (.amoSwap f) :=
  single rfl fun h => by simp only [carugBuild, h]; rfl
theorem cas (f : Fields) : Statement (.cas f) :=
  single rfl fun h => by simp only [carugBuild, h]; rfl
theorem famoAddF32 (f : Fields) : Statement (.famoAddF32 f) :=
  single rfl fun h => by simp only [carugBuild, h]; rfl
theorem famoAddBf16 (f : Fields) : Statement (.famoAddBf16 f) :=
  single rfl fun h => by simp only [carugBuild, h]; rfl
theorem famoMinF32 (f : Fields) : Statement (.famoMinF32 f) :=
  single rfl fun h => by simp only [carugBuild, h]; rfl
theorem famoMaxF32 (f : Fields) : Statement (.famoMaxF32 f) :=
  single rfl fun h => by simp only [carugBuild, h]; rfl
theorem fenceFull (f : Fields) : Statement (.fenceFull f) :=
  single rfl fun h => by simp only [carugBuild, h]; rfl
theorem fenceRel (f : Fields) : Statement (.fenceRel f) :=
  single rfl fun h => by simp only [carugBuild, h]; rfl
theorem fenceAcq (f : Fields) : Statement (.fenceAcq f) :=
  single rfl fun h => by simp only [carugBuild, h]; rfl
theorem fenceStrip (f : Fields) : Statement (.fenceStrip f) :=
  single rfl fun h => by simp only [carugBuild, h]; rfl
theorem barArrive (f : Fields) : Statement (.barArrive f) :=
  single rfl fun h => by simp only [carugBuild, h]; rfl
theorem barWait (f : Fields) : Statement (.barWait f) :=
  single rfl fun h => by simp only [carugBuild, h]; rfl
theorem regb (f : Fields) : Statement (.regb f) :=
  single rfl fun h => by simp only [carugBuild, h]; rfl
theorem rege (f : Fields) : Statement (.rege f) :=
  single rfl fun h => by simp only [carugBuild, h]; rfl
theorem hview (f : Fields) : Statement (.hview f) :=
  single rfl fun h => by simp only [carugBuild, h]; rfl
theorem qpush (f : Fields) : Statement (.qpush f) :=
  single rfl fun h => by simp only [carugBuild, h]; rfl
theorem qpop (f : Fields) : Statement (.qpop f) :=
  single rfl fun h => by simp only [carugBuild, h]; rfl
theorem qpeek (f : Fields) : Statement (.qpeek f) :=
  single rfl fun h => by simp only [carugBuild, h]; rfl
theorem tsendLeft (f : Fields) : Statement (.tsendLeft f) :=
  single rfl fun h => by simp only [carugBuild, h]; rfl
theorem tsendRight (f : Fields) : Statement (.tsendRight f) :=
  single rfl fun h => by simp only [carugBuild, h]; rfl
theorem trecv (f : Fields) : Statement (.trecv f) :=
  single rfl fun h => by simp only [carugBuild, h]; rfl
theorem setvl (f : Fields) : Statement (.setvl f) :=
  single rfl fun h => by simp only [carugBuild, h]; rfl
theorem getmvl (f : Fields) : Statement (.getmvl f) :=
  single rfl fun h => by simp only [carugBuild, h]; rfl
theorem rep (f : Fields) : Statement (.rep f) :=
  single rfl fun h => by simp only [carugBuild, h]; rfl
theorem plogicAnd (f : Fields) : Statement (.plogicAnd f) :=
  single rfl fun h => by simp only [carugBuild, h]; rfl
theorem plogicOr (f : Fields) : Statement (.plogicOr f) :=
  single rfl fun h => by simp only [carugBuild, h]; rfl
theorem plogicXor (f : Fields) : Statement (.plogicXor f) :=
  single rfl fun h => by simp only [carugBuild, h]; rfl
theorem plogicAndn (f : Fields) : Statement (.plogicAndn f) :=
  single rfl fun h => by simp only [carugBuild, h]; rfl
theorem plogicNot (f : Fields) : Statement (.plogicNot f) :=
  single rfl fun h => by simp only [carugBuild, h]; rfl
theorem plogicSet (f : Fields) : Statement (.plogicSet f) :=
  single rfl fun h => by simp only [carugBuild, h]; rfl
theorem plogicClear (f : Fields) : Statement (.plogicClear f) :=
  single rfl fun h => by simp only [carugBuild, h]; rfl
theorem pcnt (f : Fields) : Statement (.pcnt f) :=
  single rfl fun h => by simp only [carugBuild, h]; rfl
theorem pfirst (f : Fields) : Statement (.pfirst f) :=
  single rfl fun h => by simp only [carugBuild, h]; rfl
theorem vperm (f : Fields) : Statement (.vperm f) :=
  single rfl fun h => by simp only [carugBuild, h]; rfl
theorem vslideUp (f : Fields) : Statement (.vslideUp f) :=
  single rfl fun h => by simp only [carugBuild, h]; rfl
theorem vslideDown (f : Fields) : Statement (.vslideDown f) :=
  single rfl fun h => by simp only [carugBuild, h]; rfl
theorem vtrans8 (f : Fields) : Statement (.vtrans8 f) :=
  single rfl fun h => by simp only [carugBuild, h]; rfl
theorem vzipZip (f : Fields) : Statement (.vzipZip f) :=
  single rfl fun h => by simp only [carugBuild, h]; rfl
theorem vzipUnzip (f : Fields) : Statement (.vzipUnzip f) :=
  single rfl fun h => by simp only [carugBuild, h]; rfl
theorem vbcast (f : Fields) : Statement (.vbcast f) :=
  single rfl fun h => by simp only [carugBuild, h]; rfl
theorem viota (f : Fields) : Statement (.viota f) :=
  single rfl fun h => by simp only [carugBuild, h]; rfl
theorem vext (f : Fields) : Statement (.vext f) :=
  single rfl fun h => by simp only [carugBuild, h]; rfl
theorem vins (f : Fields) : Statement (.vins f) :=
  single rfl fun h => by simp only [carugBuild, h]; rfl
theorem vadd (f : Fields) : Statement (.vadd f) :=
  single rfl fun h => by simp only [carugBuild, h]; rfl
theorem vsub (f : Fields) : Statement (.vsub f) :=
  single rfl fun h => by simp only [carugBuild, h]; rfl
theorem vmul (f : Fields) : Statement (.vmul f) :=
  single rfl fun h => by simp only [carugBuild, h]; rfl
theorem vfma (f : Fields) : Statement (.vfma f) :=
  single rfl fun h => by simp only [carugBuild, h]; rfl
theorem vdiv (f : Fields) : Statement (.vdiv f) :=
  single rfl fun h => by simp only [carugBuild, h]; rfl
theorem vsqrt (f : Fields) : Statement (.vsqrt f) :=
  single rfl fun h => by simp only [carugBuild, h]; rfl
theorem vmin (f : Fields) : Statement (.vmin f) :=
  single rfl fun h => by simp only [carugBuild, h]; rfl
theorem vmax (f : Fields) : Statement (.vmax f) :=
  single rfl fun h => by simp only [carugBuild, h]; rfl
theorem vabs (f : Fields) : Statement (.vabs f) :=
  single rfl fun h => by simp only [carugBuild, h]; rfl
theorem vneg (f : Fields) : Statement (.vneg f) :=
  single rfl fun h => by simp only [carugBuild, h]; rfl
theorem vand (f : Fields) : Statement (.vand f) :=
  single rfl fun h => by simp only [carugBuild, h]; rfl
theorem vor (f : Fields) : Statement (.vor f) :=
  single rfl fun h => by simp only [carugBuild, h]; rfl
theorem vxor (f : Fields) : Statement (.vxor f) :=
  single rfl fun h => by simp only [carugBuild, h]; rfl
theorem vshl (f : Fields) : Statement (.vshl f) :=
  single rfl fun h => by simp only [carugBuild, h]; rfl
theorem vshrLog (f : Fields) : Statement (.vshrLog f) :=
  single rfl fun h => by simp only [carugBuild, h]; rfl
theorem vshrAri (f : Fields) : Statement (.vshrAri f) :=
  single rfl fun h => by simp only [carugBuild, h]; rfl
theorem vcmpEq (f : Fields) : Statement (.vcmpEq f) :=
  single rfl fun h => by simp only [carugBuild, h]; rfl
theorem vcmpNe (f : Fields) : Statement (.vcmpNe f) :=
  single rfl fun h => by simp only [carugBuild, h]; rfl
theorem vcmpLt (f : Fields) : Statement (.vcmpLt f) :=
  single rfl fun h => by simp only [carugBuild, h]; rfl
theorem vcmpLe (f : Fields) : Statement (.vcmpLe f) :=
  single rfl fun h => by simp only [carugBuild, h]; rfl
theorem vcmpGt (f : Fields) : Statement (.vcmpGt f) :=
  single rfl fun h => by simp only [carugBuild, h]; rfl
theorem vcmpGe (f : Fields) : Statement (.vcmpGe f) :=
  single rfl fun h => by simp only [carugBuild, h]; rfl
theorem vcmpUo (f : Fields) : Statement (.vcmpUo f) :=
  single rfl fun h => by simp only [carugBuild, h]; rfl
theorem vcmpOrd (f : Fields) : Statement (.vcmpOrd f) :=
  single rfl fun h => by simp only [carugBuild, h]; rfl
theorem vsel (f : Fields) : Statement (.vsel f) :=
  single rfl fun h => by simp only [carugBuild, h]; rfl
theorem vmulh (f : Fields) : Statement (.vmulh f) :=
  single rfl fun h => by simp only [carugBuild, h]; rfl
theorem vmadd (f : Fields) : Statement (.vmadd f) :=
  single rfl fun h => by simp only [carugBuild, h]; rfl
theorem vsat (f : Fields) : Statement (.vsat f) :=
  single rfl fun h => by simp only [carugBuild, h]; rfl
theorem vsfnExp2 (f : Fields) : Statement (.vsfnExp2 f) :=
  single rfl fun h => by simp only [carugBuild, h]; rfl
theorem vsfnLog2 (f : Fields) : Statement (.vsfnLog2 f) :=
  single rfl fun h => by simp only [carugBuild, h]; rfl
theorem vsfnRcp (f : Fields) : Statement (.vsfnRcp f) :=
  single rfl fun h => by simp only [carugBuild, h]; rfl
theorem vsfnRsqrt (f : Fields) : Statement (.vsfnRsqrt f) :=
  single rfl fun h => by simp only [carugBuild, h]; rfl
theorem vsfnTanh (f : Fields) : Statement (.vsfnTanh f) :=
  single rfl fun h => by simp only [carugBuild, h]; rfl
theorem vsfnSigmoid (f : Fields) : Statement (.vsfnSigmoid f) :=
  single rfl fun h => by simp only [carugBuild, h]; rfl
theorem vsfnErf (f : Fields) : Statement (.vsfnErf f) :=
  single rfl fun h => by simp only [carugBuild, h]; rfl
theorem vsfnSin (f : Fields) : Statement (.vsfnSin f) :=
  single rfl fun h => by simp only [carugBuild, h]; rfl
theorem vclass (f : Fields) : Statement (.vclass f) :=
  single rfl fun h => by simp only [carugBuild, h]; rfl
theorem vcvtHalve (f : Fields) : Statement (.vcvtHalve f) :=
  single rfl fun h => by simp only [carugBuild, h]; rfl
theorem vcvtDouble (f : Fields) : Statement (.vcvtDouble f) :=
  single rfl fun h => by simp only [carugBuild, h]; rfl
theorem vcvtq (f : Fields) : Statement (.vcvtq f) :=
  single rfl fun h => by simp only [carugBuild, h]; rfl
theorem vbsclRdscale (f : Fields) : Statement (.vbsclRdscale f) :=
  single rfl fun h => by simp only [carugBuild, h]; rfl
theorem vbsclWrscale (f : Fields) : Statement (.vbsclWrscale f) :=
  single rfl fun h => by simp only [carugBuild, h]; rfl
theorem vbsclRdvalid (f : Fields) : Statement (.vbsclRdvalid f) :=
  single rfl fun h => by simp only [carugBuild, h]; rfl
theorem vbsclWrvalid (f : Fields) : Statement (.vbsclWrvalid f) :=
  single rfl fun h => by simp only [carugBuild, h]; rfl
theorem vbsclRdspare (f : Fields) : Statement (.vbsclRdspare f) :=
  single rfl fun h => by simp only [carugBuild, h]; rfl
theorem vbsclWrspare (f : Fields) : Statement (.vbsclWrspare f) :=
  single rfl fun h => by simp only [carugBuild, h]; rfl
theorem vld (f : Fields) : Statement (.vld f) := by
  intro op lo hi g h h1 h2
  cases h
  have h : f.fn.toNat = 0 ∨ f.fn.toNat = 1 ∨ f.fn.toNat = 2 ∨ f.fn.toNat = 3 ∨ f.fn.toNat = 4 := by omega
  rcases h with h | h | h | h | h <;> first | omega | (simp only [carugBuild, h]; rfl)
theorem vst (f : Fields) : Statement (.vst f) := by
  intro op lo hi g h h1 h2
  cases h
  have h : f.fn.toNat = 0 ∨ f.fn.toNat = 1 ∨ f.fn.toNat = 2 ∨ f.fn.toNat = 3 ∨ f.fn.toNat = 4 := by omega
  rcases h with h | h | h | h | h <;> first | omega | (simp only [carugBuild, h]; rfl)
theorem vldx (f : Fields) : Statement (.vldx f) :=
  single rfl fun h => by simp only [carugBuild, h]; rfl
theorem vstx (f : Fields) : Statement (.vstx f) :=
  single rfl fun h => by simp only [carugBuild, h]; rfl
theorem vldff (f : Fields) : Statement (.vldff f) :=
  single rfl fun h => by simp only [carugBuild, h]; rfl
theorem vldb (f : Fields) : Statement (.vldb f) :=
  single rfl fun h => by simp only [carugBuild, h]; rfl
theorem vstb (f : Fields) : Statement (.vstb f) :=
  single rfl fun h => by simp only [carugBuild, h]; rfl
theorem vbind (f : Fields) : Statement (.vbind f) :=
  single rfl fun h => by simp only [carugBuild, h]; rfl
theorem vunbind (f : Fields) : Statement (.vunbind f) :=
  single rfl fun h => by simp only [carugBuild, h]; rfl
theorem mmvCopy (f : Fields) : Statement (.mmvCopy f) :=
  single rfl fun h => by simp only [carugBuild, h]; rfl
theorem mmvAdd (f : Fields) : Statement (.mmvAdd f) :=
  single rfl fun h => by simp only [carugBuild, h]; rfl
theorem mmvMul (f : Fields) : Statement (.mmvMul f) :=
  single rfl fun h => by simp only [carugBuild, h]; rfl
theorem mmvFma (f : Fields) : Statement (.mmvFma f) :=
  single rfl fun h => by simp only [carugBuild, h]; rfl
theorem mmvCvt (f : Fields) : Statement (.mmvCvt f) :=
  single rfl fun h => by simp only [carugBuild, h]; rfl
theorem mmvMax (f : Fields) : Statement (.mmvMax f) :=
  single rfl fun h => by simp only [carugBuild, h]; rfl
theorem mmvMin (f : Fields) : Statement (.mmvMin f) :=
  single rfl fun h => by simp only [carugBuild, h]; rfl
theorem nredAdd (f : Fields) : Statement (.nredAdd f) :=
  single rfl fun h => by simp only [carugBuild, h]; rfl
theorem nredMin (f : Fields) : Statement (.nredMin f) :=
  single rfl fun h => by simp only [carugBuild, h]; rfl
theorem nredMax (f : Fields) : Statement (.nredMax f) :=
  single rfl fun h => by simp only [carugBuild, h]; rfl
theorem nredAnd (f : Fields) : Statement (.nredAnd f) :=
  single rfl fun h => by simp only [carugBuild, h]; rfl
theorem nredOr (f : Fields) : Statement (.nredOr f) :=
  single rfl fun h => by simp only [carugBuild, h]; rfl
theorem nredXor (f : Fields) : Statement (.nredXor f) :=
  single rfl fun h => by simp only [carugBuild, h]; rfl
theorem nscanAdd (f : Fields) : Statement (.nscanAdd f) :=
  single rfl fun h => by simp only [carugBuild, h]; rfl
theorem nscanMin (f : Fields) : Statement (.nscanMin f) :=
  single rfl fun h => by simp only [carugBuild, h]; rfl
theorem nscanMax (f : Fields) : Statement (.nscanMax f) :=
  single rfl fun h => by simp only [carugBuild, h]; rfl
theorem nscanAnd (f : Fields) : Statement (.nscanAnd f) :=
  single rfl fun h => by simp only [carugBuild, h]; rfl
theorem nscanOr (f : Fields) : Statement (.nscanOr f) :=
  single rfl fun h => by simp only [carugBuild, h]; rfl
theorem nscanXor (f : Fields) : Statement (.nscanXor f) :=
  single rfl fun h => by simp only [carugBuild, h]; rfl
theorem npack (f : Fields) : Statement (.npack f) :=
  single rfl fun h => by simp only [carugBuild, h]; rfl
theorem ndist (f : Fields) : Statement (.ndist f) :=
  single rfl fun h => by simp only [carugBuild, h]; rfl
theorem nlen (f : Fields) : Statement (.nlen f) :=
  single rfl fun h => by simp only [carugBuild, h]; rfl
theorem nnest (f : Fields) : Statement (.nnest f) :=
  single rfl fun h => by simp only [carugBuild, h]; rfl
theorem nflat (f : Fields) : Statement (.nflat f) :=
  single rfl fun h => by simp only [carugBuild, h]; rfl
theorem nsort (f : Fields) : Statement (.nsort f) :=
  single rfl fun h => by simp only [carugBuild, h]; rfl
theorem nshld (f : Fields) : Statement (.nshld f) :=
  single rfl fun h => by simp only [carugBuild, h]; rfl
theorem nshst (f : Fields) : Statement (.nshst f) :=
  single rfl fun h => by simp only [carugBuild, h]; rfl
theorem nkrd (f : Fields) : Statement (.nkrd f) :=
  single rfl fun h => by simp only [carugBuild, h]; rfl
theorem nkwr (f : Fields) : Statement (.nkwr f) :=
  single rfl fun h => by simp only [carugBuild, h]; rfl
theorem tshapeCore (f : Fields) : Statement (.tshapeCore f) :=
  single rfl fun h => by simp only [carugBuild, h]; rfl
theorem tshapeFlight (f : Fields) : Statement (.tshapeFlight f) :=
  single rfl fun h => by simp only [carugBuild, h]; rfl
theorem mrec (f : Fields) : Statement (.mrec f) :=
  single rfl fun h => by simp only [carugBuild, h]; rfl
theorem mma (f : Fields) : Statement (.mma f) :=
  single rfl fun h => by simp only [carugBuild, h]; rfl
theorem maccrd (f : Fields) : Statement (.maccrd f) :=
  single rfl fun h => by simp only [carugBuild, h]; rfl
theorem maccwr (f : Fields) : Statement (.maccwr f) :=
  single rfl fun h => by simp only [carugBuild, h]; rfl
theorem macczero (f : Fields) : Statement (.macczero f) :=
  single rfl fun h => by simp only [carugBuild, h]; rfl
theorem mwait (f : Fields) : Statement (.mwait f) :=
  single rfl fun h => by simp only [carugBuild, h]; rfl
theorem epush (f : Fields) : Statement (.epush f) :=
  single rfl fun h => by simp only [carugBuild, h]; rfl
theorem epop (f : Fields) : Statement (.epop f) :=
  single rfl fun h => by simp only [carugBuild, h]; rfl
theorem estat (f : Fields) : Statement (.estat f) :=
  single rfl fun h => by simp only [carugBuild, h]; rfl
theorem spsrch (f : Fields) : Statement (.spsrch f) :=
  single rfl fun h => by simp only [carugBuild, h]; rfl
theorem rcsnap (f : Fields) : Statement (.rcsnap f) :=
  single rfl fun h => by simp only [carugBuild, h]; rfl
theorem rcfenceAll (f : Fields) : Statement (.rcfenceAll f) :=
  single rfl fun h => by simp only [carugBuild, h]; rfl
theorem rcfenceAddr (f : Fields) : Statement (.rcfenceAddr f) :=
  single rfl fun h => by simp only [carugBuild, h]; rfl
theorem kiteBridle (rd rs1 rs2 : BitVec 5) : Statement (.kiteBridle rd rs1 rs2) := absent rfl
theorem kiteFly (rd rs1 rs2 : BitVec 5) : Statement (.kiteFly rd rs1 rs2) := absent rfl
theorem kiteWait (rd rs1 rs2 : BitVec 5) : Statement (.kiteWait rd rs1 rs2) := absent rfl
theorem kiteKill (rd rs1 : BitVec 5) : Statement (.kiteKill rd rs1) := absent rfl
theorem kiteRole (rd rs1 rs2 : BitVec 5) : Statement (.kiteRole rd rs1 rs2) := absent rfl
theorem kiteStat (rd rs1 : BitVec 5) : Statement (.kiteStat rd rs1) := absent rfl
theorem kiteTint (rd rs1 rs2 : BitVec 5) : Statement (.kiteTint rd rs1 rs2) := absent rfl
theorem kiteMvl (rd : BitVec 5) : Statement (.kiteMvl rd) := absent rfl
theorem qPush (q : BitVec 3) (rs1 : BitVec 5) : Statement (.qPush q rs1) := absent rfl
theorem qPop (q : BitVec 3) (rd : BitVec 5) : Statement (.qPop q rd) := absent rfl
theorem qPeek (q : BitVec 3) (rd : BitVec 5) : Statement (.qPeek q rd) := absent rfl
theorem ePush (e : BitVec 3) (rd rs1 : BitVec 5) : Statement (.ePush e rd rs1) := absent rfl
theorem ePop (e : BitVec 3) (rd rs1 : BitVec 5) : Statement (.ePop e rd rs1) := absent rfl
theorem eStat (e : BitVec 3) (rd : BitVec 5) : Statement (.eStat e rd) := absent rfl
theorem reelSleepu (rs1 : BitVec 5) : Statement (.reelSleepu rs1) := absent rfl
theorem cyc (rd : BitVec 5) : Statement (.cyc rd) := absent rfl
theorem hypOpen (rd rs1 : BitVec 5) : Statement (.hypOpen rd rs1) := absent rfl
theorem hypFix (rd rs1 : BitVec 5) : Statement (.hypFix rd rs1) := absent rfl
theorem hypBleach (rd rs1 : BitVec 5) : Statement (.hypBleach rd rs1) := absent rfl
theorem hypStat (rd rs1 : BitVec 5) : Statement (.hypStat rd rs1) := absent rfl
theorem hypEnter (rd rs1 : BitVec 5) : Statement (.hypEnter rd rs1) := absent rfl
theorem fbarArrive (rd rs1 rs2 : BitVec 5) : Statement (.fbarArrive rd rs1 rs2) := absent rfl
theorem fbarWait (rd rs1 rs2 : BitVec 5) : Statement (.fbarWait rd rs1 rs2) := absent rfl
theorem errPop (rd rs1 : BitVec 5) : Statement (.errPop rd rs1) := absent rfl
theorem slotAdmit (rd rs1 rs2 : BitVec 5) : Statement (.slotAdmit rd rs1 rs2) := absent rfl
theorem slotRetire (rd rs1 : BitVec 5) : Statement (.slotRetire rd rs1) := absent rfl
theorem gpRd (rd rs1 : BitVec 5) : Statement (.gpRd rd rs1) := absent rfl
theorem ascentDone : Statement (.ascentDone) := absent rfl
theorem uevRet (rd rs1 : BitVec 5) : Statement (.uevRet rd rs1) := absent rfl
theorem riscVInstruction (i : Rv) : Statement (.riscVInstruction i) := absent rfl
theorem blockFillEnd : Statement (.blockFillEnd) := absent rfl
theorem waitConditionClear : Statement (.waitConditionClear) := absent rfl
theorem drainComplete : Statement (.drainComplete) := absent rfl
theorem sleepExpiry : Statement (.sleepExpiry) := absent rfl
theorem kiteWaitDeadline : Statement (.kiteWaitDeadline) := absent rfl
theorem queueStall : Statement (.queueStall) := absent rfl
theorem arrivalMarker : Statement (.arrivalMarker) := absent rfl
theorem writePathDrain : Statement (.writePathDrain) := absent rfl
theorem fix : Statement (.fix) := absent rfl
theorem bleach : Statement (.bleach) := absent rfl
theorem tintFree : Statement (.tintFree) := absent rfl
theorem lin : Statement (.lin) := absent rfl
theorem tens : Statement (.tens) := absent rfl
theorem rows : Statement (.rows) := absent rfl
theorem samp : Statement (.samp) := absent rfl
theorem gath : Statement (.gath) := absent rfl
theorem scat : Statement (.scat) := absent rfl
theorem page : Statement (.page) := absent rfl
theorem cancel : Statement (.cancel) := absent rfl
theorem commandComplete : Statement (.commandComplete) := absent rfl
theorem arrivalCounterIncrement : Statement (.arrivalCounterIncrement) := absent rfl
theorem promiseMissed : Statement (.promiseMissed) := absent rfl
theorem mcastTimeout : Statement (.mcastTimeout) := absent rfl
theorem bankReservationLimit : Statement (.bankReservationLimit) := absent rfl
theorem userEventTake : Statement (.userEventTake) := absent rfl
theorem notifyWrite : Statement (.notifyWrite) := absent rfl
theorem queueDescriptorWrite : Statement (.queueDescriptorWrite) := absent rfl
theorem abort : Statement (.abort) := absent rfl
theorem contextEntryWrite : Statement (.contextEntryWrite) := absent rfl
theorem devnum : Statement (.devnum) := absent rfl
theorem tlbinvAll : Statement (.tlbinvAll) := absent rfl
theorem tlbinvAsid : Statement (.tlbinvAsid) := absent rfl
theorem tlbinvAsidGen : Statement (.tlbinvAsidGen) := absent rfl
theorem tlbinvPages : Statement (.tlbinvPages) := absent rfl
theorem tlbinvSpans : Statement (.tlbinvSpans) := absent rfl
theorem invalidationComplete : Statement (.invalidationComplete) := absent rfl
theorem pageRequest : Statement (.pageRequest) := absent rfl
theorem resident : Statement (.resident) := absent rfl
theorem denied : Statement (.denied) := absent rfl
theorem noFrame : Statement (.noFrame) := absent rfl
theorem loadFw : Statement (.loadFw) := absent rfl
theorem attest : Statement (.attest) := absent rfl
theorem cert : Statement (.cert) := absent rfl
theorem replayCtl : Statement (.replayCtl) := absent rfl
theorem replayRead : Statement (.replayRead) := absent rfl
theorem registerWrite : Statement (.registerWrite) := absent rfl
theorem hostBarAccess : Statement (.hostBarAccess) := absent rfl
theorem hostAtomicop : Statement (.hostAtomicop) := absent rfl
theorem queueBind : Statement (.queueBind) := absent rfl
theorem quantumEnd : Statement (.quantumEnd) := absent rfl
theorem recordTake : Statement (.recordTake) := absent rfl
theorem recordStart : Statement (.recordStart) := absent rfl
theorem graphNodeStart : Statement (.graphNodeStart) := absent rfl
theorem flightPlacement : Statement (.flightPlacement) := absent rfl
theorem switchOut : Statement (.switchOut) := absent rfl
theorem switchOutComplete : Statement (.switchOutComplete) := absent rfl
theorem abandonment : Statement (.abandonment) := absent rfl
theorem resumption : Statement (.resumption) := absent rfl
theorem crewEnd : Statement (.crewEnd) := absent rfl
theorem slotPageDrain : Statement (.slotPageDrain) := absent rfl
theorem uncorrectableError : Statement (.uncorrectableError) := absent rfl
theorem correctedError : Statement (.correctedError) := absent rfl
theorem portTrained : Statement (.portTrained) := absent rfl
theorem portDown : Statement (.portDown) := absent rfl
theorem moduleReset : Statement (.moduleReset) := absent rfl
theorem bringupReady : Statement (.bringupReady) := absent rfl
theorem throttle : Statement (.throttle) := absent rfl
theorem thermalStop : Statement (.thermalStop) := absent rfl
theorem thermalRecovery : Statement (.thermalRecovery) := absent rfl
theorem peerAccess : Statement (.peerAccess) := absent rfl
theorem atomicopCompletion : Statement (.atomicopCompletion) := absent rfl
theorem lostRead : Statement (.lostRead) := absent rfl
theorem kBlock : Statement (.kBlock) := absent rfl
theorem vectorInstructionComplete : Statement (.vectorInstructionComplete) := absent rfl

end Sys2Proof.Laws.Rebuild
end

