-- ==== Sys2Proof/Laws/Perform.lean ====
section
/-!
SUPPORT. Laws of the write path and of what an access does to the module's memory: what drains and performs keeps
the canonical form, and what only looks up, reserves, buffers or translates leaves memory as it is.
-/
namespace Sys2Proof.Machine

/-! ## Repetition -/

/-- A property that every step of a repetition keeps is kept by it. -/
theorem iter_keeps {σ : Type} {p : σ → Prop} {f : Nat → σ → σ} (h : ∀ i s, p s → p (f i s)) (n : Nat) {s : σ}
    (hs : p s) : p (iter n f s) := by
  unfold iter
  generalize List.range n = l
  induction l generalizing s with
  | nil => exact hs
  | cons i l ih => exact ih (h i s hs)

theorem foldl_keeps {σ α : Type} {p : σ → Prop} {f : σ → α → σ} (h : ∀ s a, p s → p (f s a)) (l : List α) {s : σ}
    (hs : p s) : p (l.foldl f s) := by
  induction l generalizing s with
  | nil => exact hs
  | cons a l ih => exact ih (h s a hs)

theorem foldl_mem {α : Type} {f : State → α → State} (h : ∀ s a, (f s a).mem = s.mem) (l : List α) (s : State) :
    (l.foldl f s).mem = s.mem := by
  induction l generalizing s with
  | nil => rfl
  | cons a l ih => rw [List.foldl_cons, ih, h]

/-! ## What leaves memory as it is -/

@[simp] theorem requestPage_mem (s : State) (ctx core agent va kind : Nat) (span : Bool) :
    (requestPage s ctx core agent va kind span).1.mem = s.mem := by
  unfold requestPage
  split <;> rfl

theorem lookup_mem {s t : State} {core va : Nat} {x : Context} {e : TlbEntry} (h : lookup s core x va = .ok (e, t)) :
    t.mem = s.mem := by
  unfold lookup at h
  simp only at h
  split at h
  · cases h; rfl
  · split at h
    · cases h
    · cases h; rfl

/-- A walk reads tables and fills the caches of translations. -/
theorem pageXlat_mem {s t : State} {core ctx va : Nat} {acc : XAcc} {who : XWho} {x : Xlat}
    (h : pageXlat s core ctx va acc who = .ok (x, t)) : t.mem = s.mem := by
  unfold pageXlat at h
  split at h
  · cases h
  · rename_i hl
    split at h
    · cases h
    · split at h
      · cases h
      · cases h
        exact lookup_mem hl

/-- A translation leaves memory as it is. -/
theorem translate_mem {s t : State} {core ctx va : Nat} {acc : XAcc} {who : XWho} {x : Xlat}
    (h : translate s core ctx va acc who = .ok (x, t)) : t.mem = s.mem := by
  unfold translate at h
  split at h
  · cases h
  · split at h
    · split at h
      · cases h
      · cases h; rfl
    · exact pageXlat_mem h

/-- A reservation adds versions only. -/
theorem reserve_mem {ctx view : Nat} {ls : List Nat} {s t : State} (h : reserve s ctx view ls = .ok t) :
    t.mem = s.mem := by
  induction ls generalizing s with
  | nil => cases h; rfl
  | cons l ls ih =>
    simp only [reserve] at h
    split at h
    · cases h; rfl
    · split at h
      · exact ih h
      · split at h
        · cases h
        · split at h
          · cases h
          · exact (ih h).trans rfl

@[simp] theorem enterStore_mem (s : State) (core : Nat) (e : WpStore) : (enterStore s core e).mem = s.mem := rfl

/-- A store enters the write path and reaches its home later (R302). -/
@[simp] theorem storeBytes_mem (s : State) (core ctx view : Nat) (rel : Option Nat) (reel : Bool) (ws : List WByte) :
    (storeBytes s core ctx view rel reel ws).mem = s.mem := by
  unfold storeBytes
  generalize byLine ws = l
  induction l generalizing s rel with
  | nil => rfl
  | cons g l ih => rw [List.foldl_cons, ih]; rfl

@[simp] theorem guestEnsure_mem (s : State) (die line : Nat) (q : Acq) : (guestEnsure s die line q).mem = s.mem := by
  unfold guestEnsure
  generalize (if onModule (128 * line) = true then q.dev else q.sys) = stamp
  simp only
  split
  · split <;> rfl
  · rfl

@[simp] theorem guestRefresh_mem (s : State) (die line : Nat) : (guestRefresh s die line).mem = s.mem := rfl
@[simp] theorem guestStore_mem (s : State) (die : Nat) (bs : List WByte) : (guestStore s die bs).mem = s.mem := rfl

@[simp] theorem guestDrop_mem (s : State) (die i : Nat) : (guestDrop s die i).mem = s.mem := by
  unfold guestDrop
  split
  · rfl
  · split <;> rfl

@[simp] theorem drainToDie_mem (s : State) (core i : Nat) : (drainToDie s core i).mem = s.mem := by
  simp only [drainToDie]
  split
  · rfl
  · split
    · rfl
    · split
      · rfl
      · simp

@[simp] theorem acquireCore_mem (s : State) (core scope : Nat) : (acquireCore s core scope).mem = s.mem := by
  unfold acquireCore
  split <;> rfl

@[simp] theorem spRelease_mem (s : State) (core space scope : Nat) (ls : List Nat) :
    (spRelease s core space scope ls).mem = s.mem := rfl

/-- A vector store that performs enters the write path, or reaches a bank. -/
@[simp] theorem performPend_mem (s : State) (c : Nat) (p : PendStore) : (performPend s c p).mem = s.mem := by
  unfold performPend
  split
  · simp
  · simp only
    split <;> simp

@[simp] theorem flushPend_mem (s : State) (c k : Nat) : (flushPend s c k).mem = s.mem :=
  foldl_mem (fun s p => performPend_mem s c p) _ s

@[simp] theorem closeStrip_mem (s : State) (c k : Nat) : (closeStrip s c k).mem = s.mem := flushPend_mem s c k

/-! ## What reaches memory -/

/-- A byte that performs at its home is committed, or enters a version. -/
theorem storeByteAtHome_memOk {s : State} (h : s.memOk) (ctx view : Nat) (w : WByte) :
    (storeByteAtHome s ctx view w).memOk := by
  unfold storeByteAtHome
  split
  · exact commit_memOk h _ _
  · exact h

/-- A tinted store leaves the committed bytes alone (R282). -/
theorem storeByteAtHome_mem {view : Nat} (h : view ≠ 0) (s : State) (ctx : Nat) (w : WByte) :
    (storeByteAtHome s ctx view w).mem = s.mem := by
  unfold storeByteAtHome
  rw [if_neg h]

theorem performAtHome_memOk {s : State} (h : s.memOk) (core : Nat) (e : WpStore) : (performAtHome s core e).memOk := by
  unfold performAtHome
  simp only
  split
  · exact h
  · have hk : (e.bytes.foldl (fun s' w => storeByteAtHome s' e.ctx ((s.ctx e.ctx).resolve e.view) w) s).memOk :=
      foldl_keeps (p := State.memOk) (fun s' w hs => storeByteAtHome_memOk hs _ _ w) _ h
    split <;> exact hk

theorem drainEntry_memOk {s : State} (h : s.memOk) (core i : Nat) : (drainEntry s core i).memOk := by
  unfold drainEntry
  split
  · exact h
  · apply performAtHome_memOk
    show Memory.wf (drainToDie s core i).mem = true
    rw [drainToDie_mem]
    exact h

theorem drainSome_memOk (p : WpStore → Bool) (core n : Nat) :
    ∀ (i : Nat) {s : State}, s.memOk → (drainSome p s core n i).memOk := by
  induction n with
  | zero => exact fun _ _ h => h
  | succ n ih =>
    intro i s h
    simp only [drainSome]
    split
    · exact ih _ (drainEntry_memOk h core i)
    · exact ih _ h

theorem drainAll_memOk {s : State} (h : s.memOk) (core : Nat) : (drainAll s core).memOk :=
  drainSome_memOk _ core _ _ h

theorem drainDie_memOk {s : State} (h : s.memOk) (core : Nat) : (drainDie s core).memOk :=
  iter_keeps (p := State.memOk) (fun i s hs => by
    show Memory.wf (drainToDie s core i).mem = true
    rw [drainToDie_mem]
    exact hs) _ h

theorem drainNear_memOk {s : State} (h : s.memOk) (core : Nat) : (drainNear s core).memOk :=
  drainSome_memOk _ core _ _ h

/-- A release performs buffered stores, and nothing else reaches memory (R306). -/
theorem release_memOk {s : State} (h : s.memOk) (core scope : Nat) : (release s core scope).1.memOk := by
  unfold release
  split
  · exact h
  · simp only
    split
    · exact drainNear_memOk (drainDie_memOk h core) core
    · exact drainAll_memOk h core

theorem drainOwn_memOk {s : State} (h : s.memOk) (core line : Nat) : (drainOwn s core line).memOk :=
  drainSome_memOk _ core _ _ h

theorem drainAt_memOk {s : State} (h : s.memOk) (core n : Nat) : (drainAt s core n).memOk := by
  unfold drainAt
  split
  · split
    · exact drainEntry_memOk h core _
    · exact h
  · exact h

theorem drainGuest_memOk {s : State} (h : s.memOk) (die line : Nat) : (drainGuest s die line).memOk :=
  foldl_keeps (p := State.memOk) (fun _ e hs => drainAt_memOk hs e.1 e.2.atDie) _ h

/-- What clears a line on its way to the home performs buffered stores, and nothing else reaches memory. -/
theorem clearLine_memOk {s : State} (h : s.memOk) (core line : Nat) : (clearLine s core line).memOk :=
  drainOwn_memOk (drainGuest_memOk h _ _) core line

theorem clearLines_memOk {s : State} (h : s.memOk) (core : Nat) (ls : List Nat) : (clearLines s core ls).memOk :=
  foldl_keeps (p := State.memOk) (fun _ l hs => clearLine_memOk hs core l) _ h

theorem drainHalf_memOk {s : State} (h : s.memOk) (core : Nat) (ls : List Nat) : (drainHalf s core ls).memOk :=
  clearLines_memOk h core _

/-- A load may force the stores of its line to their home, and fills caches. -/
theorem loadLine_memOk {s : State} (h : s.memOk) (core ctx view : Nat) (q : Acq) (x : Xlat) (n rd : Nat) (reel : Bool) :
    (loadLine s core ctx view q x n rd reel).2.memOk := by
  unfold loadLine
  simp only
  have hd : (drainHalf s core [lineOf x.a]).memOk := drainHalf_memOk h core _
  generalize drainHalf s core [lineOf x.a] = u at hd
  have hg : (if isGuest u.module (dieOf core) x.cl x.a = true then guestEnsure u (dieOf core) (lineOf x.a) q
      else u).memOk := by
    split
    · show Memory.wf (guestEnsure u _ _ _).mem = true
      rw [guestEnsure_mem]
      exact hd
    · exact hd
  split
  · exact hd
  · split <;> exact hg

end Sys2Proof.Machine
end

