-- ==== Sys2Proof/Laws/Reel.lean ====
section
/-!
SUPPORT. Laws of the operations on a reel, of the taking of a trap and of an exception, and of the events of a
crew: each as one change of the state.
-/
namespace Sys2Proof.Machine

variable {s : State} {c k : Nat}

/-! ## The frame of the reel's instructions -/

/-- In its turn the reel's instruction is its body. -/
theorem reelRun_of_turns (h : ReelTurns s c) (body : State → Nat → Reel → State) :
    reelRun s body = body s c (s.reelOf c) := by
  simp [reelRun, h.turn, h.crew, h.going]

/-- In the turn of a kite it does nothing. -/
theorem reelRun_of_kite (h : s.cur = .kite c k) (body : State → Nat → Reel → State) : reelRun s body = s := by
  simp [reelRun, h]

/-- In a crew that is ending, or where there is none, it does nothing. -/
theorem reelRun_of_ending (h : s.cur = .reel c) (he : s.hasCrew c = false ∨ (s.crew c).ending = true)
    (body : State → Nat → Reel → State) : reelRun s body = s := by
  rcases he with he | he <;> simp [reelRun, h, he]

/-! ## Registers of the reel -/

@[simp] theorem Reel.xget_zero (r : Reel) : r.xget 0 = 0 := rfl

theorem Reel.xget_xset (r : Reel) (i j : Nat) (v : Word) :
    (r.xset i v).xget j = if j = i ∧ i ≠ 0 then v else r.xget j := by
  unfold Reel.xset Reel.xget
  by_cases hi : i = 0
  · simp [hi]
  · by_cases hj : j = i
    · simp [hj, hi]
    · simp [hi, hj, Tab.get_set_ne _ _ hj]

@[simp] theorem Reel.xset_pc (r : Reel) (i : Nat) (v : Word) : (r.xset i v).pc = r.pc := by
  unfold Reel.xset; split <;> rfl

/-- A write of a register changes the registers only. -/
theorem Reel.xset_eq (r : Reel) (i : Nat) (v : Word) : r.xset i v = { r with x := (r.xset i v).x } := by
  unfold Reel.xset; split <;> rfl

/-- An instruction that writes rd and falls through, as one change of the reel. -/
theorem reelWrite_eq (s : State) (c : Nat) (rd : BitVec 5) (v : Word) :
    reelWrite s c rd v = s.modReel c fun r => { r.xset rd.toNat v with pc := wrap64 (r.pc + 4), wait := .none } := by
  simp only [reelWrite, reelNext, reelJump, State.modReel_modReel, State.reelOf_modReel_self, Reel.xset_pc]
  apply State.modReel_congr
  rfl

@[simp] theorem reelJump_mem (s : State) (c pc : Nat) : (reelJump s c pc).mem = s.mem := rfl
@[simp] theorem reelNext_mem (s : State) (c : Nat) : (reelNext s c).mem = s.mem := rfl
@[simp] theorem reelWrite_mem (s : State) (c : Nat) (rd : BitVec 5) (v : Word) : (reelWrite s c rd v).mem = s.mem := rfl
@[simp] theorem reelWait_mem (s : State) (c : Nat) (w : WaitOn) : (reelWait s c w).mem = s.mem := rfl

/-- A wait that has begun keeps its start. -/
theorem reelWait_again {w : WaitOn} (h : (s.reelOf c).wait = w) : reelWait s c w = s.modReel c id := by
  unfold reelWait
  apply State.modReel_congr
  simp [h]

/-- The first execution of a waiting instruction notes what it waits for, and when. -/
theorem reelWait_first {w : WaitOn} (h : (s.reelOf c).wait ≠ w) :
    reelWait s c w = s.modReel c fun r => { r with wait := w, since := s.cycle c } := by
  unfold reelWait
  apply State.modReel_congr
  simp [h]

/-! ## Exceptions of the reel -/

/-- From user mode of a crew without SMODE an exception goes to the handler of user events (R368). -/
theorem reelRaise_user {code : Nat} {v : Word} (hs : (s.reelOf c).sup = false) (hm : (s.crew c).smode = false)
    (ha : (s.reelOf c).uevAct = false) (hu : (s.reelOf c).uev ≠ 0) :
    reelRaise s c code v = s.modReel c fun r => r.takeEvent { cause := 0x40 + code, va := v, agent := 16 } := by
  unfold State.reelOf at hs ha hu
  simp [reelRaise, hs, hm, ha, hu]

/-- Where the handler is at work, or there is none, it ends the crew (R368). -/
theorem reelRaise_ends {code : Nat} {v : Word} (hs : (s.reelOf c).sup = false) (hm : (s.crew c).smode = false)
    (h : (s.reelOf c).uevAct = true ∨ (s.reelOf c).uev = 0) :
    reelRaise s c code v = startEnd s c (some (0x40 + code)) := by
  unfold State.reelOf at hs h
  rcases h with h | h <;> simp [reelRaise, hs, hm, h]

/-- With SMODE an exception from user mode enters supervisor mode (R369). -/
theorem reelRaise_smode {code : Nat} {v : Word} (hs : (s.reelOf c).sup = false) (hm : (s.crew c).smode = true) :
    reelRaise s c code v = s.modReel c fun r => r.enterSup code v := by
  unfold State.reelOf at hs
  simp [reelRaise, hs, hm]

/-- From supervisor mode it does so too, where stvec gives a handler; a call of the environment does not (R369). -/
theorem reelRaise_sup {code : Nat} {v : Word} (hs : (s.reelOf c).sup = true) (hc : code ≠ 9)
    (ht : (s.reelOf c).stvec.toNat / 4 ≠ 0) : reelRaise s c code v = s.modReel c fun r => r.enterSup code v := by
  unfold State.reelOf at hs ht
  simp [reelRaise, hs, hc, ht]

/-! ## Traps of a kite -/

/-- A kite as a trap outside a region leaves it (R291, R363 to R365). -/
def Kite.trapped (x : Kite) (t : Trap) (resume : Resume) : Kite :=
  { x with faultva := t.va, faultelt := t.elt, st := .parked, cause := t.cause, wait := .none, repRun := false
           mmRun := false, resume := resume, req := none }

/-- Outside a region a trap parks the kite and posts its event, and does nothing else. -/
theorem trapKite_eq {t : Trap} {r : Resume} {q : Option Nat} (h : (s.kite c k).region = none) :
    trapKite s c k t r q = postEvent (s.modKite c k fun x => x.trapped t r) c
      { cause := t.cause, va := t.va, agent := k, park := true } := by
  have hr : (((setFault s c k t).kite c k)).region = none := by simp [setFault, h]
  have ht : trapKite s c k t r q = park (setFault s c k t) c k t.cause t.va r := by simp only [trapKite, hr]
  rw [ht]
  simp only [park, setFault, State.modKite_modKite]
  rfl

/-- A late trap of a kite that is FLYING or WAITING, is not rewinding and stands in the midst of no instruction, is a trap
at its first instruction not yet issued (R364). -/
theorem lateTrap_live {t : Trap} {q : Option Nat} (h : (s.kite c k).st = .flying ∨ (s.kite c k).st = .waiting)
    (hw : (s.kite c k).wait ≠ .rewind) (hm : (s.kite c k).midway = false) :
    lateTrap s c k t q = trapKite s c k t (s.kite c k).keeps q := by
  rcases h with h | h <;> simp [lateTrap, h, hw, hm]

/-- In the midst of one it is kept until that is over. -/
theorem lateTrap_midway {t : Trap} {q : Option Nat} (h : (s.kite c k).st = .flying ∨ (s.kite c k).st = .waiting)
    (hw : (s.kite c k).wait ≠ .rewind) (hm : (s.kite c k).midway = true) :
    lateTrap s c k t q = s.modKite c k fun x =>
      { x with late := x.late ++ [{ cause := t.cause, va := t.va, elt := t.elt, req := q }] } := by
  rcases h with h | h <;> simp [lateTrap, h, hw, hm]

@[simp] theorem postEvent_mem (s : State) (c : Nat) (e : Event) : (postEvent s c e).mem = s.mem := rfl
@[simp] theorem setFault_mem (s : State) (c k : Nat) (t : Trap) : (setFault s c k t).mem = s.mem := rfl
@[simp] theorem waitKite_mem (s : State) (c k : Nat) (w : WaitOn) : (waitKite s c k w).mem = s.mem := rfl
@[simp] theorem moveTo_mem (s : State) (c k : Nat) (p : Nat × Nat) : (moveTo s c k p).mem = s.mem := rfl
@[simp] theorem bleachStart_mem (s : State) (n t : Nat) : (bleachStart s n t).mem = s.mem := rfl
@[simp] theorem bleachFinish_mem (s : State) (n : Nat) : (bleachFinish s n).mem = s.mem := rfl

@[simp] theorem park_mem (s : State) (c k cause : Nat) (va : Word) (r : Resume) : (park s c k cause va r).mem = s.mem := rfl
@[simp] theorem dropFix_mem (s : State) (c k : Nat) : (dropFix s c k).mem = s.mem := rfl
@[simp] theorem bleachNow_mem (s : State) (n t : Nat) : (bleachNow s n t).mem = s.mem := rfl

/-- The bleach of a region's tint touches no byte of the module: tinted bytes are not in its memory (R286). -/
@[simp] theorem bleachRegion_mem (s : State) (c k t : Nat) : (bleachRegion s c k t).mem = s.mem := by
  simp only [bleachRegion]
  split
  · split <;> simp
  · split <;> rfl

@[simp] theorem retryRegion_mem (s : State) (c k : Nat) : (retryRegion s c k).mem = s.mem := rfl

/-- No rewind touches the memory of the module. -/
@[simp] theorem endRewind_mem (s : State) (c k : Nat) : (endRewind s c k).mem = s.mem := by
  simp only [endRewind]
  split <;> split <;> (try split) <;> rfl

@[simp] theorem trapRegion_mem (s : State) (c k cause tint : Nat) (q : Option Nat) :
    (trapRegion s c k cause tint q).mem = s.mem := by
  simp only [trapRegion]
  split
  · exact bleachRegion_mem ..
  · simp

/-- No trap touches the memory of the module. -/
@[simp] theorem trapKite_mem (s : State) (c k : Nat) (t : Trap) (r : Resume) (q : Option Nat) :
    (trapKite s c k t r q).mem = s.mem := by
  simp only [trapKite]
  split <;> simp

@[simp] theorem lateTrap_mem (s : State) (c k : Nat) (t : Trap) (q : Option Nat) : (lateTrap s c k t q).mem = s.mem := by
  simp only [lateTrap]
  split
  · split <;> simp
  · simp

@[simp] theorem advance_mem (s : State) (c k : Nat) : (advance s c k).mem = s.mem := by
  unfold advance
  split <;> simp

/-! ## A step -/

/-- An event of the machine that is next runs with its arguments. -/
theorem turn_event (ready : State → Nat → Nat → Accepts) {i : Instr} {a : EvArgs} {ms : List Move}
    (h : s.moves = .event i a :: ms) (hi : isEvent i = true) :
    turn ready s = ({ s with moves := ms, ev := a }, some i) := by
  simp [turn, h, hi]

/-- With no move a tick passes. -/
theorem turn_nil (ready : State → Nat → Nat → Accepts) (h : s.moves = []) : turn ready s = (tick s, none) := by
  simp [turn, h]

theorem step_of_turn {t : State} {i : Instr} (h : turn (acceptsBy exec) s = (t, some i)) : step s = exec i t := by
  simp [step, h]

theorem step_of_turn_none {t : State} (h : turn (acceptsBy exec) s = (t, none)) : step s = .next t := by
  simp [step, h]

end Sys2Proof.Machine
end

