-- ==== Sys2Proof/Laws/Vector.lean ====
section
/-!
SUPPORT. Laws of the instructions of the vector queue: one equation for each way that they are taken.
-/
namespace Sys2Proof.Machine

variable {i : Instr} {s : State} {c k op a b : Nat} {f : Fields}

/-- With no bound source nothing is decoded. -/
theorem decodeAll_plain (s : State) (c k : Nat) (ctx : VCtx) (rs : List Nat)
    (h : ∀ r ∈ rs, (s.kite c k).binds.find r = none) : decodeAll s c k ctx rs = .ok ([], s) := by
  induction rs with
  | nil => rfl
  | cons r rs ih =>
    simp only [decodeAll, h r (by simp)]
    exact ih fun r' hr => h r' (by simp [hr])

/-- An instruction of the vector queue that is taken at once: its body, then its end. -/
theorem vecIssue_taken (h : VecIssues i op f s c k)
    (body : State → VCtx → Except KFail (State × Nat)) :
    vecIssue s c k (s.kite c k) op f body =
      match body s ((s.kite c k).capture f) with
      | .error e => (e.undo c k (s.kite c k)).res
      | .ok (s', g) => .done (s'.modKite c k fun y => y.vecDone op f g) := by
  have hr := h.room
  simp only [vecIssue, if_neg (Nat.not_le.mpr hr), h.ahead, h.taken, h.moves, Bool.or_false, Bool.false_eq_true,
    if_false, decodeAll_plain s c k _ _ h.plain, takeDecoded, List.foldl_nil, Nat.zero_or]
  rfl

/-- An instruction that only touches the kite. -/
theorem runVec_taken (h : VecIssues i op f s c k) (hp : carugParts i = some (op, a, b, f)) (g : VBody) :
    runVec i op f g s = .next (retire (s.modKite c k fun x =>
      (g x f (x.capture f)).1.vecDone op f (g x f (x.capture f)).2) c k f.yld) := by
  simp only [runVec, issue_of_issues h.toIssues hp, vecIssue_taken h, Res.ends_done, State.modKite_modKite]
  congr 2

/-- An instruction that accesses memory and meets no fault and no wait. -/
theorem runVecMem_taken {s' : State} {fl : Nat} (h : VecIssues i op f s c k)
    (hp : carugParts i = some (op, a, b, f))
    {g : State → Nat → Nat → VCtx → Except KFail (State × Nat)}
    (hg : g s c k ((s.kite c k).capture f) = .ok (s', fl)) :
    runVecMem i op f g s = .next (retire (s'.modKite c k fun x => x.vecDone op f fl) c k f.yld) := by
  simp only [runVecMem, issue_of_issues h.toIssues hp, vecIssue_taken h, hg, Res.ends_done]

/-- An instruction that accesses memory and faults. -/
theorem runVecMem_trap {s' : State} {t : Trap} {q : Option Nat} (h : VecIssues i op f s c k)
    (hp : carugParts i = some (op, a, b, f))
    {g : State → Nat → Nat → VCtx → Except KFail (State × Nat)}
    (hg : g s c k ((s.kite c k).capture f) = .error (.trap s' t q)) :
    runVecMem i op f g s = .next (trapKite (s'.modKite c k fun y =>
      { y with v := (s.kite c k).v, binds := (s.kite c k).binds }) c k t .here q) := by
  simp only [runVecMem, issue_of_issues h.toIssues hp, vecIssue_taken h, hg]
  rfl

/-- With no free entry the kite is not ready (R123). -/
theorem runVec_full (h : Issues i s c k) (hp : carugParts i = some (op, a, b, f)) (g : VBody)
    (hv : 8 ≤ (s.kite c k).vq.length) : runVec i op f g s = .next s := by
  simp only [runVec, issue_of_issues h hp, vecIssue, if_pos hv, Res.ends_notReady]

end Sys2Proof.Machine
end

