-- ==== Sys2Proof/Tests/Slice0.lean ====
section
/-!
SUPPORT. Tests: words of the encoding, terms that are not well formed, a state that meets what each statement
assumes, and results of single steps.
-/
namespace Sys2Proof.Tests
open Sys2Proof.Machine

set_option Elab.async false

/-! ## Words (R24 to R41)

One word for each Carug constructor: the words of the manual's tables of worked words (Tables 2-8, 3-10, 4-11 and the
like) where it gives one, and otherwise words assembled after Table 2-1, with OP and FN of Tables 2-4 and 2-5. -/

/-- Whether words of kites decode to what is listed with them, and those encode to the words. -/
def kiteWords (l : List (Nat × Instr)) : Bool :=
  l.all fun e => decodeKite (BitVec.ofNat 96 e.1) == some e.2 && encodeKite e.2 == some (BitVec.ofNat 96 e.1)

def wordsIntegers1 : List (Nat × Instr) := [
    (0x010000001180010800110000, .add { a := .s 3, b := .s 1, c := .s 2 }),
    (0x020000001F8001F000CFFFF0, .sub { a := .s 31, b := .s 30, c := .simm 65535 }),
    (0x030000001200012800D00FF0, .and { a := .s 4, b := .s 5, c := .uimm 255 }),
    (0x040000001300013800140000, .or { a := .s 6, b := .s 7, c := .s 8 }),
    (0x050000001480015000C7FFF0, .xor { a := .s 9, b := .s 10, c := .simm 32767 }),
    (0x060000001080011000D003F0, .shl { a := .s 1, b := .s 2, c := .uimm 63 }),
    (0x070000001180012000128000, .shr { a := .s 3, b := .s 4, c := .s 5 }),
    (0x080000001300013800D00010, .sra { a := .s 6, b := .s 7, c := .uimm 1 }),
    (0x090000001400014800150000, .mul { a := .s 8, b := .s 9, c := .s 10 }),
    (0x0A0000001580016000168000, .mulhS { a := .s 11, b := .s 12, c := .s 13 }),
    (0x0A1000001700017800180000, .mulhN { fn := 1, a := .s 14, b := .s 15, c := .s 16 }),
    (0x0A2000001880019000198000, .mulhSn { fn := 2, a := .s 17, b := .s 18, c := .s 19 }),
    (0x0B0000001A0001A8001B0000, .divS { a := .s 20, b := .s 21, c := .s 22 }),
    (0x0B1000001B8001C0001C8000, .divN { fn := 1, a := .s 23, b := .s 24, c := .s 25 }),
    (0x0B2000001D0001D8001E0000, .remS { fn := 2, a := .s 26, b := .s 27, c := .s 28 }),
    (0x0B3000001E8001F0001F8000, .remN { fn := 3, a := .s 29, b := .s 30, c := .s 31 })]

theorem test_words_of_integers_1 : kiteWords wordsIntegers1 = true := by decide +kernel

def wordsIntegers2 : List (Nat × Instr) := [
    (0x0C0000001C0001A800C00040, .min { a := .s 24, b := .s 21, c := .simm 4 }),
    (0x0C1000001080011000118000, .minn { fn := 1, a := .s 1, b := .s 2, c := .s 3 }),
    (0x0C2000001200012800DFFFF0, .max { fn := 2, a := .s 4, b := .s 5, c := .uimm 65535 }),
    (0x0C3000101300013800140000, .maxn { fn := 3, yld := true, a := .s 6, b := .s 7, c := .s 8 }),
    (0x0D000000308001E000C00000, .cmpEq { a := .p 1, b := .s 28, c := .simm 0 }),
    (0x0D1000003780010800110000, .cmpNe { fn := 1, a := .p 15, b := .s 1, c := .s 2 }),
    (0x0D2000003100011800C80000, .cmpLt { fn := 2, a := .p 2, b := .s 3, c := .simm 32768 }),
    (0x0D3000003180012000128000, .cmpGe { fn := 3, a := .p 3, b := .s 4, c := .s 5 }),
    (0x0D4000003200013000D00090, .cmpLtn { fn := 4, a := .p 4, b := .s 6, c := .uimm 9 }),
    (0x0D5000003280013800140000, .cmpGen { fn := 5, a := .p 5, b := .s 7, c := .s 8 }),
    (0x0E00000014800FFFFFFFFFE0, .li { a := .s 9 } (-2)),
    (0x0F0000001080011000000000, .mov { a := .s 1, b := .s 2 }),
    (0x0F1000001080011000118000, .sel { fn := 1, a := .s 1, b := .s 2, c := .s 3 }),
    (0x0F2000001200012800000000, .clz { fn := 2, a := .s 4, b := .s 5 }),
    (0x0F3000001300013800000000, .popc { fn := 3, a := .s 6, b := .s 7 })]

theorem test_words_of_integers_2 : kiteWords wordsIntegers2 = true := by decide +kernel

def wordsControl : List (Nat × Instr) := [
    (0x1000000012800D0003000000, .br { a := .s 5, b := .uimm 3 }),
    (0x1100000000000D001F000000, .jmpNear { b := .uimm 31 }),
    (0x1110000000000D0000000000, .jmpFar { fn := 1, b := .uimm 0 }),
    (0x112000000000018800000000, .jmpReg { fn := 2, b := .s 17 }),
    (0x120000001080011000000000, .call { a := .s 1, b := .s 2 }),
    (0x130000001080000000000000, .ret { a := .s 1 }),
    (0x1400000063800D000C000000, .qbr { a := .q 7, b := .uimm 12 }),
    (0x15000000D0001C0006000000, .fetchb { a := .uimm 1, b := .simm 6 }),
    (0x160000000000000000000000, .land {}),
    (0x170000000000000000000000, .yield {}),
    (0x180000000000000000000000, .nop {}),
    (0x19000000D000700000000000, .trap { a := .uimm 7 }),
    (0x1A0000001280000000000000, .sleepu { a := .s 5 }),
    (0x1B00000010800B0001000000, .csrr { a := .s 1, b := .csr 1 }),
    (0x1C000000B001111000000000, .csrw { a := .csr 17, b := .s 2 })]

theorem test_words_of_control : kiteWords wordsControl = true := by decide +kernel

def wordsMemory1 : List (Nat × Instr) := [
    (0x2003000813800E2010000000, .ld { ty := 3, rd := 2, a := .s 7, b := .mem 4 16 }),
    (0x21030000E201013800000000, .st { ty := 3, a := .mem 4 16, b := .s 7 }),
    (0x2245000012000E2FF8000000, .ldsp { fn := 4, ty := 5, a := .s 4, b := .mem 5 2040 }),
    (0x23300000E33FF13800000000, .stsp { fn := 3, a := .mem 6 1023, b := .s 7 }),
    (0x2403000012800E4800D00031, .amoAdd { ty := 3, xf := 1, a := .s 5, b := .mem 9 0, c := .uimm 3 }),
    (0x2416000012800E4800D00000, .amoAnd { fn := 1, ty := 6, a := .s 5, b := .mem 9 0, c := .uimm 0 }),
    (0x2422000012800E4804D00112, .amoOr { fn := 2, ty := 2, xf := 2, a := .s 5, b := .mem 9 4, c := .uimm 17 }),
    (0x2437000012800E4808D00223, .amoXor { fn := 3, ty := 7, xf := 3, a := .s 5, b := .mem 9 8, c := .uimm 34 }),
    (0x2442000012800E4800D00000, .amoMin { fn := 4, ty := 2, a := .s 5, b := .mem 9 0, c := .uimm 0 }),
    (0x2453000013000E4800D00000, .amoMax { fn := 5, ty := 3, a := .s 6, b := .mem 9 0, c := .uimm 0 }),
    (0x2466000013800E4800D00000, .amoMinn { fn := 6, ty := 6, a := .s 7, b := .mem 9 0, c := .uimm 0 }),
    (0x2477000014000E4800D00000, .amoMaxn { fn := 7, ty := 7, a := .s 8, b := .mem 9 0, c := .uimm 0 }),
    (0x2483000014800E4800D00043, .amoSwap { fn := 8, ty := 3, xf := 3, a := .s 9, b := .mem 9 0, c := .uimm 4 }),
    (0x2507000011000E27F8D00043, .cas { ty := 7, xf := 3, a := .s 2, b := .mem 4 2040, c := .uimm 4 }),
    (0x260D000013000E5040D00100, .famoAddF32 { ty := 13, a := .s 6, b := .mem 10 64, c := .uimm 16 }),
    (0x261B000013000E5040D00000, .famoAddBf16 { fn := 1, ty := 11, a := .s 6, b := .mem 10 64, c := .uimm 0 })]

theorem test_words_of_memory_1 : kiteWords wordsMemory1 = true := by decide +kernel

def wordsMemory2 : List (Nat × Instr) := [
    (0x262D000013800E5040D00030, .famoMinF32 { fn := 2, ty := 13, a := .s 7, b := .mem 10 64, c := .uimm 3 }),
    (0x263D000014000E5040D00300, .famoMaxF32 { fn := 3, ty := 13, a := .s 8, b := .mem 10 64, c := .uimm 48 }),
    (0x27000000D000400000000000, .fenceFull { a := .uimm 4 }),
    (0x27100000D000100000000000, .fenceRel { fn := 1, a := .uimm 1 }),
    (0x27200000D000300000000000, .fenceAcq { fn := 2, a := .uimm 3 }),
    (0x273000000000000000000000, .fenceStrip { fn := 3 }),
    (0x28000000D0003D0001000000, .barArrive { a := .uimm 3, b := .uimm 1 }),
    (0x29000000D0001D0001000000, .barWait { a := .uimm 1, b := .uimm 1 }),
    (0x2A0000001180000000000000, .regb { a := .s 3 }),
    (0x2B0020000000000000000000, .rege { gp := 2 }),
    (0x2C0000001200014800000000, .hview { a := .s 4, b := .s 9 })]

theorem test_words_of_memory_2 : kiteWords wordsMemory2 = true := by decide +kernel

def wordsQueues : List (Nat × Instr) := [
    (0x300000006180015000000000, .qpush { a := .q 3, b := .s 10 }),
    (0x310000001380061000000000, .qpop { a := .s 7, b := .q 2 }),
    (0x320000001380061000348000, .qpeek { a := .s 7, b := .q 2, c := .p 9 }),
    (0x3300000000000CFFFB000000, .tsendLeft { b := .simm 65531 }),
    (0x331000000000012800000000, .tsendRight { fn := 1, b := .s 5 }),
    (0x340000001300070000000000, .trecv { a := .s 6, b := .t 0 })]

theorem test_words_of_queues : kiteWords wordsQueues = true := by decide +kernel

def wordsPermutes1 : List (Nat × Instr) := [
    (0x400200001280013000000000, .setvl { ty := 2, a := .s 5, b := .s 6 }),
    (0x410800001280000000000000, .getmvl { ty := 8, a := .s 5 }),
    (0x42000000D000411000C00400, .rep { a := .uimm 4, b := .s 2, c := .simm 64 }),
    (0x430000003080031000318000, .plogicAnd { a := .p 1, b := .p 2, c := .p 3 }),
    (0x431E00003080031000318000, .plogicOr { fn := 1, ty := 14, a := .p 1, b := .p 2, c := .p 3 }),
    (0x432600003080031000318000, .plogicXor { fn := 2, ty := 6, a := .p 1, b := .p 2, c := .p 3 }),
    (0x433200003200032800330000, .plogicAndn { fn := 3, ty := 2, a := .p 4, b := .p 5, c := .p 6 }),
    (0x434B00003380034000000000, .plogicNot { fn := 4, ty := 11, a := .p 7, b := .p 8 }),
    (0x435100003480000000000000, .plogicSet { fn := 5, ty := 1, a := .p 9 }),
    (0x436104003500000000000000, .plogicClear { fn := 6, ty := 1, dt := true, a := .p 10 }),
    (0x440D00001080031000000000, .pcnt { ty := 13, a := .s 1, b := .p 2 }),
    (0x450400001180032000000000, .pfirst { ty := 4, a := .s 3, b := .p 4 }),
    (0x460000002080021000218000, .vperm { a := .v 1, b := .v 2, c := .v 3 }),
    (0x470000002080021000118000, .vslideUp { a := .v 1, b := .v 2, c := .s 3 }),
    (0x471D20002180022000D00010, .vslideDown { fn := 1, ty := 13, gp := 2, a := .v 3, b := .v 4, c := .uimm 1 }),
    (0x48030000240002C000000000, .vtrans8 { ty := 3, a := .v 8, b := .v 24 })]

theorem test_words_of_permutes_1 : kiteWords wordsPermutes1 = true := by decide +kernel

def wordsPermutes2 : List (Nat × Instr) := [
    (0x490C00002200020800210000, .vzipZip { ty := 12, a := .v 4, b := .v 1, c := .v 2 }),
    (0x491100002300024000248000, .vzipUnzip { fn := 1, ty := 1, a := .v 6, b := .v 8, c := .v 9 }),
    (0x4A0D00002080021000D00030, .vbcast { ty := 13, a := .v 1, b := .v 2, c := .uimm 3 }),
    (0x4B0200002280000000000000, .viota { ty := 2, a := .v 5 }),
    (0x4C0100001200022800D00090, .vext { ty := 1, a := .s 4, b := .v 5, c := .uimm 9 }),
    (0x4D0100002280012000D00090, .vins { ty := 1, a := .v 5, b := .s 4, c := .uimm 9 })]

theorem test_words_of_permutes_2 : kiteWords wordsPermutes2 = true := by decide +kernel

def wordsArithmetic1 : List (Nat × Instr) := [
    (0x500230012080021000218000, .vadd { ty := 2, gp := 3, lst := true, a := .v 1, b := .v 2, c := .v 3 }),
    (0x510E00602200022800130000, .vsub { ty := 14, rm := 3, a := .v 4, b := .v 5, c := .s 6 }),
    (0x520400002380024000D00030, .vmul { ty := 4, a := .v 7, b := .v 8, c := .uimm 3 }),
    (0x530D00002080021000218001, .vfma { ty := 13, xf := 1, a := .v 1, b := .v 2, c := .v 3 }),
    (0x540B00202080021000218000, .vdiv { ty := 11, rm := 1, a := .v 1, b := .v 2, c := .v 3 }),
    (0x550C00802080021000000000, .vsqrt { ty := 12, rm := 4, a := .v 1, b := .v 2 }),
    (0x560000002080021000CFFF90, .vmin { a := .v 1, b := .v 2, c := .simm 65529 }),
    (0x570D00002080021000218000, .vmax { ty := 13, a := .v 1, b := .v 2, c := .v 3 }),
    (0x580900002200022800000000, .vabs { ty := 9, a := .v 4, b := .v 5 }),
    (0x590A00002300023800000000, .vneg { ty := 10, a := .v 6, b := .v 7 }),
    (0x5A0700002080021000218000, .vand { ty := 7, a := .v 1, b := .v 2, c := .v 3 }),
    (0x5B0000002080021000218000, .vor { a := .v 1, b := .v 2, c := .v 3 }),
    (0x5C0100002080021000118000, .vxor { ty := 1, a := .v 1, b := .v 2, c := .s 3 }),
    (0x5D0100002080021000D000F0, .vshl { ty := 1, a := .v 1, b := .v 2, c := .uimm 15 }),
    (0x5E0600002080021000118000, .vshrLog { ty := 6, a := .v 1, b := .v 2, c := .s 3 }),
    (0x5E1300002080021000D003F0, .vshrAri { fn := 1, ty := 3, a := .v 1, b := .v 2, c := .uimm 63 })]

theorem test_words_of_arithmetic_1 : kiteWords wordsArithmetic1 = true := by decide +kernel

def wordsArithmetic2 : List (Nat × Instr) := [
    (0x5F0000003080021000218000, .vcmpEq { a := .p 1, b := .v 2, c := .v 3 }),
    (0x5F1400003100021800D00040, .vcmpNe { fn := 1, ty := 4, a := .p 2, b := .v 3, c := .uimm 4 }),
    (0x5F2C00003180022000148000, .vcmpLt { fn := 2, ty := 12, a := .p 3, b := .v 4, c := .s 9 }),
    (0x5F3900003200022800230000, .vcmpLe { fn := 3, ty := 9, a := .p 4, b := .v 5, c := .v 6 }),
    (0x5F450000310002A800C00010, .vcmpGt { fn := 4, ty := 5, a := .p 2, b := .v 21, c := .simm 1 }),
    (0x5F5E00003300023800240000, .vcmpGe { fn := 5, ty := 14, a := .p 6, b := .v 7, c := .v 8 }),
    (0x5F6D00003380024000248000, .vcmpUo { fn := 6, ty := 13, a := .p 7, b := .v 8, c := .v 9 }),
    (0x5F7B00003400024800250000, .vcmpOrd { fn := 7, ty := 11, a := .p 8, b := .v 9, c := .v 10 })]

theorem test_words_of_arithmetic_2 : kiteWords wordsArithmetic2 = true := by decide +kernel

def wordsConversions1 : List (Nat × Instr) := [
    (0x600000002080021000218000, .vsel { a := .v 1, b := .v 2, c := .v 3 }),
    (0x610200002080021000218000, .vmulh { ty := 2, a := .v 1, b := .v 2, c := .v 3 }),
    (0x620100002080021000218000, .vmadd { ty := 1, a := .v 1, b := .v 2, c := .v 3 }),
    (0x630200002080021000D00080, .vsat { ty := 2, a := .v 1, b := .v 2, c := .uimm 8 }),
    (0x640D00022280023000000000, .vsfnExp2 { ty := 13, chn := true, a := .v 5, b := .v 6 }),
    (0x641C00002280023000000000, .vsfnLog2 { fn := 1, ty := 12, a := .v 5, b := .v 6 }),
    (0x642B00202280023000000000, .vsfnRcp { fn := 2, ty := 11, rm := 1, a := .v 5, b := .v 6 }),
    (0x643D00402280023000000000, .vsfnRsqrt { fn := 3, ty := 13, rm := 2, a := .v 5, b := .v 6 }),
    (0x644D00002280023000000000, .vsfnTanh { fn := 4, ty := 13, a := .v 5, b := .v 6 }),
    (0x645D00002280023000000000, .vsfnSigmoid { fn := 5, ty := 13, a := .v 5, b := .v 6 }),
    (0x646D00002280023000000000, .vsfnErf { fn := 6, ty := 13, a := .v 5, b := .v 6 }),
    (0x647D00002280023000000000, .vsfnSin { fn := 7, ty := 13, a := .v 5, b := .v 6 }),
    (0x650D00003080021000D03FF0, .vclass { ty := 13, a := .p 1, b := .v 2, c := .uimm 1023 }),
    (0x66095C20230002380000000D, .vcvtHalve { ty := 9, gp := 5, gn := true, dt := true, rm := 1, xf := 13, a := .v 6, b := .v 7 }),
    (0x661200002300023800000001, .vcvtDouble { fn := 1, ty := 2, xf := 1, a := .v 6, b := .v 7 }),
    (0x670800002800024000000001, .vcvtq { ty := 8, xf := 1, a := .v 16, b := .v 8 })]

theorem test_words_of_conversions_1 : kiteWords wordsConversions1 = true := by decide +kernel

def wordsConversions2 : List (Nat × Instr) := [
    (0x680800002A0002A800000000, .vbsclRdscale { ty := 8, a := .v 20, b := .v 21 }),
    (0x681800002A0002A800000000, .vbsclWrscale { fn := 1, ty := 8, a := .v 20, b := .v 21 }),
    (0x682D0000318002A800000000, .vbsclRdvalid { fn := 2, ty := 13, a := .p 3, b := .v 21 }),
    (0x683D00002A00031800000000, .vbsclWrvalid { fn := 3, ty := 13, a := .v 20, b := .p 3 }),
    (0x684800002A0002A800000000, .vbsclRdspare { fn := 4, ty := 8, a := .v 20, b := .v 21 }),
    (0x685800002A0002A800000000, .vbsclWrspare { fn := 5, ty := 8, a := .v 20, b := .v 21 })]

theorem test_words_of_conversions_2 : kiteWords wordsConversions2 = true := by decide +kernel

def wordsVectorMemory : List (Nat × Instr) := [
    (0x700D000422000E4040000000, .vld { ty := 13, rd := 1, a := .v 4, b := .mem 8 64 }),
    (0x71213000E17E023800150000, .vst { fn := 2, ty := 1, gp := 3, a := .mem 2 2016, b := .v 7, c := .s 10 }),
    (0x7202000021000E2000218002, .vldx { ty := 2, xf := 2, a := .v 2, b := .mem 4 0, c := .v 3 }),
    (0x73020000E200021000218001, .vstx { ty := 2, xf := 1, a := .mem 4 0, b := .v 2, c := .v 3 }),
    (0x740B000024800E2800320000, .vldff { ty := 11, a := .v 9, b := .mem 5 0, c := .p 4 }),
    (0x750800002A000E3000138001, .vldb { ty := 8, xf := 1, a := .v 20, b := .mem 6 0, c := .s 7 }),
    (0x76080000E30002A000138008, .vstb { ty := 8, xf := 8, a := .mem 6 0, b := .v 20, c := .s 7 }),
    (0x770E000024800E2808C0002D, .vbind { ty := 14, xf := 13, a := .v 9, b := .mem 5 8, c := .simm 2 }),
    (0x780000002480000000000000, .vunbind { a := .v 9 }),
    (0x79000000E1000E1800150000, .mmvCopy { a := .mem 2 0, b := .mem 3 0, c := .s 10 }),
    (0x791D0000E1000E1800150000, .mmvAdd { fn := 1, ty := 13, a := .mem 2 0, b := .mem 3 0, c := .s 10 }),
    (0x79230000E1000E1800150000, .mmvMul { fn := 2, ty := 3, a := .mem 2 0, b := .mem 3 0, c := .s 10 }),
    (0x793D0000E1000E1800150000, .mmvFma { fn := 3, ty := 13, a := .mem 2 0, b := .mem 3 0, c := .s 10 }),
    (0x794C0020E1000E180015000D, .mmvCvt { fn := 4, ty := 12, rm := 1, xf := 13, a := .mem 2 0, b := .mem 3 0, c := .s 10 }),
    (0x795B0000E1000E1800150000, .mmvMax { fn := 5, ty := 11, a := .mem 2 0, b := .mem 3 0, c := .s 10 }),
    (0x79650000E1000E1800150000, .mmvMin { fn := 6, ty := 5, a := .mem 2 0, b := .mem 3 0, c := .s 10 })]

theorem test_words_of_vector_memory : kiteWords wordsVectorMemory = true := by decide +kernel

def wordsNested1 : List (Nat × Instr) := [
    (0x800201002200022800408000, .nredAdd { ty := 2, dp := 1, a := .v 4, b := .v 5, c := .h 1 }),
    (0x801D00002200022800000000, .nredMin { fn := 1, ty := 13, a := .v 4, b := .v 5 }),
    (0x802102002500025800410000, .nredMax { fn := 2, ty := 1, dp := 2, a := .v 10, b := .v 11, c := .h 2 }),
    (0x803403002500025800418000, .nredAnd { fn := 3, ty := 4, dp := 3, a := .v 10, b := .v 11, c := .h 3 }),
    (0x804300002500025800400000, .nredOr { fn := 4, ty := 3, a := .v 10, b := .v 11, c := .h 0 }),
    (0x805200002500025800000000, .nredXor { fn := 5, ty := 2, a := .v 10, b := .v 11 }),
    (0x810D01002300023800000001, .nscanAdd { ty := 13, dp := 1, xf := 1, a := .v 6, b := .v 7 }),
    (0x811002002300023800000000, .nscanMin { fn := 1, dp := 2, a := .v 6, b := .v 7 }),
    (0x812E03002300023800000000, .nscanMax { fn := 2, ty := 14, dp := 3, a := .v 6, b := .v 7 }),
    (0x813500002300023800000000, .nscanAnd { fn := 3, ty := 5, a := .v 6, b := .v 7 }),
    (0x814600002300023800000001, .nscanOr { fn := 4, ty := 6, xf := 1, a := .v 6, b := .v 7 }),
    (0x815700002300023800000000, .nscanXor { fn := 5, ty := 7, a := .v 6, b := .v 7 }),
    (0x820C20002180022000408000, .npack { ty := 12, gp := 2, a := .v 3, b := .v 4, c := .h 1 }),
    (0x830201002380023000400000, .ndist { ty := 2, dp := 1, a := .v 7, b := .v 6, c := .h 0 }),
    (0x840602002380040800410000, .nlen { ty := 6, dp := 2, a := .v 7, b := .h 1, c := .h 2 }),
    (0x850200004080021000418000, .nnest { ty := 2, a := .h 1, b := .v 2, c := .h 3 })]

theorem test_words_of_nested_1 : kiteWords wordsNested1 = true := by decide +kernel

def wordsNested2 : List (Nat × Instr) := [
    (0x860200002080020800400000, .nflat { ty := 2, a := .v 1, b := .v 1, c := .h 0 }),
    (0x870D01002600026800270001, .nsort { ty := 13, dp := 1, xf := 1, a := .v 12, b := .v 13, c := .v 14 }),
    (0x8802000040000E4000130000, .nshld { ty := 2, a := .h 0, b := .mem 8 0, c := .s 6 }),
    (0x89000000EA02840000000000, .nshst { a := .mem 20 40, b := .h 0 }),
    (0x8A0000001480050800D00010, .nkrd { a := .s 9, b := .k 1, c := .uimm 1 }),
    (0x8B0000005100014800D00000, .nkwr { a := .k 2, b := .s 9, c := .uimm 0 })]

theorem test_words_of_nested_2 : kiteWords wordsNested2 = true := by decide +kernel

def wordsUnits : List (Nat × Instr) := [
    (0x900D00001280080000130001, .tshapeCore { ty := 13, xf := 1, a := .s 5, b := .a 0, c := .s 6 }),
    (0x901200001280081800130000, .tshapeFlight { fn := 1, ty := 2, a := .s 5, b := .a 3, c := .s 6 }),
    (0x9100000091000E4000148000, .mrec { a := .m 2, b := .mem 8 0, c := .s 9 }),
    (0x920C10048100092000928005, .mma { ty := 12, gp := 1, rd := 1, xf := 5, a := .a 2, b := .m 4, c := .m 5 }),
    (0x930B00002400080800118000, .maccrd { ty := 11, a := .v 8, b := .a 1, c := .s 3 }),
    (0x940D00008000020800D00000, .maccwr { ty := 13, a := .a 0, b := .v 1, c := .uimm 0 }),
    (0x950000008180000000000000, .macczero { a := .a 3 }),
    (0x960000008000000000000000, .mwait { a := .a 0 }),
    (0x9800200012800A0000140000, .epush { gp := 2, a := .s 5, b := .e 0, c := .s 8 }),
    (0x9900000016000A0800000000, .epop { a := .s 12, b := .e 1 }),
    (0x9A00000011800A1000000000, .estat { a := .s 3, b := .e 2 }),
    (0x9B0D01002200023000248001, .spsrch { ty := 13, dp := 1, xf := 1, a := .v 4, b := .v 6, c := .v 9 }),
    (0x9C0000002A00000000000000, .rcsnap { a := .v 20 }),
    (0x9D0000000000000000000000, .rcfenceAll {}),
    (0x9D100000E384000000000000, .rcfenceAddr { fn := 1, a := .mem 7 64 })]

theorem test_words_of_units : kiteWords wordsUnits = true := by decide +kernel

/-- The instructions of those words. -/
def samples : List Instr := (wordsIntegers1 ++ wordsIntegers2 ++ wordsControl ++ wordsMemory1 ++ wordsMemory2 ++
  wordsQueues ++ wordsPermutes1 ++ wordsPermutes2 ++ wordsArithmetic1 ++ wordsArithmetic2 ++
  wordsConversions1 ++ wordsConversions2 ++ wordsVectorMemory ++ wordsNested1 ++ wordsNested2 ++ wordsUnits).map (·.2)

/-- The other worked words of the manual (sections 2 to 24) are legal, and each is the word of what it decodes to. -/
theorem test_words_of_the_manual : ([
    0x670800002A00024000000001, 0x920800008000090000908002, 0x2C00000012000D0005000000,
    0x200400001D800EA029000000, 0x100000001A800D0006000000, 0x0E0000001300000000800100,
    0x9100000091000EA020148000, 0x920C00008000090000920002, 0x920C00008000090800928001,
    0x930C00002100080000D00400, 0x0E0000001700004000400000, 0x21030000EA00811000000000,
    0x9D100000EA00000000000000, 0x9800000012800A0000140000, 0x990000001C000A0000000000,
    0x71250000EB0002A000C00080, 0x800501002A8002A800000000, 0x500D100024800248001C0000,
    0x0E0000001400000020100010, 0x2A0000000000000000000000, 0x2B0000000000000000000000,
    0x2C0000001480011000000000, 0x1000000030800D001D000000] : List Nat).all (fun w => (decodeKite (BitVec.ofNat 96 w)).bind encodeKite == some (BitVec.ofNat 96 w)) = true := by
  decide +kernel

/-- Whether words of the reel decode to what is listed with them, and those encode to the words. -/
def reelWords (l : List (Nat × Instr)) : Bool :=
  l.all fun e => decodeReel (BitVec.ofNat 32 e.1) == some e.2 && encodeReel e.2 == some (BitVec.ofNat 32 e.1)

/-- The Xcarug words (Tables 2-6, 2-7). -/
theorem test_words_of_xcarug : reelWords [
    (0x0031008B, .kiteBridle 1 2 3), (0x0073128B, .kiteFly 5 6 7), (0x00A4A40B, .kiteWait 8 9 10),
    (0x0006358B, .kiteKill 11 12), (0x00F7468B, .kiteRole 13 14 15), (0x0008D80B, .kiteStat 16 17),
    (0x0149E90B, .kiteTint 18 19 20), (0x00007A8B, .kiteMvl 21), (0x0605002B, .qPush 3 10),
    (0x040013AB, .qPop 2 7), (0x0E0024AB, .qPeek 7 9), (0x040231AB, .ePush 2 3 4),
    (0x020342AB, .ePop 1 5 6), (0x000053AB, .eStat 0 7), (0x0004602B, .reelSleepu 8),
    (0x000072AB, .cyc 5), (0x000100DB, .hypOpen 1 2), (0x000211DB, .hypFix 3 4),
    (0x000322DB, .hypBleach 5 6), (0x000433DB, .hypStat 7 8), (0x000544DB, .hypEnter 9 10),
    (0x003100FB, .fbarArrive 1 2 3), (0x0062927B, .fbarWait 4 5 6), (0x000423FB, .errPop 7 8),
    (0x00B534FB, .slotAdmit 9 10 11), (0x0006C67B, .slotRetire 12 13), (0x0007D77B, .gpRd 14 15),
    (0x0000607B, .ascentDone), (0x0008F87B, .uevRet 16 17)] = true := by
  decide +kernel

/-- Words of RV64IMA and of supervisor mode, from the RISC-V specifications that R2 names. -/
theorem test_words_of_risc_v : reelWords (([
    (0x123452B7, .lui 5 0x12345), (0x00001317, .auipc 6 1), (0x008000EF, .jal 1 4),
    (0xFFDFF06F, .jal 0 (-2)), (0x00008067, .jalr 0 1 0), (0x00208463, .branch .beq 1 2 4),
    (0xFE209CE3, .branch .bne 1 2 (-4)), (0x0041C863, .branch .blt 3 4 8), (0x0041D863, .branch .bge 3 4 8),
    (0x0041E863, .branch .bltu 3 4 8), (0x0041F863, .branch .bgeu 3 4 8), (0x00813283, .load .d 5 2 8),
    (0x00034283, .load .bu 5 6 0), (0x00513423, .store .d 2 5 8), (0xFE742E23, .store .w 8 7 (-4)),
    (0xFFF10093, .opImm .addi 1 2 (-1)), (0x03F11093, .shImm .sll 1 2 63), (0x40115093, .shImm .sra 1 2 1),
    (0x0000809B, .addiw 1 1 0), (0x41F1509B, .shImmW .sra 1 2 31), (0x402081B3, .op .sub 3 1 2),
    (0x022081B3, .op .mul 3 1 2), (0x0220F1B3, .op .remu 3 1 2), (0x002081BB, .opW .addw 3 1 2),
    (0x0220F1BB, .opW .remuw 3 1 2), (0x0330000F, .fence 0 3 3 0 0), (0x0000100F, .fenceI 0 0 0),
    (0x00000073, .ecall), (0x00100073, .ebreak), (0x10200073, .sret),
    (0x10500073, .wfi), (0x12000073, .sfenceVma 0 0), (0x100312F3, .csr .rw false 5 6 0x100),
    (0x10017073, .csr .rc true 0 2 0x100), (0x100332AF, .lr true false false 5 6), (0x1A7322AF, .sc false false true 5 6 7),
    (0x067332AF, .amo .add true true true 5 6 7)] :
    List (Nat × Rv)).map fun e => (e.1, .riscVInstruction e.2)) = true := by decide +kernel

/-! ## Terms that are not well formed (R27, R30, R31)

Each differs from a legal term in the one thing that its check refuses. -/

/-- Whether the first of two terms is well formed and the second is not. -/
def onlyFirst (l : List (Instr × Instr)) : Bool := l.all fun e => legalInstr e.1 && !legalInstr e.2

/-- FN outside the operation, TY, DP, RM, XF outside their sets, DT, RD, CHN, LST where the entry has none, GN with p0. -/
theorem test_fields_are_checked : onlyFirst [
    (.add { a := .s 1, b := .s 2, c := .s 3 }, .add { fn := 1, a := .s 1, b := .s 2, c := .s 3 }),
    (.mulhN { fn := 1, a := .s 1, b := .s 2, c := .s 3 }, .mulhN { fn := 0, a := .s 1, b := .s 2, c := .s 3 }),
    (.ld { ty := 7, a := .s 1, b := .mem 2 0 }, .ld { ty := 8, a := .s 1, b := .mem 2 0 }),
    (.vperm { ty := 7, a := .v 1, b := .v 2, c := .v 3 }, .vperm { ty := 8, a := .v 1, b := .v 2, c := .v 3 }),
    (.nlen { ty := 2, dp := 1, a := .v 1, b := .h 0 }, .nlen { ty := 2, dp := 0, a := .v 1, b := .h 0 }),
    (.vadd { ty := 13, rm := 7, a := .v 1, b := .v 2, c := .v 3 }, .vadd { ty := 13, rm := 6, a := .v 1, b := .v 2, c := .v 3 }),
    (.vadd { ty := 2, a := .v 1, b := .v 2, c := .v 3 }, .vadd { ty := 2, rm := 1, a := .v 1, b := .v 2, c := .v 3 }),
    (.vcvtq { ty := 8, xf := 1, a := .v 1, b := .v 8 }, .vcvtq { ty := 8, xf := 2, a := .v 1, b := .v 8 }),
    (.vcvtDouble { fn := 1, ty := 13, xf := 12, a := .v 1, b := .v 2 }, .vcvtDouble { fn := 1, ty := 13, xf := 14, a := .v 1, b := .v 2 }),
    (.vadd { dt := true, a := .v 1, b := .v 2, c := .v 3 }, .vext { dt := true, a := .s 1, b := .v 2, c := .s 3 }),
    (.ld { rd := 3, a := .s 1, b := .mem 2 0 }, .ldsp { fn := 1, rd := 1, a := .s 1, b := .mem 2 0 }),
    (.vadd { chn := true, a := .v 1, b := .v 2, c := .v 3 }, .viota { chn := true, a := .v 1 }),
    (.maccwr { ty := 2, lst := true, a := .a 0, b := .v 1, c := .s 2 }, .maccwr { ty := 2, chn := true, a := .a 0, b := .v 1, c := .s 2 }),
    (.vadd { lst := true, a := .v 1, b := .v 2, c := .v 3 }, .plogicAnd { lst := true, a := .p 1, b := .p 2, c := .p 3 }),
    (.nop { gp := 1, gn := true }, .nop { gn := true })] = true := by decide +kernel

/-- The classes of A, B and C, their index limits and steps, and p0 as a destination. -/
theorem test_operands_are_checked : onlyFirst [
    (.add { a := .s 1, b := .s 2, c := .s 3 }, .add { a := .v 1, b := .s 2, c := .s 3 }),
    (.add { a := .s 1, b := .s 2, c := .s 3 }, .add { a := .s 1, b := .uimm 2, c := .s 3 }),
    (.mulhS { a := .s 1, b := .s 2, c := .s 3 }, .mulhS { a := .s 1, b := .s 2, c := .simm 3 }),
    (.nop {}, .nop { a := .s 1 }),
    (.cmpEq { a := .p 1, b := .s 2, c := .s 3 }, .cmpEq { a := .p 0, b := .s 2, c := .s 3 }),
    (.shl { a := .s 1, b := .s 2, c := .uimm 63 }, .shl { a := .s 1, b := .s 2, c := .uimm 64 }),
    (.jmpNear { b := .uimm 31 }, .jmpNear { b := .uimm 32 }),
    (.vtrans8 { a := .v 24, b := .v 8 }, .vtrans8 { a := .v 20, b := .v 8 }),
    (.vzipZip { a := .v 30, b := .v 1, c := .v 2 }, .vzipZip { a := .v 31, b := .v 1, c := .v 2 }),
    (.cas { ty := 2, a := .s 30, b := .mem 1 0, c := .uimm 0 }, .cas { ty := 2, a := .s 31, b := .mem 1 0, c := .uimm 0 }),
    (.epush { a := .s 1, b := .e 2, c := .s 24 }, .epush { a := .s 1, b := .e 3, c := .s 24 }),
    (.epush { a := .s 1, b := .e 2, c := .s 24 }, .epush { a := .s 1, b := .e 2, c := .s 0 }),
    (.barArrive { a := .s 1, b := .uimm 0, c := .uimm 256 }, .barArrive { a := .s 1, b := .uimm 0, c := .uimm 257 }),
    (.ePush 2 1 1, .ePush 3 1 1), (.ePop 2 1 1, .ePop 3 1 1), (.eStat 2 1, .eStat 7 1)] = true := by decide +kernel

/-- The further conditions of single entries: the scope and space of an atomic (R91), existing and writable control
registers (R84), the operands of rep (R133), pairs of conversions (R214), shift counts below the width (R165), the
integer TY of an immediate (R158), and the space field of a vector access (R206). -/
theorem test_conditions_are_checked : onlyFirst [
    (.amoAdd { ty := 2, a := .s 1, b := .mem 2 0, c := .uimm 0x34 }, .amoAdd { ty := 2, a := .s 1, b := .mem 2 0, c := .uimm 0x44 }),
    (.amoAdd { ty := 2, a := .s 1, b := .mem 2 0, c := .uimm 0x34 }, .amoAdd { ty := 2, a := .s 1, b := .mem 2 0, c := .uimm 0x35 }),
    (.csrr { a := .s 1, b := .csr 0x00C }, .csrr { a := .s 1, b := .csr 0x00D }),
    (.csrw { a := .csr 0x011, b := .s 1 }, .csrw { a := .csr 0x010, b := .s 1 }),
    (.rep { a := .s 1, b := .s 2, c := .s 3 }, .rep { a := .s 1, b := .s 2 }),
    (.vbcast { a := .v 1, b := .v 2, c := .s 3 }, .vbcast { a := .v 1, b := .s 2, c := .s 3 }),
    (.vbind { ty := 13, xf := 11, a := .v 1, b := .mem 2 0 }, .vbind { ty := 11, xf := 13, a := .v 1, b := .mem 2 0 }),
    (.vshl { ty := 4, a := .v 1, b := .v 2, c := .uimm 7 }, .vshl { ty := 4, a := .v 1, b := .v 2, c := .uimm 8 }),
    (.vadd { ty := 2, a := .v 1, b := .v 2, c := .simm 1 }, .vadd { ty := 13, a := .v 1, b := .v 2, c := .simm 1 }),
    (.vldx { ty := 2, xf := 9, a := .v 1, b := .mem 2 0, c := .v 3 }, .vldx { ty := 2, xf := 10, a := .v 1, b := .mem 2 0, c := .v 3 }),
    (.nsort { ty := 2, a := .v 1, b := .v 2, c := .v 3 }, .nsort { ty := 2, a := .v 1, b := .v 2, c := .v 1 }),
    (.tshapeCore { ty := 2, xf := 1, a := .s 1, b := .a 2, c := .s 3 }, .tshapeCore { ty := 2, xf := 1, a := .s 1, b := .a 1, c := .s 3 })] =
    true := by decide +kernel

/-! ## What the statements assume is met

Each theorem `met_…` shows states and operands that meet what the clauses of a statement assume. -/

/-- The fields of a Carug instruction. -/
def fieldsOf (i : Instr) : Fields := match carugParts i with | some (_, _, _, f) => f | none => {}

/-- A check of `Issues`. -/
def issuesB (i : Instr) (s : State) (c k : Nat) : Bool :=
  decide (s.cur = .kite c k) && decide ((s.kite c k).st = .flying) && legalInstr i && guardOpen i (s.kite c k) &&
    notBlocked i s c k

/-- A check of `VecIssues`. -/
def vecB (i : Instr) (op : Nat) (f : Fields) (s : State) (c k : Nat) : Bool :=
  issuesB i s c k && decide ((s.kite c k).vq.length < 8) && !(s.kite c k).undispatched && !s.hold &&
    !(movesQueued s c k) && (vecReads op f).all fun r => decide ((s.kite c k).binds.find r = none)

/-- A check of `GoesOn`. -/
def goesB (s : State) (c k : Nat) : Bool :=
  !(s.kite c k).repRun && match (s.kite c k).nextPos with | .ok _ => true | .error _ => false

theorem issues_of {i : Instr} {s : State} {c k : Nat} (h : issuesB i s c k = true) : Issues i s c k := by
  simp only [issuesB, Bool.and_eq_true, decide_eq_true_eq] at h
  exact ⟨⟨h.1.1.1.1, h.1.1.1.2, h.1.1.2⟩, h.1.2, h.2⟩

theorem vec_of {i : Instr} {op : Nat} {f : Fields} {s : State} {c k : Nat} (h : vecB i op f s c k = true) :
    VecIssues i op f s c k := by
  simp only [vecB, Bool.and_eq_true, decide_eq_true_eq, Bool.not_eq_true', List.all_eq_true] at h
  exact ⟨issues_of h.1.1.1.1.1, h.1.1.1.1.2, h.1.1.1.2, h.1.1.2, h.1.2, h.2⟩

theorem goes_of {s : State} {c k : Nat} (h : goesB s c k = true) : GoesOn s c k := by
  simp only [goesB, Bool.and_eq_true, Bool.not_eq_true'] at h
  refine ⟨h.1, ?_⟩
  have h2 := h.2
  split at h2
  · exact ⟨_, by assumption⟩
  · exact absurd h2 (by decide)

/-- Whether a result is a success with a property. -/
def okWith {ε α : Type} (r : Except ε α) (p : α → Bool) : Bool := match r with | .ok a => p a | .error _ => false

theorem ok_of {ε α : Type} {r : Except ε α} {p : α → Bool} (h : okWith r p = true) : ∃ a, r = .ok a ∧ p a = true := by
  unfold okWith at h
  split at h
  · exact ⟨_, rfl, h⟩
  · exact absurd h (by decide)

/-- The OP of a Carug instruction. -/
def opOf (i : Instr) : Nat := match carugParts i with | some (op, _, _, _) => op | none => 0

/-- Every form of a list has fields with a property, those of a sample adjusted. -/
theorem forms_meet {l : List (Fields → Instr)} {adj : Fields → Fields} {p : Instr → Fields → Bool}
    (h : (l.all fun g => samples.any fun i =>
      decide (g (fieldsOf i) = i) && p (g (adj (fieldsOf i))) (adj (fieldsOf i))) = true) :
    ∀ g ∈ l, ∃ f, p (g f) f = true := by
  intro g hg
  obtain ⟨i, -, hi⟩ := List.any_eq_true.1 (List.all_eq_true.1 h g hg)
  exact ⟨_, (Bool.and_eq_true _ _ ▸ hi).2⟩

/-- The same of forms with their OP. -/
theorem opForms_meet {α : Type} {l : List ((Fields → Instr) × Nat × α)} {adj : Fields → Fields}
    {p : Instr → Nat → Fields → Bool}
    (h : (l.all fun e => samples.any fun i => opOf i == e.2.1 &&
      (decide (e.1 (fieldsOf i) = i) && p (e.1 (adj (fieldsOf i))) e.2.1 (adj (fieldsOf i)))) = true) :
    ∀ e ∈ l, ∃ f, p (e.1 f) e.2.1 f = true := by
  intro e he
  obtain ⟨i, -, hi⟩ := List.any_eq_true.1 (List.all_eq_true.1 h e he)
  simp only [Bool.and_eq_true] at hi
  exact ⟨_, hi.2.2⟩

/-- A block of 32 words at 0x1000, all nop. -/
def blk : Buf := { valid := true, base := 0x1000, slots := 32, words := List.replicate 32 0x180000000000000000000000#96 }

/-- A FLYING kite of 512-byte vectors in that block, every scalar register 0x1800, every predicate ones. -/
def fly : Kite :=
  { st := .flying, mvlb := 512, vlen := 512, buf0 := blk, s := (List.range 32).map fun i => (i, 0x1800)
    p := (List.range 16).map fun i => (i, ones 1024) }

/-- A machine whose core 0 has a crew of two kites, the first as given; its context maps the page 0x1000. -/
def st (x : Kite) : State :=
  { State.reset with
    cur := .kite 0 0
    mem := codeTables []
    crews := [(0, { n := 2, mvlb := 512, colGood := 255, kites := [(0, x), (1, Kite.launch 0 512)] })]
    flights := [(0, { cores := [0] })]
    ctxs := [(0, { valid := true, root := codePa })]
    chips := [{ ascent := 0, die := 0, size := 65536 }]
    module := { lpddr := true } }

/-- The machine with words in queue 7 of core 0. -/
def withQueue (s : State) (l : List Word) : State := s.setQueueOf 0 7 l

/-- The machine at tick 100. -/
def at100 (s : State) : State := { s with dies := [(0, { cycle := 100 }), (1, { cycle := 100 })] }

/-- A kite whose view is a tint that is not in use. -/
def orphan : Kite := { fly with tintv := 5 }

theorem met_scalar_forms : ∀ g ∈ scalarForms ++ cmpRules.map (·.1),
    ∃ f, (issuesB (g f) (st fly) 0 0 && goesB (st fly) 0 0) = true :=
  forms_meet (adj := id) (p := fun i _ => issuesB i (st fly) 0 0 && goesB (st fly) 0 0) (by decide +kernel)

/-- An addition with the guard !p5. -/
def shut : Fields := { gp := 5, gn := true, a := .s 9, b := .s 1, c := .s 2 }

theorem met_closed_guard : Turns (.add shut) (st fly) 0 0 ∧ carugParts (.add shut) = some (1, 0, 0, shut) ∧
    guardOpen (.add shut) ((st fly).kite 0 0) = false ∧ ((st fly).kite 0 0).guardComes shut = false :=
  have h : legalInstr (.add shut) = true := by decide +kernel
  have k : ((st fly).kite 0 0).st = .flying := by decide +kernel
  have g : guardOpen (.add shut) ((st fly).kite 0 0) = false := by decide +kernel
  ⟨⟨rfl, k, h⟩, rfl, g, by decide +kernel⟩

theorem met_li : Issues (.li { a := .s 9 } (-2)) (st fly) 0 0 ∧ GoesOn (st fly) 0 0 :=
  ⟨issues_of (by decide +kernel), goes_of (by decide +kernel)⟩

/-! Positions, control and control registers. -/

/-- A kite in the last slot of its block; with the other buffer a bridled block of 8 slots at the next address. -/
def last : Kite := { fly with idx := 31 }
def two : Kite := { last with buf1 := { blk with base := 0x1180, slots := 8 } }

theorem met_positions :
    (fly.repRun = false ∧ fly.nextPos = .ok (0, 1) ∧ fly.idx + 1 < (fly.buf fly.cur).slots) ∧
    (last.repRun = false ∧ (∃ t, last.nextPos = .error t) ∧ (last.buf last.cur).slots ≤ last.idx + 1) ∧
    ((st { last with resume := .after }).crewRuns 0 = true ∧ last.yielded = false ∧ last.buf0.refill = false ∧
      last.buf1.refill = false) ∧
    two.nextPos = .ok (1, 0) ∧ two.locate 0x1174 = .ok (0, 31) ∧ two.locate 0x11D4 = .ok (1, 7) ∧
    (∃ t, two.locate 0x117F = .error t ∧ t.cause = 0x03) ∧ (∃ t, two.locate 0x11E0 = .error t ∧ t.cause = 0x02) :=
  ⟨⟨rfl, rfl, by decide +kernel⟩, ⟨rfl, ⟨_, rfl⟩, by decide +kernel⟩, by decide +kernel, rfl, rfl, rfl, ⟨_, rfl, rfl⟩,
    ⟨_, rfl, rfl⟩⟩

theorem met_br :
    (Issues (.br { a := .s 5, b := .uimm 31 }) (st fly) 0 0 ∧ branchCond fly (.s 5) ∧ ¬ branchCond fly (.s 0) ∧
      branchCond fly (.p 1) ∧ HasSlot fly 0 31 ∧ ¬ HasSlot fly 0 32 ∧ ¬ HasSlot fly 1 0) ∧
    Issues (.br { a := .s 0, b := .uimm 31 }) (st fly) 0 0 ∧ Issues (.br { a := .p 1, b := .uimm 31 }) (st fly) 0 0 :=
  ⟨⟨issues_of (by decide +kernel), by unfold branchCond; decide +kernel, by unfold branchCond; decide +kernel,
    by unfold branchCond; decide +kernel, by unfold HasSlot; decide +kernel, by unfold HasSlot; decide +kernel,
    by unfold HasSlot; decide +kernel⟩, issues_of (by decide +kernel), issues_of (by decide +kernel)⟩

theorem met_jumps :
    (Issues (.jmpNear { b := .uimm 31 }) (st fly) 0 0 ∧ HasSlot fly 0 31) ∧
    (Issues (.jmpNear { b := .uimm 8 }) (st { two with cur := 1 }) 0 0 ∧ ¬ HasSlot { two with cur := 1 } 1 8) ∧
    (Issues (.jmpFar { fn := 1, b := .uimm 7 }) (st two) 0 0 ∧ HasSlot two 1 7) ∧
    (Issues (.jmpFar { fn := 1, b := .uimm 0 }) (st fly) 0 0 ∧ ¬ HasSlot fly 1 0) ∧
    (Issues (.jmpReg { fn := 2, b := .s 5 }) (st { fly with s := [(5, 0x1174)] }) 0 0 ∧
      ({ fly with s := [(5, 0x1174)] } : Kite).locate 0x1174 = .ok (0, 31)) ∧
    (Issues (.jmpReg { fn := 2, b := .s 5 }) (st fly) 0 0 ∧ ∃ t, fly.locate 0x1800 = .error t) ∧
    (Issues (.ret { a := .s 5 }) (st { fly with s := [(5, 0x1000)] }) 0 0 ∧
      ({ fly with s := [(5, 0x1000)] } : Kite).locate 0x1000 = .ok (0, 0)) ∧
    (Issues (.ret { a := .s 5 }) (st fly) 0 0 ∧ ∃ t, fly.locate 0x1800 = .error t) ∧
    Issues (.br { a := .s 5, b := .uimm 8 }) (st { two with cur := 1 }) 0 0 ∧ branchCond { two with cur := 1 } (.s 5) := by
  refine ⟨⟨issues_of ?_, ?_⟩, ⟨issues_of ?_, ?_⟩, ⟨issues_of ?_, ?_⟩, ⟨issues_of ?_, ?_⟩, ⟨issues_of ?_, rfl⟩,
    ⟨issues_of ?_, _, rfl⟩, ⟨issues_of ?_, rfl⟩, ⟨issues_of ?_, _, rfl⟩, issues_of ?_, ?_⟩ <;> (try unfold HasSlot) <;>
    (try unfold branchCond) <;> decide +kernel

theorem met_call_and_qbr :
    (Issues (.call { a := .s 1, b := .uimm 31 }) (st fly) 0 0 ∧ HasSlot fly 0 31) ∧
    (Issues (.call { a := .s 1, b := .uimm 8 }) (st { two with cur := 1 }) 0 0 ∧ ¬ HasSlot { two with cur := 1 } 1 8) ∧
    (Issues (.call { a := .s 1, b := .s 5 }) (st { fly with s := [(5, 0x1174)] }) 0 0 ∧
      ({ fly with s := [(5, 0x1174)] } : Kite).locate 0x1174 = .ok (0, 31)) ∧
    (∀ w ∈ [0, 2, 1, 3], Issues (.qbr { a := .q 7, b := .uimm 31 }) (withQueue (st fly) [w]) 0 0 ∧
      ((withQueue (st fly) [w]).queueOf 0 7).head? = some w) ∧
    Issues (.qbr { a := .q 7, b := .uimm 8 }) (withQueue (st { two with cur := 1 }) [1]) 0 0 ∧
    (Issues (.qbr { a := .q 7, b := .uimm 31 }) (withQueue (st fly) []) 0 0 ∧ (withQueue (st fly) []).queueOf 0 7 = []) ∧
    Issues (.call { a := .s 1, b := .s 5 }) (st fly) 0 0 ∧ ∃ t, fly.locate 0x1800 = .error t := by
  refine ⟨⟨issues_of ?_, ?_⟩, ⟨issues_of ?_, ?_⟩, ⟨issues_of ?_, rfl⟩, ?_, issues_of ?_, ⟨issues_of ?_, ?_⟩, issues_of ?_,
    _, rfl⟩
  case refine_6 =>
    intro w hw
    simp only [List.mem_cons, List.not_mem_nil, or_false] at hw
    obtain rfl | rfl | rfl | rfl := hw <;> exact ⟨issues_of (by decide +kernel), rfl⟩
  all_goals (try unfold HasSlot) <;> decide +kernel

theorem met_plain_control :
    Issues (.nop {}) (st fly) 0 0 ∧ Issues (.yield {}) (st fly) 0 0 ∧ Issues (.trap { a := .uimm 7 }) (st fly) 0 0 ∧
    (∀ t ∈ [100, 101], Issues (.sleepu { a := .s 5 }) (at100 (st { fly with s := [(5, t)] })) 0 0) ∧
    (at100 (st fly)).cycle 0 = 100 ∧ fly.region = none ∧
    Issues (.land {}) (st fly) 0 0 ∧ fly.pend = [] := by
  refine ⟨issues_of ?_, issues_of ?_, issues_of ?_, ?_, ?_, ?_, issues_of ?_, ?_⟩
  case refine_4 =>
    intro t ht
    simp only [List.mem_cons, List.not_mem_nil, or_false] at ht
    obtain rfl | rfl := ht <;> exact issues_of (by decide +kernel)
  all_goals decide +kernel

theorem met_fetchb :
    (Issues (.fetchb { a := .uimm 0, b := .s 5 }) (st fly) 0 0 ∧ fly.cur = 0) ∧
    (Issues (.fetchb { a := .uimm 1, b := .mem 5 32 }) (st fly) 0 0 ∧ fly.fetchbAddr { a := .uimm 1, b := .mem 5 32 } % 64 ≠ 0) ∧
    Issues (.fetchb { a := .uimm 1, b := .s 5 }) (st fly) 0 0 ∧ fly.fetchbAddr { a := .uimm 1, b := .s 5 } % 64 = 0 ∧
    ∃ r, blockXlat (st fly) (fly.fetchbAddr { a := .uimm 1, b := .s 5 }) (fun s a => kiteXlat s 0 0 a .fetch 0) 6 = .ok r ∧
      r.1 = (List.range 6).map fun i => codePa + 0x4800 + 64 * i := by
  refine ⟨⟨issues_of ?_, ?_⟩, ⟨issues_of ?_, ?_⟩, issues_of ?_, ?_, ?_⟩
  case refine_7 =>
    have h : okWith (blockXlat (st fly) (fly.fetchbAddr { a := .uimm 1, b := .s 5 }) (fun s a => kiteXlat s 0 0 a .fetch 0) 6)
        (fun r => decide (r.1 = (List.range 6).map fun i => codePa + 0x4800 + 64 * i)) = true := by decide +kernel
    obtain ⟨r, h1, h2⟩ := ok_of h
    exact ⟨r, h1, of_decide_eq_true h2⟩
  all_goals decide +kernel

/-- A kite with an instruction of its vector queue whose flags have still to be delivered. -/
def flagged : Kite := { fly with vq := [{ op := 0x50, flags := 1 }] }

theorem met_control_registers :
    ([0x000, 0x001, 0x003, 0x006, 0x00C, 0x010, 0x011, 0x020, 0x021].all fun n =>
      issuesB (.csrr { a := .s 1, b := .csr n }) (st fly) 0 0) = true ∧
    ([0x002, 0x005, 0x006, 0x007, 0x00B, 0x011].all fun n =>
      issuesB (.csrw { a := .csr n, b := .s 1 }) (st fly) 0 0) = true ∧
    flagsBusy (st fly) 0 0 = false ∧ flagsBusy (st flagged) 0 0 = true ∧
    Issues (.csrr { a := .s 1, b := .csr 6 }) (st flagged) 0 0 ∧ Issues (.csrw { a := .csr 6, b := .uimm 0 }) (st flagged) 0 0 :=
  ⟨by decide +kernel, by decide +kernel, by decide +kernel, by decide +kernel, issues_of (by decide +kernel),
    issues_of (by decide +kernel)⟩

/-- Kites that fly with and without the midst of an instruction, one with a late trap waiting, and a parked one. -/
theorem met_late_traps :
    (fly.midway = false ∧ fly.st = .flying ∧ fly.wait ≠ .rewind ∧ fly.region = none) ∧
    ({ fly with mmRun := true } : Kite).midway = true ∧
    ({ fly with st := .waiting, wait := .atomicOp 8 } : Kite).midway = true ∧
    ({ fly with late := [{ cause := 13 }] } : Kite).midway = false := by decide
/-! Queues, tethers, barriers, scalar memory. -/

/-- The machine whose second kite has words in its ports. -/
def withPorts (l : List Word) : State :=
  (st fly).modKite 0 1 fun x => { x with t0 := l, t1 := l }

theorem met_queues :
    ([0, 15, 16].all fun n =>
      issuesB (.qpush { a := .q 7, b := .s 2 }) (withQueue (st fly) (List.replicate n 1)) 0 0 &&
        decide (((withQueue (st fly) (List.replicate n 1)).queueOf 0 7).length = n)) = true ∧
    ([[], [5]].all fun l =>
      issuesB (.qpop { a := .s 1, b := .q 7 }) (withQueue (st fly) l) 0 0 &&
      issuesB (.qpeek { a := .s 1, b := .q 7 }) (withQueue (st fly) l) 0 0 &&
      issuesB (.qpeek { a := .s 1, b := .q 7, c := .p 3 }) (withQueue (st fly) l) 0 0 &&
      decide ((withQueue (st fly) l).queueOf 0 7 = l)) = true := by decide +kernel

theorem met_tethers :
    ([3, 4].all fun n =>
      let s := withPorts (List.replicate n 1)
      issuesB (.tsendLeft { b := .s 2 }) s 0 0 && issuesB (.tsendRight { fn := 1, b := .s 2 }) s 0 0 &&
        decide ((s.kite 0 ((0 + (s.crew 0).n - 1) % (s.crew 0).n)).t1.length = n) &&
        decide ((s.kite 0 ((0 + 1) % (s.crew 0).n)).t0.length = n)) = true ∧
    ([[], [5], [5, 6]].all fun l =>
      issuesB (.trecv { a := .s 1, b := .t 1 }) (st { fly with t1 := l }) 0 0 &&
        decide (({ fly with t1 := l } : Kite).port 1 = l)) = true := by decide +kernel

/-- An arrival of the kite at unit 1 in phase 0, that phase over, and under way. -/
def arrived (phase : Nat) : State :=
  (st { fly with arr := [(1, 0)] }).modFlight 0 fun f =>
    { f with bars := [(1, { phase := phase, past := [(0, [(0, 1), (0, 1)])] })] }

theorem met_barriers :
    (issuesB (.barArrive { a := .uimm 2, b := .uimm 0 }) (st fly) 0 0 &&
      issuesB (.barWait { a := .uimm 2, b := .uimm 0 }) (st fly) 0 0 && decide (2 * flightSize (st fly) 0 = 2)) = true ∧
    (issuesB (.barArrive { a := .uimm 1, b := .uimm 1, c := .uimm 256 }) (arrived 1) 0 0 &&
      !(outstanding (arrived 1) 0 1 ((arrived 1).kite 0 0).arr)) = true ∧
    (issuesB (.barArrive { a := .uimm 1, b := .uimm 1 }) (st { fly with vq := List.replicate 7 {} }) 0 0 &&
      decide ((List.replicate 7 ({} : VqEntry)).length < 8)) = true ∧
    (issuesB (.barWait { a := .uimm 1, b := .uimm 1 }) (arrived 0) 0 0 &&
      outstanding (arrived 0) 0 1 ((arrived 0).kite 0 0).arr) = true ∧
    (issuesB (.barWait { a := .uimm 1, b := .uimm 0 }) (st fly) 0 0 && decide (fly.arr.find 1 = none) &&
      !(outstanding (st fly) 0 1 fly.arr)) = true ∧
    (issuesB (.barWait { a := .uimm 1, b := .uimm 1 }) (arrived 1) 0 0 &&
      decide (((arrived 1).kite 0 0).arr.find 1 = some 0) &&
      !(outstanding (arrived 1) 0 1 ((arrived 1).kite 0 0).arr)) = true ∧
    ([0, 1].all fun v =>
      issuesB (.barWait { a := .uimm 1, b := .uimm v }) (arrived 1) 0 0 &&
        issuesB (.barWait { a := .uimm 1, b := .uimm v }) (st fly) 0 0) = true ∧
    (issuesB (.barArrive { a := .uimm 1, b := .uimm 1 }) (arrived 0) 0 0 &&
      outstanding (closeStrip (arrived 0) 0 0) 0 1 ((closeStrip (arrived 0) 0 0).kite 0 0).arr) = true := by decide +kernel

theorem met_barrier_phases :
    (({ n := 3, arr := [(0, 0)] } : BarUnit).arr.length + 1 < 3 ∧ (0 + 1 < 2)) ∧
    (3 ≤ ({ n := 3, arr := [(0, 0), (1, 0)] } : BarUnit).arr.length + 1 ∧ 1 ≤ ({} : BarUnit).arr.length + 1) := by decide

theorem met_loads :
    (issuesB (.ld { ty := 3, rd := 2, a := .s 7, b := .mem 4 16 }) (st fly) 0 0 && !(kiteOrphan (st fly) 0 fly) &&
      decide (fly.memAddr (.mem 4 16) % accessBytes { ty := 3 } = 0) &&
      okWith (translate (st fly) 0 0 (fly.memAddr (.mem 4 16)) .load .kite) fun r => !(viewFixing r.2 0 0)) = true ∧
    ([(1, 2097144), (2, 1048568), (3, 65528), (4, 262136)].all fun e =>
      let x : Kite := { fly with s := [(5, BitVec.ofNat 64 e.2)] }
      issuesB (.ldsp { fn := BitVec.ofNat 4 e.1, ty := 7, a := .s 4, b := .mem 5 0 }) (st x) 0 0 &&
        issuesB (.stsp { fn := BitVec.ofNat 4 e.1, ty := 7, a := .mem 5 0, b := .s 4 }) (st x) 0 0 &&
        decide (e.2 + 8 = extent (st x) 0 e.1) && decide (x.relNext = none) && goesB (st x) 0 0 &&
        Memory.wf (spMem (st x) 0 e.1)) = true := by decide +kernel

theorem met_loaded_values :
    ((st fly).core 0).wp = [] ∧ ((st fly).core 0).l1 = [] ∧ dieStores (st fly) (dieOf 0) = [] ∧ isGuest (st fly).module (dieOf 0) 1 (codePa + 0x4800) = false ∧
    (0 + 8) % 8 = 0 ∧ ((st fly).ctx 0).resolve 0 = 0 := by decide +kernel

/-- The machine with its memory operations put off. -/
def held (s : State) : State := { s with hold := true }

theorem met_stores :
    (issuesB (.st { ty := 3, a := .mem 4 16, b := .s 7 }) (st fly) 0 0 && !(kiteOrphan (st fly) 0 fly) && goesB (st fly) 0 0 &&
      decide (fly.memAddr (.mem 4 16) % accessBytes { ty := 3 } = 0) &&
      okWith (translate (st fly) 0 0 (fly.memAddr (.mem 4 16)) .store .kite) fun r =>
        okWith (kiteReserve r.2 0 0 [lineOf r.1.a] (fun _ => (fly.memAddr (.mem 4 16), 0)) false) fun _ => true) = true ∧
    (issuesB (.st { ty := 3, a := .mem 4 16, b := .s 7 }) (held (st fly)) 0 0 &&
      okWith (translate (held (st fly)) 0 0 (fly.memAddr (.mem 4 16)) .store .kite) fun r =>
        okWith (kiteReserve r.2 0 0 [lineOf r.1.a] (fun _ => (fly.memAddr (.mem 4 16), 0)) false) fun _ => true) = true ∧
    (issuesB (.stsp { fn := 1, ty := 7, a := .mem 5 0, b := .s 4 }) (held (st fly)) 0 0 &&
      decide (fly.memAddr (.mem 5 0) % 8 = 0 ∧ fly.memAddr (.mem 5 0) + 8 ≤ extent (held (st fly)) 0 1)) = true := by
  decide +kernel

theorem met_access_traps :
    kiteOrphan (st orphan) 0 orphan = true ∧ kiteOrphan (st fly) 0 fly = false ∧
    (issuesB (.ld { ty := 3, a := .s 7, b := .mem 4 16 }) (st orphan) 0 0 &&
      issuesB (.st { ty := 3, a := .mem 4 16, b := .s 7 }) (st orphan) 0 0 &&
      issuesB (.ld { ty := 3, a := .s 7, b := .mem 4 1 }) (st fly) 0 0 &&
      issuesB (.st { ty := 3, a := .mem 4 1, b := .s 7 }) (st fly) 0 0 && decide (fly.memAddr (.mem 4 1) % 8 = 1)) = true ∧
    ([(1, 2097152), (2, 1048576), (3, 65536), (4, 262144), (1, 4)].all fun e =>
      let x : Kite := { fly with s := [(5, BitVec.ofNat 64 e.2)] }
      issuesB (.ldsp { fn := BitVec.ofNat 4 e.1, ty := 7, a := .s 4, b := .mem 5 0 }) (st x) 0 0 &&
        issuesB (.stsp { fn := BitVec.ofNat 4 e.1, ty := 7, a := .mem 5 0, b := .s 4 }) (st x) 0 0 &&
        (e.2 == 4 || decide (e.2 % 8 = 0 ∧ extent (st x) 0 e.1 < e.2 + 8))) = true := by decide +kernel

theorem met_scratch_atomics :
    (∀ g ∈ amoRules.map (·.1), ∃ f, (issuesB (g f) (st fly) 0 0 && decide (f.xf = 0 ∧ amoSpace f ≠ 0 ∧
      fly.memAddr f.b % amoBytes f = 0 ∧ fly.memAddr f.b + amoBytes f ≤ extent (st fly) 0 (amoSpace f))) = true) ∧
    (∀ g ∈ [Instr.famoAddF32, .famoAddBf16, .famoMinF32, .famoMaxF32], ∃ f, (issuesB (g f) (st fly) 0 0 &&
      decide (amoSpace f ≠ 0 ∧ fly.memAddr f.b % 4 = 0 ∧ fly.memAddr f.b + 4 ≤ extent (st fly) 0 (amoSpace f))) = true) ∧
    ([0, 5].all fun v =>
      let x : Kite := { fly with s := [(2, v), (4, 0x100)] }
      let f : Fields := { ty := 7, a := .s 2, b := .mem 4 0, c := .uimm 0x10 }
      issuesB (.cas f) (st x) 0 0 && decide (f.xf = 0 ∧ amoSpace f = 1 ∧ x.memAddr f.b % 8 = 0 ∧ x.relNext = none) &&
        decide (memRead (spMem (st x) 0 1) 0x100 8 = (x.opd f.a).toNat ↔ v = 0)) = true :=
  ⟨forms_meet (adj := fun f => { f with xf := 0, c := .uimm 0x10 })
      (p := fun i f => issuesB i (st fly) 0 0 && decide (f.xf = 0 ∧ amoSpace f ≠ 0 ∧
        fly.memAddr f.b % amoBytes f = 0 ∧ fly.memAddr f.b + amoBytes f ≤ extent (st fly) 0 (amoSpace f)))
      (by decide +kernel),
    forms_meet (adj := fun f => { f with xf := 0, c := .uimm 0x30 })
      (p := fun i f => issuesB i (st fly) 0 0 && decide (amoSpace f ≠ 0 ∧ fly.memAddr f.b % 4 = 0 ∧
        fly.memAddr f.b + 4 ≤ extent (st fly) 0 (amoSpace f))) (by decide +kernel), by decide +kernel⟩

theorem met_home_atomics : Memory.wf ([] : List Host.Cell) = true ∧
    (fun o : Nat => if o = memRead [] 0x100 8 then some 5 else none) (memRead [] 0x100 8) = some 5 := by decide +kernel

theorem met_fences :
    (issuesB (.fenceStrip { fn := 3 }) (st fly) 0 0 && issuesB (.fenceAcq { fn := 2, a := .uimm 4 }) (st fly) 0 0 &&
      issuesB (.fenceRel { fn := 1, a := .uimm 0 }) (st fly) 0 0 && issuesB (.fenceFull { a := .uimm 0 }) (st fly) 0 0) =
      true := by decide +kernel

/-- A kite in an open region of tint 1. -/
def inRegion : State :=
  (st { fly with tintv := 1, region := some { tint := 1 } }).modCtx 0 fun x =>
    { x with tints := [(1, { st := .live, depth := 1 })] }

theorem met_regions :
    (issuesB (.regb { a := .s 5 }) (st fly) 0 0 && ((st fly).ctx 0).isLive 0 && decide ((((st fly).ctx 0).tint 0).depth ≠ 16) &&
      decide (((st fly).ctx 0).freeTint = some 1) && ((closeStrip (st fly) 0 0).ctx 0).isLive 0) = true ∧
    (issuesB (.rege {}) (st fly) 0 0 && issuesB (.rege {}) inRegion 0 0 && (inRegion.ctx 0).isLive 1 &&
      decide (((closeStrip inRegion 0 0).kite 0 0).region = some { tint := 1 }) &&
      (release (closeStrip inRegion 0 0) 0 3).2) = true ∧
    ([0, 1023].all fun t =>
      let s := (st { fly with s := [(2, BitVec.ofNat 64 t)] }).modCtx 0 fun x => { x with tints := [(1023, { st := .live, depth := 1 })] }
      issuesB (.hview { a := .s 9, b := .s 2 }) s 0 0 && (s.ctx 0).isLive t) = true := by decide +kernel

/-- A kite under a view, whose tint is in a state of a depth. -/
def viewing (v : Nat) (t : Tint) : State := (st { fly with tintv := v }).modCtx 0 fun x => { x with tints := [(v, t)] }

theorem met_region_traps :
    (issuesB (.regb { a := .s 5 }) inRegion 0 0 && issuesB (.regb { a := .s 5 }) (viewing 5 {}) 0 0 &&
      !((viewing 5 {}).ctx 0).isLive 5 && issuesB (.regb { a := .s 5 }) (viewing 5 { st := .live, depth := 16 }) 0 0 &&
      decide ((((viewing 5 { st := .live, depth := 16 }).ctx 0).tint 5).depth = 16)) = true ∧
    (let s := (st { fly with tintv := 1, region := some { tint := 1 } })
     issuesB (.rege {}) s 0 0 && decide (((closeStrip s 0 0).kite 0 0).region = some { tint := 1 }) &&
       !((closeStrip s 0 0).ctx 0).isLive 1) = true ∧
    (issuesB (.hview { a := .s 9, b := .s 2 }) inRegion 0 0 && issuesB (.hview { a := .s 9, b := .s 2 }) (st fly) 0 0 &&
      decide (1023 < (fly.opd (.s 2)).toNat) &&
      issuesB (.hview { a := .s 9, b := .s 2 }) (st { fly with s := [(2, 5)] }) 0 0 &&
      !((closeStrip (st { fly with s := [(2, 5)] }) 0 0).ctx 0).isLive 5) = true := by decide +kernel

/-! Vectors. -/

/-- A kite whose block holds a rep of a register index in slot 0, with the given instruction in slot 1. -/
def repeating (cnt : Nat) (w1 : CWord) : Kite :=
  { fly with buf0 := { blk with words := [0x420000001280014000C00010#96, w1] }
             s := [(5, BitVec.ofNat 64 cnt), (8, 7)] }

/-- The fields of that rep: count s5, index s8, step 1. -/
def repF : Fields := { a := .s 5, b := .s 8, c := .simm 1 }

/-- The word of vadd v3, v1, v2 of S8. -/
def vaddWord : CWord := 0x500000002180020800210000#96

theorem met_lengths :
    ([7, 8].all fun n =>
      let x : Kite := { fly with vq := List.replicate n {}, s := [(2, 5)] }
      issuesB (.setvl { ty := 8, a := .s 1, b := .s 2 }) (st x) 0 0 && issuesB (.setvl { ty := 2, a := .s 1, b := .s 2 }) (st x) 0 0 &&
        issuesB (.getmvl { ty := 14, a := .s 1 }) (st x) 0 0 && decide (x.vq.length = n ∧ x.pend = [] ∧ x.reads = [])) = true := by
  decide +kernel

theorem met_repeat_prefix :
    ([(0, vaddWord), (1, vaddWord), (65535, vaddWord), (65536, vaddWord), (3, 0x180000000000000000000000#96)].all fun e =>
      let x := repeating e.1 e.2
      let s := st x
      decide (x.wordAt (0, 0) = some (.rep repF)) && issuesB (.rep repF) s 0 0 && decide (x.vq.length < 8) &&
        (match x.nextPos with | .ok p => decide (p = (0, 1)) | .error _ => false) && !(x.buf 0).filling &&
        decide ((x.buf 0).bad = []) && decide (((x.wordAt (0, 1)).map repTarget).getD false = (e.1 != 3))) = true ∧
    (let x : Kite := { repeating 3 vaddWord with p := [] }
     let f := { repF with gp := 1 }
     decide (x.st = .flying) && legalInstr (.rep f) && !(guardOpen (.rep f) x) && !(x.guardComes f)) = true := by decide +kernel

theorem met_repeat_again :
    (let x : Kite := { repeating 3 vaddWord with repDone := 3 }
     issuesB (.rep repF) (st x) 0 0 && okWith x.nextPos (fun p => decide (p = (0, 1))) && decide ((x.opd repF.a).toNat = 3 ∧ 3 ≤ x.repDone) &&
       !(x.buf 0).filling && decide ((x.buf 0).bad = []) && ((x.wordAt (0, 1)).map repTarget).getD false) = true ∧
    (let x : Kite := { two with buf1 := { blk with base := 0x1180, slots := 8, filling := true } }
     issuesB (.rep repF) (st { x with s := [(5, 3)] }) 0 0 && okWith x.nextPos (fun p => decide (p = (1, 0))) && (x.buf 1).filling) = true := by
  decide +kernel

theorem met_repetition_ends :
    ([0, 1, 2].all fun n =>
      let x : Kite := { repeating 3 vaddWord with repRun := true, repAct := true, repCount := 3, repDone := n }
      x.repRun && decide (x.wordAt (x.cur, x.idx) = some (.rep repF)) && decide (repF.b = .s (BitVec.ofNat 5 8)) &&
        decide (x.repDone = n) &&
        (match x.nextPos with
          | .ok p => (match ({ x with cur := p.1, idx := p.2 } : Kite).nextPos with | .ok _ => true | .error _ => false)
          | .error _ => false)) = true := by decide +kernel

/-- A kite with 64-byte vectors, the vector queue of a length. -/
def small (n : Nat) : Kite := { fly with mvlb := 64, vlen := 64, vq := List.replicate n {} }

theorem met_vector_forms : ∀ e ∈ moveForms ++ arithForms ++ testForms, ∃ f,
    (vecB (e.1 f) e.2.1 f (st (small 7)) 0 0 && issuesB (e.1 f) (st (small 8)) 0 0 && goesB (st (small 7)) 0 0) = true :=
  opForms_meet (adj := id)
    (p := fun i op f => vecB i op f (st (small 7)) 0 0 && issuesB i (st (small 8)) 0 0 && goesB (st (small 7)) 0 0)
    (by decide +kernel)

theorem met_integer_forms : ∀ e ∈ vecIntRules, ∃ f,
    (vecB (e.1 f) e.2.1 f (st fly) 0 0 && decide (f.ty.toNat < 8)) = true :=
  opForms_meet (adj := fun f => { f with ty := 2, rm := 0 })
    (p := fun i op f => vecB i op f (st fly) 0 0 && decide (f.ty.toNat < 8)) (by decide +kernel)

theorem met_bit_forms : ∀ e ∈ vecBitRules, ∃ f, vecB (e.1 f) e.2.1 f (st fly) 0 0 = true :=
  opForms_meet (adj := id) (p := fun i op f => vecB i op f (st fly) 0 0) (by decide +kernel)

theorem met_comparison_forms : ∀ g ∈ [Instr.vcmpEq, .vcmpNe, .vcmpLt, .vcmpLe, .vcmpGt, .vcmpGe], ∃ f,
    (vecB (g f) 0x5F f (st fly) 0 0 && decide (f.ty.toNat < 8)) = true :=
  forms_meet (adj := fun f => { f with ty := 2 })
    (p := fun i f => vecB i 0x5F f (st fly) 0 0 && decide (f.ty.toNat < 8)) (by decide +kernel)

theorem met_predicate_forms :
    (∀ g ∈ [Instr.plogicAnd, .plogicOr, .plogicXor, .plogicAndn, .plogicNot, .plogicSet, .plogicClear], ∃ f,
      vecB (g f) 0x43 f (st fly) 0 0 = true) ∧
    VecIssues (.pcnt { ty := 2, a := .s 1, b := .p 2 }) 0x44 { ty := 2, a := .s 1, b := .p 2 } (st fly) 0 0 ∧
    ([0, ones 1024].all fun m =>
      let x : Kite := { fly with p := [(2, m)] }
      let f : Fields := { ty := 2, a := .s 1, b := .p 2 }
      vecB (.pfirst f) 0x45 f (st x) 0 0 && decide ((x.chosenBits f (x.capture f) = []) ↔ m = 0)) = true :=
  ⟨forms_meet (adj := id) (p := fun i f => vecB i 0x43 f (st fly) 0 0) (by decide +kernel), vec_of (by decide +kernel),
    by decide +kernel⟩

theorem met_permute_forms : ∀ e ∈ permRules, ∃ f, vecB (e.1 f) e.2.1 f (st fly) 0 0 = true :=
  opForms_meet (adj := id) (p := fun i op f => vecB i op f (st fly) 0 0) (by decide +kernel)

theorem met_other_vector_forms :
    (let f : Fields := { ty := 2, a := .s 1, b := .v 2, c := .uimm 3 }
     vecB (.vext f) 0x4C f (st fly) 0 0) = true ∧
    (let f : Fields := { ty := 2, a := .v 8, b := .v 16 }
     vecB (.vtrans8 f) 0x48 f (st fly) 0 0) = true ∧
    (let f : Fields := { ty := 2, a := .v 8, b := .v 16, c := .v 17 }
     vecB (.vzipZip f) 0x49 f (st fly) 0 0 && vecB (.vzipUnzip { f with fn := 1 }) 0x49 { f with fn := 1 } (st fly) 0 0 &&
       vecB (.vsel f) 0x60 f (st fly) 0 0 && vecB (.vmadd f) 0x62 f (st fly) 0 0) = true ∧
    (let f : Fields := { ty := 2, a := .v 8, b := .v 16, c := .uimm 5 }
     vecB (.vsat f) 0x63 f (st fly) 0 0) = true := by decide +kernel

/-- Fields made floating: F32, and a register for an immediate. -/
def floating (f : Fields) : Fields :=
  { f with ty := 13, c := match f.c with | .simm _ => .v 3 | .uimm _ => .v 3 | o => o }

theorem met_float_forms : ∀ e ∈ floatRules, ∃ f,
    (vecB (e.1 f) e.2.1 f (st fly) 0 0 && decide (9 ≤ f.ty.toNat)) = true :=
  opForms_meet (adj := floating)
    (p := fun i op f => vecB i op f (st fly) 0 0 && decide (9 ≤ f.ty.toNat)) (by decide +kernel)

theorem met_float_tests :
    (∀ g ∈ [Instr.vcmpEq, .vcmpNe, .vcmpLt, .vcmpLe, .vcmpGt, .vcmpGe, .vcmpUo, .vcmpOrd], ∃ f,
      (vecB (g f) 0x5F f (st fly) 0 0 && decide (9 ≤ f.ty.toNat)) = true) ∧
    (let f : Fields := { ty := 13, a := .v 1, b := .v 2, c := .v 3 }
     let g : Fields := { ty := 13, a := .p 1, b := .v 2, c := .uimm 0x201 }
     vecB (.vfma f) 0x53 f (st fly) 0 0 && vecB (.vclass g) 0x65 g (st fly) 0 0) = true :=
  ⟨forms_meet (adj := floating)
    (p := fun i f => vecB i 0x5F f (st fly) 0 0 && decide (9 ≤ f.ty.toNat)) (by decide +kernel), by decide +kernel⟩

theorem met_conversions :
    (let f : Fields := { ty := 12, xf := 13, a := .v 1, b := .v 2, c := .s 3 }
     let g : Fields := { fn := 1, ty := 13, xf := 12, a := .v 1, b := .v 2 }
     let q : Fields := { ty := 8, xf := 1, a := .v 1, b := .v 8 }
     vecB (.vcvtHalve f) 0x66 f (st fly) 0 0 && vecB (.vcvtDouble g) 0x66 g (st fly) 0 0 && vecB (.vcvtq q) 0x67 q (st fly) 0 0 &&
       decide (0 < fly.mvlb ∧ fly.mvlb % 128 = 0)) = true ∧
    ([Instr.vbsclRdscale, .vbsclWrscale, .vbsclRdvalid, .vbsclWrvalid, .vbsclRdspare, .vbsclWrspare].all fun g =>
      samples.any fun i => decide (g (fieldsOf i) = i) && vecB i 0x68 (fieldsOf i) (st fly) 0 0) = true := by decide +kernel

/-- For each floating type: a number, another, an infinity, a quiet NaN (and a signalling one where there is one). -/
theorem met_float_operands :
    (∀ ty ∈ [9, 10, 11, 12, 13, 14], ∀ x ∈ [0, 1, 2 ^ ((fmtOf ty).w - 1), 2 ^ (fmtOf ty).f + 1], IsNum ty x) ∧
    (∀ ty ∈ [10, 11, 12, 13, 14], IsInf ty (infOf ty 0) ∧ IsInf ty (infOf ty 1) ∧ IsSNaN ty (infOf ty 0 + 1)) ∧
    (∀ ty ∈ [9, 10, 11, 12, 13, 14], IsNaN ty (nanOf ty) ∧ nanOf ty < 2 ^ (fmtOf ty).w) ∧
    ({} : Rounding).rm ≤ 5 ∧ ({} : Rounding).rnd < 2 ^ 32 := by
  unfold IsNum IsSNaN IsInf IsNaN
  decide +kernel

theorem met_float_values :
    (IsNum 13 0x3F800000 ∧ valOf false 13 0x3F800000 = (1 : Int) ∧ valOf false 13 0x3F800000 = pow2 0) ∧
    (IsNum 13 0xBF800000 ∧ valOf false 13 0xBF800000 < 0) ∧ valOf true 13 1 = 0 ∧
    (let w : VReg := { data := 8, scale := 127, spare := 0x38 }
     w.elem 8 0 = 8 ∧ w.scaleAt 0 = 127 ∧ w.spareAt 0 = 0x38) ∧
    ((0x80 : Nat) < 2 ^ widthOf 0 ∧ (0x80 : Nat) < 2 ^ widthOf 4) := by
  unfold IsNum IsInf IsNaN
  decide +kernel

theorem met_block_validity :
    let g : Nat → Option Out := fun i => if i < 40 then some { v := 1, ok := i != 35 } else none
    64 ≤ 96 ∧ (∀ i ∈ (List.range 32).map (32 * 2 + ·), ¬ (i < 64 ∧ (g i).isSome = true)) ∧
    ((1 + 32 * 1 < 64 ∧ (g (32 * 1 + 1)).isSome = true) ∧ 32 * 1 + 31 < 96 ∧ ¬ (g (32 * 1 + 31)).isSome = true) := by
  decide +kernel

theorem met_held_forms : ∀ e ∈ arithForms, ∃ f,
    (issuesB (e.1 f) { st (small 7) with hold := true } 0 0 && holdable e.2.1 f (small 7)) = true :=
  opForms_meet (adj := id)
    (p := fun i op f => issuesB i { st (small 7) with hold := true } 0 0 && holdable op f (small 7)) (by decide +kernel)

/-! Vector memory and nested vectors. -/

/-- The same with several adjustments of the samples to choose from. -/
theorem opForms_meet_any {α : Type} {l : List ((Fields → Instr) × Nat × α)} (adjs : List (Fields → Fields))
    {p : (Fields → Instr) × Nat × α → Fields → Bool}
    (h : (l.all fun e => samples.any fun i => opOf i == e.2.1 &&
      (decide (e.1 (fieldsOf i) = i) && adjs.any fun adj => p e (adj (fieldsOf i)))) = true) :
    ∀ e ∈ l, ∃ f, p e f = true := by
  intro e he
  obtain ⟨i, -, hi⟩ := List.any_eq_true.1 (List.all_eq_true.1 h e he)
  simp only [Bool.and_eq_true] at hi
  obtain ⟨adj, -, ha⟩ := List.any_eq_true.1 hi.2.2
  exact ⟨_, ha⟩

/-- A kite of 64-byte vectors whose scalar registers point into the vector window, and s10 counts 2 elements; the span of
the window is present and writable. -/
def windowed : State :=
  { st { fly with mvlb := 64, vlen := 64, s := (List.range 32).map fun i => (i, if i = 10 then 2 else 0x010000001800) } with
    spans := [{ cluster := 0, ctx := 0, entries := [(0, codePa + 5 + 2 ^ 62)] }] }

/-- A kite of 64-byte vectors of 16 elements, all linked to shapes of two rows of 8; such a shape's image lies at 0x1800. -/
def nested : State :=
  let s := st { fly with mvlb := 64, vlen := 64, h := (List.range 4).map fun i => (i, { lv := [[0, 8, 16]] })
                         v := (List.range 32).map fun i => (i, { tag := 2, link := some 0 }) }
  { s with mem := memWrite s.mem (codePa + 0x4800) (toBytes 8 (1 + 2 ^ 17) ++ [0, 8, 16].flatMap (toBytes 2)) }

/-- The form with those fields issues in a state, and its checks pass, or fail with a trap. -/
def passesB (s : State) (e : (Fields → Instr) × Nat × MemEffect) (f : Fields) : Bool :=
  vecB (e.1 f) e.2.1 f s 0 0 && okWith (e.2.2 f s 0 0 ((s.kite 0 0).capture f)) fun _ => true
def trapsB (s : State) (e : (Fields → Instr) × Nat × MemEffect) (f : Fields) : Bool :=
  vecB (e.1 f) e.2.1 f s 0 0 &&
    match e.2.2 f s 0 0 ((s.kite 0 0).capture f) with | .error (.trap _ _ _) => true | _ => false

theorem met_memory_forms : ∀ e ∈ memoryForms, ∃ f, (passesB windowed e f || passesB (st (small 0)) e f) = true :=
  opForms_meet_any [fun f => { f with ty := 3, rm := 0 }, id] (p := fun e f => passesB windowed e f || passesB (st (small 0)) e f) (by decide +kernel)

theorem met_nested_forms : ∀ e ∈ nestedForms, ∃ f, passesB nested e f = true :=
  opForms_meet_any [id, fun f => { f with dp := 1, ty := 2, rm := 0 }, fun f => { f with ty := 2, rm := 0 },
    fun f => { f with c := .none }] (p := passesB nested) (by decide +kernel)

theorem met_vector_traps :
    (trapsB (st orphan) (.vld, 0x70, vldMem) { ty := 2, a := .v 1, b := .mem 5 0 } &&
      trapsB (st fly) (.vst, 0x71, vstMem) { ty := 2, a := .mem 5 0, b := .v 1 } &&
      trapsB (st fly) (.nredMax, 0x80, nredMem .max) { fn := 2, ty := 2, dp := 2, a := .v 1, b := .v 2, c := .h 1 }) = true := by
  decide +kernel

theorem met_stream_forms : ∀ e ∈ (streamForms.map fun e => (e.1, 0x79, mmvMem e.2)), ∃ f, passesB windowed e f = true :=
  opForms_meet_any [fun f => { f with ty := 3, rm := 0 }, id] (p := passesB windowed) (by decide +kernel)

theorem met_waiting_memory :
    let s := (windowed.modKite 0 0 fun x => { x with tintv := 5 }).modCtx 0 fun x => { x with tints := [(5, { st := .fixing })] }
    let f : Fields := { ty := 2, a := .v 1, b := .mem 5 0 }
    (vecB (.vld f) 0x70 f s 0 0 && match vldMem f s 0 0 ((s.kite 0 0).capture f) with | .error (.wait _ _) => true | _ => false) =
      true := by decide +kernel

/-- Bool checks of `Quiet`, with an empty L1 and no late trap waiting, of `Reads`, and that an address is found. -/
def quietB (s : State) : Bool :=
  decide ((s.kite 0 0).tintv = 0 ∧ (s.kite 0 0).late = []) && (s.core 0).wp.isEmpty && (s.core 0).l1.isEmpty &&
    (dieStores s (dieOf 0)).isEmpty
def readsB (s : State) (sp va w : Nat) : Bool :=
  match foundAt s 0 sp va w false with
  | some p => sp != 0 || !(isGuest s.module (dieOf 0) p.cl p.a)
  | none => false
def writesB (s : State) (sp va w : Nat) : Bool := (foundAt s 0 sp va w true).isSome
def parksB (s : State) : Bool := decide ((s.kite 0 0).region = none ∧ (s.kite 0 0).late = [])

/-- The elements that an instruction takes. -/
def takenBy (s : State) (f : Fields) : List Nat :=
  (List.range (((s.kite 0 0).capture f).count f.ty.toNat)).filter ((s.kite 0 0).capture f).on

/-- Kites of 64-byte vectors whose scalar registers all hold an address, with spans or without. -/
def pointing (a : Nat) : State :=
  { windowed with crews := windowed.crews.mod 0 fun w => { w with kites := w.kites.mod 0 fun x =>
    { x with s := (List.range 32).map fun i => (i, BitVec.ofNat 64 a) } } }

theorem met_vector_accesses :
    ([(0, windowed), (1, pointing 0x1800)].all fun e =>
      let s := e.2
      let x := s.kite 0 0
      let f : Fields := { fn := BitVec.ofNat 4 e.1, ty := 2, a := .v 1, b := .mem 5 0, c := .none }
      let g : Fields := { fn := BitVec.ofNat 4 e.1, ty := 2, a := .mem 5 0, b := .v 1 }
      let fx : Fields := { ty := 2, xf := BitVec.ofNat 4 (2 * e.1), a := .v 1, b := .mem 5 0, c := .v 3 }
      let gx : Fields := { ty := 2, xf := BitVec.ofNat 4 (2 * e.1), a := .mem 5 0, b := .v 1, c := .v 3 }
      vecB (.vld f) 0x70 f s 0 0 && vecB (.vst g) 0x71 g s 0 0 && vecB (.vldx fx) 0x72 fx s 0 0 && vecB (.vstx gx) 0x73 gx s 0 0 &&
        quietB s && decide (x.tintv = 0 ∧ (x.capture fx).count 2 ≤ capOf x.mvlb (idxType fx) ∧ takenBy s f ≠ []) &&
        (takenBy s f).all fun i => readsB s e.1 (vecAddr x f f.b i) 4 && writesB s e.1 (vecAddr x g g.a i) 4 &&
          readsB s e.1 (idxAddr x fx fx.b i) 4 && writesB s e.1 (idxAddr x gx gx.a i) 4) = true := by decide +kernel

theorem met_first_faults :
    let f : Fields := { ty := 2, a := .v 1, b := .mem 5 0, c := .p 4 }
    let check := fun (base far : Nat) =>
      let s := pointing base
      vecB (.vldff f) 0x74 f s 0 0 && quietB s && parksB s && decide ((takenBy s f).length = 16) &&
        (List.range far).all (fun i => readsB s 0 (base + 4 * i) 4) && (far == 16 || (foundAt s 0 0 (base + 4 * far) 4 false).isNone)
    (check 0x010000001800 16 && check 0x010001FFFFE0 8 && check 0x010000001801 0 && check 0x1800 0 && check 0x010002000000 0 &&
      match spanXlat windowed 0 0 0x010002000000 false with | .error _ => true | .ok _ => false) = true := by decide +kernel

theorem met_block_accesses :
    ([(0, 0x010000001800, windowed), (1, 0x1800, pointing 0x1800)].all fun e => [0, 1].all fun n =>
      let s := e.2.2.modKite 0 0 fun x => { x with vlen := 20, s := x.s.set 7 (BitVec.ofNat 64 (e.2.1 + 0x100)) }
      let f : Fields := { ty := 8, xf := BitVec.ofNat 4 (2 * e.1 + n), a := .v 20, b := .mem 6 0, c := .s 7 }
      let g : Fields := { ty := 8, xf := BitVec.ofNat 4 (2 * e.1 + n), a := .mem 6 0, b := .v 20, c := .s 7 }
      let blocks := (takenBy s f).filter fun i => i % 32 == 0
      let places := (List.range 20).map (codeAddr e.2.1 <| 2 * ·) ++ blocks.map (fun i => scaleAddr (e.2.1 + 0x100) (n == 1) (i / 32)) ++
        if n = 1 then [] else blocks.map fun i => spareAddr (e.2.1 + 0x100) (i / 32)
      vecB (.vldb f) 0x75 f s 0 0 && vecB (.vstb g) 0x76 g s 0 0 && quietB s && decide (takenBy s f = List.range 40) &&
        decide (e.2.1 % 16 = 0 ∧ (e.2.1 + 0x100) % 2 = 0 ∧ (places.filterMap fun a => (foundAt s 0 e.1 a 1 true).map (·.a)).Nodup) &&
        places.all fun a => readsB s e.1 a 1 && writesB s e.1 a 1) = true := by decide +kernel

/-- Fields of a memory stream from s3 to s2, of s10 elements. -/
def streaming (f : Fields) : Fields := { f with a := .mem 2 0, b := .mem 3 0, c := .s 10 }

theorem met_stream_elements : ∀ g ∈ streamForms.map (·.1), ∃ f,
    ([(0, 1), (1, 2)].all fun e =>
      let s := windowed.modKite 0 0 fun x =>
        { x with s := x.s.set 10 (BitVec.ofNat 64 e.2), mmAct := e.1 != 0, mmIdx := e.1 }
      vecB (g f) 0x79 f s 0 0 && quietB s && decide (((s.kite 0 0).opd f.c).toNat = e.1 + 1)) = true ∧
    (let s := held windowed
     issuesB (g f) s 0 0 && quietB s && s.hold && !(movesQueued s 0 0) && decide ((s.kite 0 0).vq = [] ∧ 0 < ((s.kite 0 0).opd f.c).toNat) &&
       readsB s 0 0x010000001800 8 && (match foundAt s 0 0 0x010000001800 8 true with
         | some p => !(isGuest s.module (dieOf 0) p.cl p.a) | none => false)) = true ∧
    ([(2, 3), (3, 2)].all fun e =>
      let s := windowed.modKite 0 0 fun x => { x with s := (x.s.set e.1 0x1800).set 10 1 }
      vecB (g f) 0x79 f s 0 0 && quietB s && parksB s && (foundAt s 0 0 0x1800 1 false).isNone &&
        (foundAt s 0 0 0x010000001800 8 true).isSome) = true := by
  intro g hg
  obtain ⟨f, h⟩ := forms_meet (adj := streaming) (p := fun i f =>
    ([(0, 1), (1, 2)].all fun e =>
      let s := windowed.modKite 0 0 fun x =>
        { x with s := x.s.set 10 (BitVec.ofNat 64 e.2), mmAct := e.1 != 0, mmIdx := e.1 }
      vecB i 0x79 f s 0 0 && quietB s && decide (((s.kite 0 0).opd f.c).toNat = e.1 + 1)) &&
    ((let s := held windowed
     issuesB i s 0 0 && quietB s && s.hold && !(movesQueued s 0 0) && decide ((s.kite 0 0).vq = [] ∧ 0 < ((s.kite 0 0).opd f.c).toNat) &&
       readsB s 0 0x010000001800 8 && (match foundAt s 0 0 0x010000001800 8 true with
         | some p => !(isGuest s.module (dieOf 0) p.cl p.a) | none => false)) &&
    [(2, 3), (3, 2)].all fun e =>
      let s := windowed.modKite 0 0 fun x => { x with s := (x.s.set e.1 0x1800).set 10 1 }
      vecB i 0x79 f s 0 0 && quietB s && parksB s && (foundAt s 0 0 0x1800 1 false).isNone &&
        (foundAt s 0 0 0x010000001800 8 true).isSome)) (l := streamForms.map (·.1)) (by decide +kernel) g hg
  simp only [Bool.and_eq_true] at h
  exact ⟨f, h.1, by simpa only [Bool.and_eq_true] using h.2.1, h.2.2⟩

theorem met_loads_under_way :
    let s := held windowed
    let x := s.kite 0 0
    let f : Fields := { ty := 2, a := .v 1, b := .mem 5 0 }
    let fx : Fields := { ty := 2, a := .v 1, b := .mem 5 0, c := .v 3 }
    let fb : Fields := { ty := 8, a := .v 20, b := .mem 6 0, c := .s 7 }
    let ff : Fields := { ty := 2, a := .v 1, b := .mem 5 0, c := .p 4 }
    let fr : Fields := { ty := 2, a := .v 1, b := .v 2, c := .v 3 }
    let u := s.modKite 0 0 fun y => { y with binds := [(2, { addr := 0x010000001800, ty := 2, xf := 2, aux := 4 })] }
    (issuesB (.vldff ff) s 0 0 && okWith (vldffPlan ff s 0 0 (x.capture ff)) (fun _ => true) &&
      issuesB (.vadd fr) u 0 0 && (u.kite 0 0).mayTrail 0x50 fr && ((u.kite 0 0).binds.find 2).isSome && (vecReads 0x50 fr).contains 2 &&
      okWith (planStreams u 0 0 ((u.kite 0 0).capture fr) (vecReads 0x50 fr)) (fun bs => bs.length == 16) &&
      (vecFixing u 0 0 0).isNone && u.hold && !(movesQueued u 0 0) && !((u.kite 0 0).undispatched)) = true ∧
    (issuesB (.vld f) s 0 0 && issuesB (.vldx fx) s 0 0 && issuesB (.vldb fb) s 0 0 && s.hold && !(movesQueued s 0 0) &&
      decide (x.vq = [] ∧ x.binds = [] ∧ x.undispatched = false) && okWith (vldPlan f s 0 0 (x.capture f)) (fun _ => true) &&
      okWith (vldxPlan fx s 0 0 (x.capture fx)) (fun _ => true) && okWith (vldbPlan fb s 0 0 (x.capture fb)) (fun _ => true) &&
      !(kiteOrphan s 0 x) && !(viewFixing s 0 0) && (takenBy s f).all fun i => (foundAt s 0 0 (vecAddr x f f.b i) 4 false).isSome) =
      true := by decide +kernel

/-- A kite with three or four streams, one of them of v9 in the second. -/
def bound (l : List Nat) : Kite := { fly with binds := l.map fun r => (r, { ty := 2, xf := 2 }) }

theorem met_bindings :
    let f : Fields := { ty := 2, xf := 2, a := .v 9, b := .mem 5 0 }
    let g : Fields := { a := .v 9 }
    ([[1, 2, 3], [1, 2, 3, 9], [1, 2, 3, 4]].all fun l =>
      vecB (.vbind f) 0x77 f (st (bound l)) 0 0 && vecB (.vunbind g) 0x78 g (st (bound l)) 0 0 &&
        decide (((bound l).binds.find 9).isSome = (l == [1, 2, 3, 9]))) = true := by decide +kernel

/-- A check of `ShapeFits` for a register. -/
def fitsB (s : State) (r dp n : Nat) : Bool :=
  match (s.kite 0 0).linked r with
  | none => dp == 0
  | some h => decide (dp ≤ h.depth) && h.lv.all (fun o => decide (o.length - 1 ≤ (s.kite 0 0).levelCap)) && h.extent == n

/-- The machine `nested` with the shape h0, and with an open carry at depth 1. -/
def shaped (h : Shape) : State :=
  nested.modKite 0 0 fun x => { x with h := x.h.set 0 h, k := x.k.set 1 { opn := true } }

/-- The shape of two rows that begins in an open segment and ends in one. -/
def openRows : Shape := { lv := [[0, 8, 16]], openIn := 2, openOut := 2 }

/-- The segments that a reduction of v[B] reads, in order and apart. -/
def apartB (s : State) (f : Fields) : Bool := decide ((redSource (s.kite 0 0) f).segs.Pairwise fun e d => e.2 ≤ d.1)

theorem met_reductions :
    (∀ g ∈ reduceForms.map (·.1), ∃ f, ([(nested, 2), (shaped openRows, 1)].all fun e =>
      vecB (g f) 0x80 f e.1 0 0 && fitsB e.1 (opdValue f.b) f.dp.toNat 16 && decide ((redSource (e.1.kite 0 0) f).n = 16) &&
        decide (f.ty.toNat < 8 ∧ e.2 ≤ capOf 64 2 ∧ (redSource (e.1.kite 0 0) f).segs.length = 2) &&
        (((e.1.kite 0 0).linked (opdValue f.b)).any fun h => bit h.openOut f.dp.toNat == decide (e.2 = 1))) = true) ∧
    (∀ g ∈ scanForms.map (·.1), ∃ f, ([nested, shaped openRows].all fun s =>
      vecB (g f) 0x81 f s 0 0 && fitsB s (opdValue f.b) f.dp.toNat 16 && apartB s f && decide (f.ty.toNat < 8)) = true) :=
  ⟨forms_meet (adj := fun f => { f with dp := 1, ty := 2, rm := 0 }) (p := fun i f => [(nested, 2), (shaped openRows, 1)].all fun e =>
      vecB i 0x80 f e.1 0 0 && fitsB e.1 (opdValue f.b) f.dp.toNat 16 && decide ((redSource (e.1.kite 0 0) f).n = 16) &&
        decide (f.ty.toNat < 8 ∧ e.2 ≤ capOf 64 2 ∧ (redSource (e.1.kite 0 0) f).segs.length = 2) &&
        (((e.1.kite 0 0).linked (opdValue f.b)).any fun h => bit h.openOut f.dp.toNat == decide (e.2 = 1))) (by decide +kernel),
    forms_meet (adj := fun f => { f with dp := 1, ty := 2, rm := 0 }) (p := fun i f => [nested, shaped openRows].all fun s =>
      vecB i 0x81 f s 0 0 && fitsB s (opdValue f.b) f.dp.toNat 16 && apartB s f && decide (f.ty.toNat < 8)) (by decide +kernel)⟩

theorem met_distribute_pack_sort :
    ([0, 1].all fun dp =>
      let f : Fields := { ty := 2, dp := BitVec.ofNat 2 dp, a := .v 7, b := .v 6, c := .h 0 }
      let g : Fields := { f with c := .v 14 }
      vecB (.ndist f) 0x83 f nested 0 0 && fitsB nested 6 dp 16 && apartB nested f && decide (2 ≤ capOf 64 2) &&
        vecB (.nsort g) 0x87 g nested 0 0) = true ∧
    (let f : Fields := { ty := 2, a := .v 3, b := .v 4, c := .h 1 }
     vecB (.npack f) 0x82 f nested 0 0 && fitsB nested 4 0 16) = true ∧
    ([(nested, 0), (nested, 1), (shaped { lv := [[0, 1, 2], [0, 8, 16]] }, 1), (shaped { lv := [[0, 1, 2], [0, 8, 16]] }, 2)].all
      fun e =>
        let f : Fields := { ty := 2, dp := BitVec.ofNat 2 e.2, a := .v 1, b := .v 1, c := .h 0 }
        vecB (.nflat f) 0x86 f e.1 0 0 && fitsB e.1 1 e.2 16) = true := by decide +kernel

theorem met_nest :
    ([({ lv := [[0, 1], [0, 1], [0, 16]] }, 2, 0), ({}, 0, 0), ({}, 2, 2 ^ 31), ({ lv := [[0, 8]] }, 2, 0),
        ({ lv := [[0, 8, 16]] }, 2, 1), ({}, 2, 1)].all fun (e : Shape × Nat × Nat) =>
      let s := (shaped e.1).modKite 0 0 fun x => { x with v := x.v.set 2 { data := e.2.2 } }
      let f : Fields := { ty := BitVec.ofNat 4 e.2.1, a := .h 1, b := .v 2, c := .h 0 }
      let n := ((s.kite 0 0).capture f).count e.2.1
      vecB (.nnest f) 0x85 f s 0 0 && decide (n = if e.2.1 = 0 then 64 else 16) &&
        e.1.lv.all (fun o => decide (o.length - 1 ≤ (s.kite 0 0).levelCap)) &&
        decide ((((List.range n).map fun i => ((s.kite 0 0).vget 2).elem e.2.1 i).sum ≤ 65535) = (e.2.2 ≤ 65535))) = true := by
  decide +kernel

/-- The machine with an image at 0x1800 that the kite reads, and the value of s6. -/
def imaged (bs : List Byte) (from_ : Nat) : State :=
  { nested.modKite 0 0 fun x => { x with s := x.s.set 6 (BitVec.ofNat 64 from_) } with
    mem := memWrite nested.mem (codePa + 0x4800) bs }

/-- An image of depth 1 with the given offsets. -/
def image1 (o : List Nat) : List Byte := [1, 0] ++ toBytes 2 (o.length - 1) ++ [0, 0, 0, 0] ++ o.flatMap (toBytes 2)

theorem met_shape_loads :
    ([(image1 [0, 8, 16], 0), (image1 [0, 9, 8], 0), (image1 [1, 8, 16], 0), (image1 (List.replicate 17 0 ++ [16]), 0),
        (image1 [0, 8, 16], 1), (1 :: 0x11 :: (image1 [0, 8, 16]).drop 2, 0)].all fun e =>
      [{ ty := 2, a := .h 0, b := .mem 8 0 }, { ty := 2, a := .h 0, b := .mem 8 0, c := .s 6 }].all fun (f : Fields) =>
        let s := imaged e.1 e.2
        let x := s.kite 0 0
        vecB (.nshld f) 0x88 f s 0 0 && okWith (readImageAt s 0 0 f.rd.toNat (x.memAddr f.b)) fun r =>
          decide (imageBytes r.2.1 = e.1)) = true := by decide +kernel

theorem met_held_image :
    let s := held (imaged (image1 [0, 8, 16]) 0)
    let f : Fields := { ty := 2, a := .h 0, b := .mem 8 0 }
    (issuesB (.nshld f) s 0 0 && s.hold && decide ((s.kite 0 0).vq = []) && !(movesQueued s 0 0) &&
      okWith (nshldPlan f s 0 0 ((s.kite 0 0).capture f)) fun r => decide (r.1.was.length = 7)) = true := by decide +kernel

set_option synthInstance.maxSize 1000 in
/-- The rule of an image can be decided. -/
def imageRuleDecides (w : Bool) (img : List Byte) (p : Nat) : Decidable (ImageRule w img p) := by
  unfold ImageRule
  dsimp only
  infer_instance

/-- The first of those images is good, and the others have a bad byte. -/
theorem met_images : (∀ p < 14, ∀ w, ImageRule w (image1 [0, 8, 16]) p) ∧
    ∀ e ∈ [(false, image1 [1, 8, 16], 8), (false, image1 [0, 9, 8], 12), (true, 1 :: 0x11 :: (image1 [0, 8, 16]).drop 2, 1)],
      ¬ ImageRule e.1 e.2.1 e.2.2 := by
  have good : ((List.range 14).all fun p => [false, true].all fun w =>
      @decide _ (imageRuleDecides w (image1 [0, 8, 16]) p)) = true := by decide +kernel
  have bad : ([(false, image1 [1, 8, 16], 8), (false, image1 [0, 9, 8], 12),
      (true, 1 :: 0x11 :: (image1 [0, 8, 16]).drop 2, 1)].all fun e =>
      !(@decide _ (imageRuleDecides e.1 e.2.1 e.2.2))) = true := by decide +kernel
  refine ⟨fun p hp w => ?_, fun e he => ?_⟩
  · have h := List.all_eq_true.1 (List.all_eq_true.1 good p (List.mem_range.2 hp)) w (by cases w <;> simp)
    exact @of_decide_eq_true _ (imageRuleDecides _ _ _) h
  · have h := List.all_eq_true.1 bad e he
    exact @of_decide_eq_false _ (imageRuleDecides _ _ _) (by simpa using h)

theorem met_shape_stores :
    (let f : Fields := { a := .mem 20 40, b := .h 0 }
     let x := nested.kite 0 0
     vecB (.nshst f) 0x89 f nested 0 0 && !(kiteOrphan nested 0 x) && decide (x.memAddr f.a % 8 = 0) &&
       (x.h.get 0).lv.all (fun o => decide (o.length - 1 ≤ x.levelCap)) &&
       okWith (imageXlat nested 0 0 (x.memAddr f.a) (x.h.get 0).image) (fun r => okWith (vecReserve r.2 0 0 0 r.1) fun _ => true) &&
       vecB (.nshst { f with a := .mem 20 41 }) 0x89 { f with a := .mem 20 41 } nested 0 0 &&
       (let s := nested.modKite 0 0 fun x => { x with tintv := 5 }
        vecB (.nshst f) 0x89 f s 0 0 && kiteOrphan s 0 (s.kite 0 0)) &&
       (let s := nested.modKite 0 0 fun x => { x with mvlb := 4 }
        vecB (.nshst f) 0x89 f s 0 0 && decide ((s.kite 0 0).levelCap < 2))) = true ∧
    (let h : Shape := openRows
     decide (h.depth ≤ 3 ∧ h.openIn < 16 ∧ h.openOut < 16) &&
       h.lv.all fun o => decide (o ≠ [] ∧ o.length ≤ 2 ^ 16) && o.all fun u => decide (u < 2 ^ 16)) = true := by decide +kernel

theorem met_routing :
    let f : Fields := { ty := 13, dp := 1, xf := 1, a := .v 4, b := .v 6, c := .v 9 }
    let x := nested.kite 0 0
    (vecB (.spsrch f) 0x9B f nested 0 0 && decide (x.linked 6 = some { lv := [[0, 8, 16]] } ∧ ({ lv := [[0, 8, 16]] } : Shape).depth = 1) &&
      decide ((x.capture f).count 13 = 16 ∧ ({ lv := [[0, 8, 16]] } : Shape).ranges 1 = [(0, 8), (8, 16)] ∧ 4 ≤ capOf 64 6) &&
      decide ((nested.crew 0).ctr = [] ∧ ({ lv := [[0, 8, 16]] } : Shape).extent = 16) && fitsB nested 6 1 16) = true := by
  decide +kernel

theorem met_lengths_and_carries :
    (let f : Fields := { ty := 6, dp := 1, a := .v 7, b := .h 1 }
     let x := nested.kite 0 0
     vecB (.nlen f) 0x84 f nested 0 0 && decide (1 ≤ (x.h.get 1).depth) &&
       ((x.h.get 1).lv.take 1).all (fun o => decide (o.length - 1 ≤ x.levelCap)) &&
       decide ((x.h.get 1).count 1 ≤ capOf x.mvlb 6) && (x.capture f).on 1) = true ∧
    ([0, 1].all fun j =>
      let f : Fields := { a := .s 9, b := .k 1, c := .uimm j }
      let g : Fields := { a := .k 2, b := .s 9, c := .uimm j }
      vecB (.nkrd f) 0x8A f (st fly) 0 0 && vecB (.nkwr g) 0x8B g (st fly) 0 0) = true := by decide +kernel

/-! The matrix array. -/

/-- An operand record of S8 in the scratchpad: K extent, base, 4 rows of 64 bytes. -/
def s8Record (k base : Nat) : Nat := 2 ^ 40 + k * 2 ^ 112 + 4 * 2 ^ 128 + 2 ^ 144 + 64 * 2 ^ 160 + base * 2 ^ 192

/-- The machine with a tile granted at accumulator 0, a queue of it, and records m4 and m5. -/
def tiled (e : Tile) (q : List MatOp) (x : Kite) : State :=
  (at100 (st x)).modCrew 0 fun w =>
    { w with tiles := [(0, e)], tq := [(0, q)], recs := [(4, s8Record 64 0), (5, s8Record 64 0x800)] }

/-- A tile of kite 0, 2 by 2 of S32, and an mma of it with the given L record. -/
def tile0 : Tile := { owner := some 0, m := 2, n := 2, at_ := 2 }
def mma0 (l : Nat) : MatOp := { l := l, r := s8Record 64 0x800, owner := 0 }

theorem met_tile_grants :
    let f : Fields := { ty := 2, xf := 1, a := .s 5, b := .a 0, c := .s 6 }
    ([(2 ^ 32, 255), (0x00180080, 255), (0x00180080, 0), (0x00180000, 255), (0x00000080, 255)].all fun e =>
      let s := (tiled tile0 [] { fly with s := [(6, BitVec.ofNat 64 e.1)] }).modCrew 0 fun w => { w with colGood := e.2 }
      let w := s.crew 0
      issuesB (.tshapeCore f) s 0 0 && !(w.tileBusy 0 (w.tshapeParts 0 0 true)) &&
        (w.tshapeParts 0 0 true).all (fun t => (w.tiles.get t).owner.isNone || (w.tiles.get t).owner == some 0) &&
        decide (w.groups = 0 ↔ e.2 = 0) && decide (((s.kite 0 0).opd f.c).toNat = e.1)) = true ∧
    (let s := tiled { tile0 with owner := some 1 } [] fly
     let w := s.crew 0
     issuesB (.tshapeCore f) s 0 0 && !(w.tileBusy 0 (w.tshapeParts 0 0 true)) &&
       decide ((w.tiles.get 0).owner = some 1 ∧ 0 ∈ w.tshapeParts 0 0 true)) = true := by decide +kernel

/-- The flight of core 0 with arrivals or answers of tshape.flight on accumulator 2. -/
def collective (q : Nat) (ps : List TsPart) (ds : List TsDone) : State :=
  (st { fly with s := [(6, BitVec.ofNat 64 q)] }).modFlight 0 fun f =>
    { f with cores := [0, 1], tsArr := [(2, ps)], tsDone := [(2, ds)] }

theorem met_collective_grant :
    let f : Fields := { fn := 1, ty := 2, a := .s 5, b := .a 2, c := .s 6 }
    let one : Nat := 2 ^ 36 + 2 ^ 32 + 2 ^ 18 + 3
    let free := fun (s : State) => !((s.crew 0).tileBusy 0 ((s.crew 0).tshapeParts 0 2 false))
    (issuesB (.tshapeFlight f) (collective one [] [{ core := 0, kite := 0, word := 7 }]) 0 0 &&
      decide (tsAnswer (collective one [] [{ core := 0, kite := 0, word := 7 }]) 0 0 2 = some 7)) = true ∧
    (issuesB (.tshapeFlight f) (collective one [{ core := 0, kite := 0 }] []) 0 0 &&
      decide (tsAnswer (collective one [{ core := 0, kite := 0 }] []) 0 0 2 = none)) = true ∧
    (issuesB (.tshapeFlight f) (collective 0 [] []) 0 0 && badGrid 0 2 && free (collective 0 [] []) &&
      decide (tsAnswer (collective 0 [] []) 0 0 2 = none)) = true ∧
    (issuesB (.tshapeFlight f) (collective one [{ core := 1, kite := 3 }] []) 0 0 && !(badGrid one 2) &&
      free (collective one [{ core := 1, kite := 3 }] []) && decide (reqPR one = 0 ∧ reqPC one = 0)) = true ∧
    (issuesB (.tshapeFlight f) (collective one [] []) 0 0 && free (collective one [] []) &&
      decide (reqGR one = 1 ∧ reqGC one = 1 ∧ one < 2 ^ 48 ∧ opdValue f.a ≠ 0) &&
      okWith ((((collective one [] []).crew 0)).decide 0 [2] false one) fun r => decide (r = (3, 4))) = true := by
  decide +kernel

/-- The machine with a record at 0x1800 that a kite reads. -/
def recorded (r : Nat) (x : Kite) : State :=
  { st x with mem := memWrite (codeTables []) (codePa + 0x4800) (toBytes 32 r) }

theorem met_operand_records :
    let f : Fields := { a := .m 2, b := .mem 4 0 }
    let g : Fields := { f with c := .s 5 }
    let h : Fields := { f with b := .mem 4 1 }
    (issuesB (.mrec f) (st orphan) 0 0 && kiteOrphan (st orphan) 0 orphan && issuesB (.mrec h) (st fly) 0 0 &&
      decide (fly.memAddr h.b % 32 = 1)) = true ∧
    ([s8Record 64 0, s8Record 64 0 + 2 ^ 38].all fun r =>
      let s := recorded r fly
      issuesB (.mrec f) s 0 0 && issuesB (.mrec g) s 0 0 && !(kiteOrphan s 0 fly) &&
        okWith (recLoad s 0 0 (fly.memAddr f.b) f.rd.toNat) fun q => decide (q.1 = r ∧ r < 2 ^ 256)) = true ∧
    (s8Record 64 0).testBit 38 = false ∧ s8Record 64 0 / 2 ^ 40 % 16 = 1 := by decide +kernel

set_option synthInstance.maxSize 1000 in
/-- The rule of a record can be decided. -/
def recordRuleDecides (r j : Nat) : Decidable (RecordRule r j) := by
  unfold RecordRule
  dsimp only
  infer_instance

/-- The record of S8 is good; that of a type that is not in the table has its lowest bad field at bit 44. -/
theorem met_record_rules : (∀ e ∈ [(s8Record 64 0, 256), (s8Record 64 0 + 2 ^ 44, 44)], ∀ j < e.2, RecordRule e.1 j) ∧
    ¬ RecordRule (s8Record 64 0 + 2 ^ 44) 44 := by
  have good : ([(s8Record 64 0, 256), (s8Record 64 0 + 2 ^ 44, 44)].all fun e =>
      (List.range e.2).all fun j => @decide _ (recordRuleDecides e.1 j)) = true := by decide +kernel
  refine ⟨fun e he j hj => ?_, ?_⟩
  · have h := List.all_eq_true.1 (List.all_eq_true.1 good e he) j (List.mem_range.2 hj)
    exact @of_decide_eq_true _ (recordRuleDecides _ _) h
  · exact @of_decide_eq_false _ (recordRuleDecides _ _) (by decide +kernel)

theorem met_matrix_issue :
    (let f : Fields := { a := .a 0, b := .m 4, c := .m 5 }
     let s := tiled tile0 (List.replicate 3 (mma0 0)) fly
     let w := s.crew 0
     issuesB (.mma f) s 0 0 && !(kiteOrphan s 0 fly) && !(w.refuses 0 0) && !(w.isMate 0) && decide ((w.tiles.get 0).at_ = 2) &&
       decide (recTy (w.recs.get 4) = 0 ∧ recTy (w.recs.get 5) = 0 ∧ recKExt (w.recs.get 5) = recKExt (w.recs.get 4)) &&
       decide ((w.tq.get 0).length = 3) && !(w.engineOn [0]) &&
       issuesB (.mma f) (tiled { tile0 with owner := some 1 } [] fly) 0 0 &&
       issuesB (.mma f) (tiled tile0 (List.replicate 4 (mma0 0)) fly) 0 0 &&
       issuesB (.mma f) (tiled { tile0 with at_ := 13 } [] fly) 0 0 &&
       issuesB (.mma { f with xf := 4 }) s 0 0 && decide ((w.tiles.get 0).gr = 0)) = true ∧
    ([(s8Record 64 0 + 9 * 2 ^ 44, s8Record 64 0), (s8Record 64 0, s8Record 64 0 + 9 * 2 ^ 44), (s8Record 64 0, s8Record 32 0)].all
      fun e =>
        let f : Fields := { a := .a 0, b := .m 4, c := .m 5 }
        let s := (tiled tile0 [] fly).modCrew 0 fun w => { w with recs := [(4, e.1), (5, e.2)] }
        issuesB (.mma f) s 0 0 && decide (¬ (recTy e.1 = 0 ∧ recTy e.2 = 0 ∧ recKExt e.2 = recKExt e.1))) = true ∧
    ([(0, 1), (1, 0), (1, 1)].all fun e =>
      let f : Fields := { a := .a 0, b := .m 4, c := .m 5 }
      let rec_ := fun (sp : Nat) => s8Record 64 0 - 2 ^ 40 + sp * 2 ^ 40
      let s := (tiled tile0 [] orphan).modCrew 0 fun w => { w with recs := [(4, rec_ e.1), (5, rec_ e.2)] }
      issuesB (.mma f) s 0 0 && kiteOrphan s 0 orphan && decide (recSpace (rec_ e.1) = e.1 ∧ recSpace (rec_ e.2) = e.2)) = true ∧
    ([[], [mma0 0]].all fun q =>
      let s := tiled tile0 q fly
      issuesB (.mwait {}) s 0 0 && issuesB (.mwait { a := .a 0 }) s 0 0 && decide (((s.crew 0).tiles.get 0).owner = some 0) &&
        ((s.crew 0).queuedFor 0 (some ((s.crew 0).tileBase 0)) == !q.isEmpty) && ((s.crew 0).queuedFor 0 none == !q.isEmpty)) =
      true := by decide +kernel

theorem met_accumulator_moves :
    let s := tiled tile0 [] { fly with s := [(3, 3)] }
    let w := s.crew 0
    ((w.tiles.get 0).owner = some 0 ∧ w.isMate 0 = false ∧ w.tq.get 0 = [] ∧ w.engineOn [0] = false ∧
      (s.kite 0 0).undispatched = false ∧ (s.kite 0 0).binds = [] ∧ (w.tiles.get 0).at_ = 2 ∧ (w.tiles.get 0).pair = false) ∧
    (issuesB (.macczero { a := .a 0 }) s 0 0 && issuesB (.maccrd { ty := 2, a := .v 8, b := .a 0, c := .s 3 }) s 0 0 &&
      issuesB (.maccwr { ty := 2, a := .a 0, b := .v 8, c := .s 3 }) s 0 0) = true := by decide +kernel

theorem met_block_sum :
    let as : List Int := (List.range 32).map fun (i : Nat) => (i : Int) - 16
    as.length = as.length ∧ 1 ≤ as.length ∧ as.length ≤ 32 ∧
      ({ els := as.map fun v => FNum.num (Dy.ofInt v), exp := 0, ok := true, fl := 0 } : BlockRow).els =
        as.map fun v => FNum.num (Dy.ofInt v) := by decide +kernel

/-- The machine with an mma of kite 0 whose K block is to run: its left record, its block, and its view. -/
def blocking (l kb v : Nat) (x : Kite) : State := tiled tile0 [{ mma0 l with kb := kb, cleared := true, view := v }] x

theorem met_blocks_run :
    ([(s8Record 64 0, true, 0), (s8Record 32 0, true, 0), (s8Record 64 2097151, false, 0), (s8Record 64 0, true, 1)].all fun e =>
      let m : MatOp := { mma0 e.1 with kb := e.2.2, cleared := true }
      let s := blocking e.1 e.2.2 0 fly
      let s1 := blockStart s 0 0 m
      let l := readsCheck s1 0 m.l (leftRows s 0 0 m)
      let r := readsCheck l.1 0 m.r (rightRows s 0 0 m)
      decide ((s.crew 0).tq.get 0 = [m] ∧ m.op = 0x92 ∧ m.stopped = false ∧ m.global = false ∧ m.kb < m.blocks) &&
        linesReady s 0 0 m && !((s.crew 0).engineOn [0]) && !((s.crew 0).mmaLeft m.owner (m.age + 1)) && !((s.ctx 0).orphaned m.view) &&
        decide (l.2 = none ↔ e.2.1 = true) && decide (r.2 = none) && decide ((lowerFail l.2 r.2).isSome = !e.2.1) &&
        decide (m.kb + 1 = m.blocks ↔ (e.1 = s8Record 32 0 ∨ e.2.2 = 1)) &&
        decide ((s.kite 0 m.owner).st = .flying ∧ (s.kite 0 m.owner).region = none ∧ (s.kite 0 m.owner).wait ≠ .rewind ∧ (s.kite 0 m.owner).midway = false)) = true ∧
    (let s := blocking (s8Record 64 0 - 2 ^ 40) 0 5 fly
     let m := ((s.crew 0).tq.get 0).headD {}
     linesReady s 0 0 m && m.global && !(viewFixing s 0 5) && (s.ctx 0).orphaned 5 && !((s.crew 0).mmaLeft 0 (m.age + 1)) &&
       !((s.crew 0).engineOn [0]) && decide (m.kb < m.blocks)) = true := by decide +kernel

theorem met_matrix_timeout :
    (let m : MatOp := { mma0 0 with f := { xf := 4 }, since := 4 }
     let s := ((tiled { tile0 with gr := 1, gc := 2 } [m] fly).modCrew 1 fun w =>
         { w with tiles := [(0, { tile0 with gr := 1, gc := 2, pc := 1 })], kites := [(0, fly)] }).modFlight 0 fun f => { f with cores := [0, 1] }
     let s := { s with dies := [(0, { cycle := 4100 })] }
     decide ((s.crew 0).tq.get 0 = [m]) && m.mcast && !(linesReady s 0 0 m) && decide (m.since + 4096 ≤ s.cycle 0)) = true := by
  decide +kernel
/-! Steps, invariants, the reel. -/

/-- A check of `ReelTurns`. -/
def reelB (s : State) (c : Nat) : Bool := decide (s.cur = .reel c) && s.hasCrew c && !(s.crew c).ending

theorem reel_of {s : State} {c : Nat} (h : reelB s c = true) : ReelTurns s c := by
  simp only [reelB, Bool.and_eq_true, decide_eq_true_eq, Bool.not_eq_true'] at h
  exact ⟨h.1.1, h.1.2, h.2⟩

/-- The machine at the turn of a reel, beside kite 0. -/
def rst (r : Reel) (x : Kite) : State := (({ st x with cur := .reel 0 } : State)).modReel 0 fun _ => r

/-- A reel at the code page whose registers hold an address in it, but for x5 and x6. -/
def reel0 : Reel :=
  { pc := 0x1000, x := (List.range 32).map fun i => (i, if i = 5 then 3 else if i = 6 then 1 else 0x1800) }

/-- The step of a kite at a word of its block. -/
def kiteStep (w : CWord) (bad : List Nat) (rep : Bool) : State :=
  { st { fly with buf0 := { blk with words := [w, vaddWord], bad := bad }, repRun := rep } with moves := [.kite 0 0 false] }

theorem met_kite_steps :
    (let s := kiteStep 0x010000001180010800110000 [] false
     s.crewRuns 0 && decide ((s.kite 0 0).st = .flying ∧ (s.kite 0 0).yielded = false) &&
       (decodeKite 0x010000001180010800110000).isSome) = true ∧
    (decodeKite 0).isNone = true ∧ (kiteStep 0 [] false).crewRuns 0 = true ∧
    (let s := kiteStep 0 [0] false
     decide (0 ∈ slotLines 0 ∧ 0 ∈ ((s.kite 0 0).buf 0).bad)) = true ∧
    (let s := kiteStep 0x420000001280014000C00010 [] true
     (s.kite 0 0).repRun && (match (s.kite 0 0).nextPos with | .ok p => decide (p = (0, 1)) | .error _ => false) &&
       decide (((s.kite 0 0).buf 0).words[1]? = some vaddWord) && (decodeKite vaddWord).isSome) = true := by decide +kernel

theorem met_late_miss :
    (let s := { st { last with resume := .after } with moves := [.kite 0 0 false] }
     s.crewRuns 0 && decide ((s.kite 0 0).st = .flying ∧ (s.kite 0 0).yielded = false ∧ (s.kite 0 0).resume = .after) &&
       !((s.kite 0 0).buf0.refill) && !((s.kite 0 0).buf1.refill) &&
       match (s.kite 0 0).nextPos with | .ok _ => false | .error _ => true) = true := by decide +kernel

/-- The step of a reel whose code holds a word, with an event posted or not. -/
def reelStep (w : RWord) (es : List Event) : State :=
  let s := (rst { reel0 with uev := 4 } (Kite.launch 0 512)).modCrew 0 fun c => { c with events := es }
  { s with mem := memWrite s.mem (codePa + 0x4000) (toBytes 4 w.toNat), moves := [.reel 0] }

theorem met_reel_steps :
    ([(0x003100B3#32, true), (0#32, false)].all fun e =>
      let s := reelStep e.1 []
      let r := settleReel { s with moves := [], cur := .reel 0 } 0
      s.crewRuns 0 && !(s.crew 0).ending && !r.2 && okWith (reelFetch r.1 0) fun f =>
        decide (f.1 = e.1) && ((decodeReel f.1).isSome == e.2)) = true ∧
    (settleReel { reelStep 0 [{ cause := 1 }] with moves := [], cur := .reel 0 } 0).2 = true := by decide +kernel

theorem met_other_steps :
    isEvent .kBlock = true ∧ ({ st fly with moves := [.event .kBlock {}] } : State).moves = .event .kBlock {} :: [] ∧
    (st fly).moves = [] := by decide +kernel

theorem met_invariants : (st fly).memOk ∧ (st fly).onChipOk ∧ (st fly).crewsOk ∧ ∃ t, step (st fly) = .next t := by
  refine ⟨?_, ?_, ?_, ⟨_, rfl⟩⟩
  · unfold State.memOk; decide +kernel
  · unfold State.onChipOk Crew.memOk; decide +kernel
  · unfold State.crewsOk; decide +kernel

theorem met_reel_turn : ReelTurns (rst reel0 fly) 0 ∧ (rst reel0 fly).hasCrew 0 = true :=
  ⟨reel_of (by decide +kernel), by decide +kernel⟩

theorem met_transfers :
    (∀ imm ∈ [(2 : Int), 1], ((((reel0.pc : Int) + 2 * imm) % 2 ^ 64).toNat % 4 = 0 ↔ imm = 2)) ∧
    (((reel0.xget 7).toNat : Int) + 3) / 2 * 2 % 2 ^ 64 % 4 ≠ 0 ∧ (((reel0.xget 7).toNat : Int) + 1) / 2 * 2 % 2 ^ 64 % 4 = 0 ∧
    rvCond .beq (reel0.xget 7) (reel0.xget 8) ∧ ¬ rvCond .beq (reel0.xget 5) (reel0.xget 6) ∧
    rvCond .bltu (reel0.xget 6) (reel0.xget 5) ∧ ¬ rvCond .bltu (reel0.xget 7) (reel0.xget 8) := by
  unfold rvCond; decide +kernel

theorem met_reel_accesses :
    (reel0.xget 7 + wordOf 1).toNat % 8 ≠ 0 ∧ (reel0.xget 7 + wordOf (-8)).toNat % 8 = 0 ∧
    reelOrphan (rst { reel0 with view := 5 } fly) 0 = true ∧ reelB (rst { reel0 with view := 5 } fly) 0 = true ∧
    reelOrphan (rst reel0 fly) 0 = false ∧
    okWith (reelXlat (rst reel0 fly) 0 0x17F8 .load) (fun _ => true) = true ∧
    okWith (reelXlat (rst reel0 fly) 0 0x17F8 .store) (fun r => decide ((r.2.ctx (r.2.crew 0).ctx).resolve (r.2.reelOf 0).view = 0 ∧
      (r.2.reelOf 0).relNext = none)) = true := by decide +kernel

/-- The reel under tint 5 in a state, with versions of the line that it stores to, and its page at an address. -/
def tintedReel (t : TState) (vs : List Version) (pa : Nat) : State :=
  let s := (rst { reel0 with view := 5 } fly).modCtx 0 fun x => { x with tints := [(5, { st := t, depth := 1 })] }
  { s with vers := vs, mem := memWrite s.mem (codePa + 0x3008) (toBytes 8 (pa + 5 + 2 ^ 58 + 2 ^ 59)) }

theorem met_tinted_reel :
    (reelFixing (tintedReel .fixing [] (codePa + 0x4000)) 0 && reelB (tintedReel .fixing [] (codePa + 0x4000)) 0) = true ∧
    ([(0, codePa + 0x4000), (0, hostBase + 0x4000), (4, codePa + 0x4000)].all fun e =>
      let line := lineOf (e.2 + 0x7F8)
      let s := tintedReel .live (List.replicate e.1 { ctx := 1, tint := 1, line := line }) e.2
      reelB s 0 && !(reelOrphan s 0) && okWith (reelXlat s 0 0x17F8 .store) fun r =>
        decide (onModule r.1.a = decide (e.2 < hostBase)) && decide (((r.2.ctx 0).resolve (r.2.reelOf 0).view) = 5) &&
          (match reserve r.2 0 5 [lineOf r.1.a] with | .ok _ => e.1 == 0 | .error _ => e.1 == 4)) = true := by decide +kernel

/-- The machine with HBM, and the page 0x2000 of the context in it; the reel's registers point there. -/
def hbmState (res : List (Nat × Resv)) : State :=
  let s := rst { reel0 with x := (List.range 32).map fun i => (i, 0x2008) } fly
  { s with mem := memWrite s.mem (codePa + 0x3010) (toBytes 8 (0x10000 + 5 + 2 ^ 59)), resvs := res
           module := { lpddr := true, hbm := true } }

theorem met_reel_atomics :
    ([[], [(0, ({ addr := 0x10008, n := 8 } : Resv))]].all fun res =>
      let s := hbmState res
      reelB s 0 && okWith (rvAmoCheck s 0 0x2008 8 true false) (fun r => decide (r.1 = 0x10008)) &&
        okWith (rvAmoCheck s 0 0x2008 8 false false) (fun r => decide (r.1 = 0x10008 ∧ (r.2.core 0).wp = [] ∧ dieStores r.2 (dieOf 0) = [] ∧ pkind r.1 = .hbm ∧
          r.1 + 8 ≤ lpddrBase ∧ Memory.wf r.2.mem = true ∧ (r.2.resvs.find 0 = some { addr := 0x10008, n := 8 } ↔ res ≠ []))) &&
        okWith (rvAmoCheck s 0 0x2008 8 false (rvAmoOnHost .min)) (fun r => decide (r.1 = 0x10008)) &&
        decide ((s.reelOf 0).wait = .none)) = true := by decide +kernel

theorem met_reel_csrs :
    (csrAllowed reel0 0x800 true && (reel0.csrGet 0x800).isSome && csrAllowed { reel0 with sup := true } 0x100 true) = true ∧
    reel0.csrGet 0x804 = none ∧ 3 ≤ 0x300 / 256 % 4 ∧ 0x200 / 256 % 4 = 2 ∧ 0x100 / 256 % 4 = 1 ∧ reel0.sup = false ∧
    ((2 : BitVec 4).getLsbD 0 = false) := by decide +kernel

theorem met_exceptions :
    (let r := { reel0 with uev := 4 }
     r.sup = false ∧ ((rst r fly).crew 0).smode = false ∧ r.uevAct = false ∧ r.uev ≠ 0) ∧
    (reel0.sup = false ∧ ((rst reel0 fly).crew 0).smode = false ∧ reel0.uev = 0) ∧
    ({ reel0 with uevAct := true, uev := 4 } : Reel).uevAct = true ∧
    (((rst reel0 fly).modCrew 0 fun w => { w with smode := true }).crew 0).smode = true ∧
    (let r := { reel0 with sup := true, stvec := 4 }
     r.sup = true ∧ 8 ≠ 9 ∧ 4 ≤ r.stvec.toNat) ∧
    (let r := { reel0 with sup := true, stvec := 3 }
     r.sup = true ∧ r.stvec.toNat < 4) ∧ reelB (rst { reel0 with sup := true } fly) 0 = true := by decide +kernel

/-! The reel on kites, queues, barriers, engines, hypotheses and services. -/

/-- The reel's registers with one changed. -/
def regs (l : List (Nat × Word)) : Reel := { reel0 with x := l }

/-- A property of every kite of core 0, from the two that are there and the default. -/
theorem every_kite {p : Kite → Prop} {r : Reel} {x : Kite} (hx : p x) (hy : p (Kite.launch 0 512)) (hd : p {}) (k : Nat) :
    p ((rst r x).kite 0 k) := by
  match k with
  | 0 => exact hx
  | 1 => exact hy
  | _ + 2 => exact hd

theorem met_kite_starts :
    (reelB (rst (regs [(1, 0x1810)]) fly) 0 && decide (0x1810 % 32 ≠ 0)) = true ∧
    ([fly, Kite.launch 0 512].all fun x =>
      let s := rst (regs [(1, 0x1FA0), (2, 3)]) x
      reelB s 0 && okWith (bridleBytes s 0 0x1FA0) (fun r => (r.2.kite 0 0).st == x.st) &&
        okWith (blockXlat s (0x1800 / 64 * 64) (flyXlat 0) 6) (fun r => (r.2.kite 0 0).st == x.st) &&
        decide ((maskOf fun k => decide (k < (s.crew 0).n) && (3 : Word).getLsbD k && (s.kite 0 k).st != .landed) =
          if x = fly then 1 else 0)) = true ∧
    0x1FA0 % 32 = 0 ∧ 0x1FBF / 32 % 2 = 1 ∧ 0x1800 / 32 % 2 = 0 ∧ 0x181F / 32 % 2 = 0 ∧
    (((rst reel0 fly).ctx 0).isLive 0 && !(((rst reel0 fly).ctx 0).isLive 1023)) = true := by decide +kernel

/-- A reel that waits for the landing of kite 0. -/
def landing : State := rst { reel0 with wait := .landing 1 } (Kite.launch 0 512)

theorem met_kite_control :
    (∃ m : Word, ∀ k, Named (rst reel0 (Kite.launch 0 512)) 0 m k → ((rst reel0 (Kite.launch 0 512)).kite 0 k).st = .landed ∨
      ((rst reel0 (Kite.launch 0 512)).kite 0 k).st = .parked) ∧
    Named (rst reel0 fly) 0 1 0 ∧ ((rst reel0 fly).kite 0 0).st = .flying ∧
    (100 : Nat) ≠ 0 ∧ 100 ≤ (at100 (rst reel0 fly)).cycle 0 ∧ (at100 (rst reel0 fly)).cycle 0 < 101 ∧
    (∀ k, ¬ (Named (rst reel0 fly) 0 2 k ∧ (((rst reel0 fly).kite 0 k).st = .flying ∨
      ((rst reel0 fly).kite 0 k).st = .waiting ∨ ((rst reel0 fly).kite 0 k).st = .parked))) ∧
    (∀ k, ((rst reel0 fly).kite 0 k).region = none ∧ ((rst reel0 fly).kite 0 k).pend = []) ∧
    ((landing.reelOf 0).wait = .landing 1 ∧ ∀ k, bit 1 k = true → k < 16 → (landing.kite 0 k).st = .landed) ∧
    reelB landing 0 = true := by
  refine ⟨⟨0, ?_⟩, by unfold Named; decide +kernel, by decide +kernel, by decide, by decide +kernel, by decide +kernel, ?_, ?_, ?_,
    by decide +kernel⟩
  · rintro k ⟨-, -, h⟩
    simp at h
  · have h : ∀ k < 16, ¬ (Named (rst reel0 fly) 0 2 k ∧ (((rst reel0 fly).kite 0 k).st = .flying ∨
        ((rst reel0 fly).kite 0 k).st = .waiting ∨ ((rst reel0 fly).kite 0 k).st = .parked)) := by
      unfold Named; decide +kernel
    exact fun k hk => h k hk.1.1 hk
  · exact every_kite (p := fun y => y.region = none ∧ y.pend = []) ⟨rfl, rfl⟩ ⟨rfl, rfl⟩ ⟨rfl, rfl⟩
  · refine ⟨rfl, fun k hb hk => ?_⟩
    have h : ∀ k < 16, bit 1 k = true → (landing.kite 0 k).st = .landed := by decide +kernel
    exact h k hk hb

theorem met_reel_queues :
    ([0, 15, 16].all fun n =>
      let s := withQueue (rst reel0 fly) (List.replicate n 1)
      reelB s 0 && decide ((s.queueOf 0 7).length = n)) = true ∧
    (100 ≤ (at100 (rst reel0 fly)).cycle 0 ∧ (at100 (rst reel0 fly)).cycle 0 < 101) := by decide +kernel

/-- A reel that has arrived at unit 1 in phase 0, with the unit in a phase. -/
def reelArrived (phase : Nat) : State :=
  (rst { reel0 with arr := [(1, 0)] } fly).modFlight 0 fun f => { f with bars := [(1, { phase := phase })] }

theorem met_reel_barriers :
    flightSize (rst reel0 fly) 0 = 1 ∧ outstanding (reelArrived 0) 0 1 ((reelArrived 0).reelOf 0).arr = true ∧
    outstanding (reelArrived 1) 0 1 ((reelArrived 1).reelOf 0).arr = false ∧ ((reelArrived 1).reelOf 0).arr.find 1 = some 0 ∧
    (reelB (reelArrived 0) 0 && reelB (reelArrived 1) 0) = true ∧
    ([[], [{ bytes := [{ addr := peerBase, cl := 2 }] }]].all fun wp =>
      let s := (reelArrived 1).modCore 0 fun k => { k with wp := wp }
      reelB s 0 && (release s 0 1).2 == wp.isEmpty) = true ∧
    (257 % 2 ^ 16 > 256 ∧ 2 ^ 17 ≥ 2 ^ 17 ∧ 256 % 2 ^ 16 ≤ 256 ∧ 256 < 2 ^ 16 ∧ 2 ^ 16 < 2 ^ 17 ∧ 2 ^ 16 % 2 ^ 16 ≤ 256) := by
  decide +kernel

/-- The state with a command of eight words at 0x1800. -/
def withCommand (s : State) (d : List Nat) : State :=
  { s with mem := memWrite s.mem (codePa + 0x4800) (d.flatMap (toBytes 8)) }

/-- LIN of 16 bytes within the scratchpad, and one of none. -/
def linWords (n : Nat) : List Nat := [1 + 2 ^ 20 + 2 ^ 24 + 0xABCD * 2 ^ 48, 0, 0x1000, 0, 0, n, 0, 0]

/-- How a push ends: 0 accepted, 1 waiting, 2 refused. -/
def pushEnd (r : PushRes) : Nat := match r with | .done _ _ => 0 | .wait _ _ => 1 | .refused _ => 2

theorem met_reel_engines :
    ([(16, [], 0), (16, List.replicate 16 ({} : Cmd), 1), (0, [], 2)].all fun e =>
      let s := (withCommand (rst (regs [(1, 0x1800)]) fly) (linWords e.1)).modCrew 0 fun w => { w with ports := [(0, { cmds := e.2.1 })] }
      reelB s 0 && okWith (reelLoad s 0 0x1800 64) fun r =>
        decide (pushEnd (pushCommand r.2 0 0 16 0 ((List.range 8).map fun i => BitVec.ofNat 64 (r.1 / 2 ^ (64 * i))) id) = e.2.2)) = true ∧
    (let s := rst (regs [(1, 0x1801)]) fly
     reelB s 0 && !(reelFixing s 0) && (match reelLoad s 0 0x1801 64 with | .ok _ => false | .error _ => true) &&
       reelFixing (tintedReel .fixing [] (codePa + 0x4000)) 0) = true ∧
    ([[], [({ w := [1, 2, 3, 4] } : Result)]].all fun l =>
      let s := (rst (regs [(1, 0x1800)]) fly).modCrew 0 fun w => { w with ports := [(0, { res := l })] }
      reelB s 0 && decide (((s.crew 0).ports.get 0).res = l) && okWith (reelStore s 0 0x1800 (toBytes 32 0)) fun _ => true) = true := by
  decide +kernel

/-- The reel of a context with the given tints. -/
def tinted (ts : Tab Tint) (w : WaitOn) : State :=
  (rst { reel0 with wait := w } fly).modCtx 0 fun x => { x with tints := ts }

/-- Every tint in use. -/
def allLive : Tab Tint := ((List.range 1024).map fun i => (i, { st := .live, depth := 1 }))

theorem get_same {α : Type} [Inhabited α] (a : α) {t : Nat} : ∀ l : List Nat, t ∈ l → Tab.get (l.map fun i => (i, a)) t = a
  | i :: l, h => by
    simp only [List.map_cons, Tab.get]
    split
    · rfl
    · exact get_same a l ((List.mem_cons.1 h).resolve_left (by assumption))

theorem met_no_free_tint : ((tinted allLive .none).ctx 0).freeTint = none := by
  simp only [Context.freeTint, List.find?_eq_none]
  intro t ht
  have ha : (tinted allLive .none).ctx 0 = { valid := true, root := codePa, tints := allLive } := rfl
  have hg : allLive.get t = { st := .live, depth := 1 } := get_same _ (List.range 1024) ht
  by_cases h0 : t = 0 <;> simp [ha, Context.tint, h0, hg]

theorem met_hypotheses :
    (((tinted [(3, { st := .live, depth := 16 })] .none).ctx 0).isLive 3 &&
      !(((tinted [] .none).ctx 0).isLive 1023) && ((tinted [] .none).ctx 0).isLive 0 &&
      decide (((tinted [] .none).ctx 0).freeTint = some 1) &&
      reelB (tinted [] (.result 7)) 0 && decide (((tinted [] (.result 7)).reelOf 0).wait = .result 7) &&
      decide (((tinted [] .none).core 0).wp = []) && decide ((((tinted [] .none).ctx 0).tint 1023).st ≠ .retired)) = true := by
  decide +kernel

theorem met_error_pop :
    ([[], [2 ^ 80], [2 ^ 80, 5]].all fun q =>
      let s := rst (regs [(1, 0x1800)]) fly
      let s := s.modDie 0 fun d => { d with errq := q }
      reelB s 0 && decide (((s.die (dieOf 0)).errq.findIdx? fun w => w / 2 ^ 80 % 256 == (s.crew 0).ctx) =
        if q = [2 ^ 80, 5] then some 1 else none) && okWith (reelStore s 0 0x1800 (toBytes 32 5)) fun _ => true) = true := by
  decide +kernel

/-- The reel of a context with a pool of 3 pages, slot 5 holding page 1, and page 0 draining. -/
def slotted : State :=
  (rst reel0 fly).modCtx 0 fun x => { x with slotCnt := 3, slots := [(5, { gen := 7, active := true, pages := [1] })]
                                             drain := [{ page := 0, slot := 2 }] }

theorem met_slots :
    (reelB slotted 0 && ((slotted.ctx 0).slots.get 5).active && !((slotted.ctx 0).slots.get 255).active &&
      decide ((slotted.ctx 0).usedPages.length + 1 ≤ (slotted.ctx 0).slotCnt) &&
      decide ((slotted.ctx 0).slotCnt < (slotted.ctx 0).usedPages.length + 2)) = true := by decide +kernel

/-- A reel in its handler, for an event of an agent; kite 0 as given. -/
def handling (agent : Nat) (x : Kite) : State := rst { reel0 with uevAct := true, uevAgent := agent, uevPark := true, uevEpc := 9 } x

/-- A kite parked at its position. -/
def parked : Kite := { fly with st := .parked, cause := 0x05 }

theorem met_returns :
    (reelB (handling 16 fly) 0 && reelB (handling 0 parked) 0 && !((rst reel0 fly).reelOf 0).uevAct &&
      ((handling 0 parked).reelOf 0).uevAct && decide (parked.st = .parked ∧ parked.req = none ∧ parked.region = none ∧
        parked.pend = [] ∧ parked.resume = .here) && !(parked.buf parked.cur).filling &&
      ((handling 0 parked).crew 0).events.all fun e => !e.park) = true ∧
    ∀ k, ((rst reel0 fly).kite 0 k).region = none ∧ ((rst reel0 fly).kite 0 k).pend = [] :=
  ⟨by decide +kernel, every_kite (p := fun y => y.region = none ∧ y.pend = []) ⟨rfl, rfl⟩ ⟨rfl, rfl⟩ ⟨rfl, rfl⟩⟩


/-! Engines. -/

/-- The machine with commands and results at a port of core 0. -/
def ported (s : State) (port : Nat) (cs : List Cmd) (rs : List Result) : State :=
  s.modCrew 0 fun w => { w with ports := [(port, { cmds := cs, res := rs })] }

/-- A kite with a command in s8 to s15. -/
def pusher (d : List Nat) (t : Nat) : Kite :=
  { fly with tintv := t, s := (List.range 32).map fun i => (i, BitVec.ofNat 64 (if 8 ≤ i then d.getD (i - 8) 0 else 0x1800)) }

/-- A push of s8 to s15 to a port under view 0. -/
def pushOf (s : State) (port : Nat) : PushRes :=
  pushCommand s 0 port 0 0 ((List.range 8).map fun i => (s.kite 0 0).sget (8 + i)) fun s => flushPend s 0 0

theorem met_kite_ports :
    ([(16, [], 0), (16, List.replicate 16 ({} : Cmd), 1), (0, [], 2)].all fun e =>
      let s := ported (st (pusher (linWords e.1) 0)) 0 e.2.1 []
      issuesB (.epush { gp := 2, a := .s 5, b := .e 0, c := .s 8 }) s 0 0 && !(kiteOrphan s 0 (s.kite 0 0)) &&
        decide (pushEnd (pushOf s 0) = e.2.2)) = true ∧
    (let s := st (pusher (linWords 16) 5)
     issuesB (.epush { gp := 2, a := .s 5, b := .e 0, c := .s 8 }) s 0 0 && kiteOrphan s 0 (s.kite 0 0)) = true ∧
    ([[], [({ w := [1, 2, 3, 4] } : Result)]].all fun l =>
      let s := ported (st fly) 1 [] l
      issuesB (.epop { a := .s 12, b := .e 1 }) s 0 0 && decide (((s.crew 0).ports.get 1).res = l)) = true ∧
    issuesB (.estat { a := .s 3, b := .e 2 }) (st fly) 0 0 = true := by decide +kernel

theorem met_pushes :
    (st fly).hasCrew 0 = true ∧ ((st fly).core 0).wp = [] ∧
    (let d := fun n => (linWords n).map (BitVec.ofNat 64)
     decide (cmdOpc (d 16) = 1) && (cmdBad 0 (d 0)).isSome && (cmdBad 0 (d 16)).isNone && (cmdBad 0 (d (2 ^ 40))).isNone &&
       (cmdBad 0 (d (2 ^ 40 + 1))).isSome) = true ∧
    ([15, 16].all fun n => decide ((((ported (st fly) 0 (List.replicate n {}) []).crew 0).ports.get 0).cmds.length = n)) = true ∧
    (let d : List Word := [0xF, 0, 0, 0, 0, 0, 0, 0]
     decide (cmdOpc d = 0x0F) && (cmdBad 2 d).isNone) = true := by decide +kernel

theorem met_record_fences :
    (issuesB (.rcfenceAll {}) (st fly) 0 0 && issuesB (.rcfenceAddr { fn := 1, a := .mem 7 8 }) (st fly) 0 0 &&
      issuesB (.rcfenceAddr { fn := 1, a := .mem 7 64 }) (st fly) 0 0 && vecB (.rcsnap { a := .v 20 }) 0x9C { a := .v 20 } (st fly) 0 0 &&
      decide (fly.memAddr (.mem 7 8) % 64 = 8 ∧ fly.memAddr (.mem 7 64) % 64 = 0)) = true := by decide +kernel

/-- A check of `Serving`. -/
def servingB (s : State) (port opc : Nat) (m : Cmd) : Bool :=
  decide (((s.crew s.ev.unit).ports.get port).served = some m ∧ cmdOpc m.d = opc ∧ m.started = true ∧ m.units < cmdUnits m.d m.dst)

theorem serving_of {s : State} {port opc : Nat} {m : Cmd} (h : servingB s port opc m = true) : Serving s s.ev.unit port opc m := by
  simp only [servingB, decide_eq_true_eq] at h
  exact ⟨h.1, h.2.1, h.2.2.1, h.2.2.2⟩

/-- A command under way. -/
def under (d : List Nat) (view : Nat) : Cmd := { d := d.map (BitVec.ofNat 64), started := true, id := 7, view := view }

/-- A tensor shape record of 16 bytes of the scratchpad at an address. -/
def tensor (a : Nat) : Nat := a + 2 ^ 68 + 2 ^ 232 + 2 ^ 236

/-- How a unit ends: 0 performed, 1 stopped, 2 held. -/
def unitEnd (r : URes) : Nat := match r with | .ok _ _ _ => 0 | .fail _ => 1 | .hold => 2

theorem met_copies : ([0, 5].all fun v =>
    let lin := under (linWords 16) v
    let tens := { under [2, 0, 0, 0, 0, 0, 2 ^ 20, 0] v with src := tensor 0, dst := tensor 0x1000 }
    let rows := under [3, 0x1000, 0x1800, 0, 0, 1, 0, 0] v
    let at_ := fun m => ported (st fly) 0 [m] []
    servingB (at_ lin) 0 1 lin && decide (unitEnd (runItems (at_ lin) 0 0 lin (linItems lin 0)) = if v = 0 then 0 else 1) &&
      servingB (at_ tens) 0 2 tens && decide (unitEnd (runItems (at_ tens) 0 0 tens (tensItems tens 0)) = if v = 0 then 0 else 1) &&
      servingB (at_ rows) 0 3 rows && (v = 0 || decide (unitEnd (runItems (at_ rows) 0 0 rows (rowsItems rows 0)) = 1))) = true := by
  decide +kernel

/-- GATH or SCAT of one row of 4 bytes within the scratchpad; its index is 0. -/
def gathWords (opc a : Nat) : List Nat := [opc + 2 ^ 20 + 2 ^ 24, a, 0x1000, 0, 0, 0x2000, 1 + 2 ^ 34, 1]

theorem met_gathers : ([(0x11, false), (0x12, true)].all fun e => [(0, 0), (0x3FFFFFF, 1)].all fun a =>
    let m := under (gathWords e.1 a.1) 0
    let s := ported (st fly) 1 [m] []
    servingB s 1 e.1 m && !(cmdOrphan s 0 m) && !(cmdFixing s 0 m) &&
      okWith (readIndices s 0 1 m 0 1) fun r =>
        decide (unitEnd (runItems r.2 0 1 m ((r.1.zipIdx).flatMap fun x => rowItem m e.2 x.2 x.1)) = a.2)) = true := by
  decide +kernel

/-- SAMP of 300 columns whose block is at 0x1800. -/
def sampCmd : Cmd := under [4, 0x1800, 0, 0, 0, 300 * 2 ^ 32, 0, 0] 0

/-- Its last unit under a view, with the block at an address. -/
def lastSamp (v a : Nat) : Cmd := { under [4, a, 0, 0, 0, 300 * 2 ^ 32, 0, 0] v with units := 1 }

/-- How the write of its block ends. -/
def writeEnd (m : Cmd) (s : State) : Nat :=
  match sampUnit s 0 0 m m.units with
  | (.ok t ls todo, m2) =>
    let e := sampEnd m.d m2.samp (Config.freeNat t.draws % 2 ^ 32)
    unitEnd (runItems { t with draws := t.draws + 1 } 0 0
      { m2 with units := m.units + 1, wrote := distinct (m.wrote ++ ls), todo := todo }
      [{ val := some (toBytes 64 e.1.block), dst := (srcSide m.d, dw m.d 1), n := 64 }])
  | _ => 3

theorem met_sampler :
    (let s := ported (st fly) 0 [sampCmd] []
     servingB s 0 4 sampCmd && decide (sampCmd.units + 1 < cmdUnits sampCmd.d sampCmd.dst) &&
       decide (unitEnd (sampUnit s 0 0 sampCmd 0).1 = 0)) = true ∧
    ([(0, 0x1800, TState.free, 0), (0, 0x9800, .free, 0), (5, 0x1800, .free, 1), (5, 0x1800, .fixing, 2)].all
      fun (e : Nat × Nat × TState × Nat) =>
        let m := lastSamp e.1 e.2.1
        let s := (ported (st fly) 0 [m] []).modCtx 0 fun x => { x with tints := [(5, { st := e.2.2.1 })] }
        servingB s 0 4 m && decide (m.units + 1 = cmdUnits m.d m.dst ∧ unitEnd (sampUnit s 0 0 m m.units).1 = e.2.2.2) &&
          (e.2.2.2 != 0 || decide (writeEnd m s = if e.2.1 = 0x1800 then 0 else 1))) = true ∧
    (let m := lastSamp 0 0x1800
     let s := ((ported (st fly) 0 [m] []).modCtx 0 fun x => { x with tints := [(5, { st := .fixing })] }).modCore 0 fun k =>
       { k with wp := [{ view := 5, bytes := [{ addr := codePa + 0x4800 }] }] }
     servingB s 0 4 m && decide (writeEnd m s = 2)) = true := by
  decide +kernel

/-- PAGE of two pages of one byte, so that the copy is short; the lists are at 0x1800. -/
def pageCmd (view : Nat) : Cmd := under [0x21, 0x1800, 0x1808, 0, 0, 2, 0, 0] view

/-- The machine whose lists name a page. -/
def paged (view a : Nat) : State :=
  let s := ported (st fly) 2 [pageCmd view] []
  let s := { s with mem := memWrite s.mem (codePa + 0x4800) (toBytes 8 a ++ toBytes 8 a) }
  { s with ev := { unit := 0, item := 0, value := 7 } }

theorem met_pages : ([(0, 0x1001, 0), (0, 0x9001, 1), (5, 0x1000, 1)].all fun e =>
    let s := paged e.1 e.2.1
    let m := pageCmd e.1
    decide (servedPage s 0 7 = some m ∧ m.started = true ∧ m.units < cmdUnits m.d m.dst ∧ (0 ∉ m.pages) ∧
      cmdOpc m.d = 0x21 ∧ m.finished = false ∧ unitEnd (pageUnit s 0 2 m 0) = e.2.2)) = true := by decide +kernel

theorem met_lin_copy :
    (let m := under (linWords 16) 0
     let s := ported (st fly) 0 [m] []
     servingB s 0 1 m && decide (m.units = 0 ∧ dw m.d 5 = 16 ∧ srcSide m.d = { space := 1 } ∧ dstSide m.d = { space := 1 } ∧
       dw m.d 1 + 16 ≤ dw m.d 2 ∧ dw m.d 2 + 16 ≤ extent s 0 1 ∧ s.hasCrew 0 = true ∧ cmdOrphan s 0 m = false ∧
       Memory.wf (spMem s 0 1) = true)) = true := by decide +kernel

/-- LIN with flags in D0 and the counter at 0x1800, as far as its service. -/
def serviced (flags : Nat) (fin : Bool) : Cmd :=
  { under ([1 + 2 ^ 20 + 2 ^ 24 + flags, 0, 0x1000, 0, 0x1800, 16, 0, 0]) 0 with finished := fin, units := 1, promise := 100 }

/-- The machine at a tick with a command at port 0, and the event about it. -/
def about (t : Nat) (m : Cmd) : State :=
  { ported { st fly with dies := [(0, { cycle := t })] } 0 [m] [] with ev := { unit := 0, sub := 0, item := 7 } }

theorem met_completions :
    ([(100, serviced 0 true), (101, { serviced (2 ^ 8) true with missed := true }), (5, { serviced (2 ^ 11) true with counted := 1 })].all fun e =>
      let s := about e.1 e.2
      decide (findCmd s 0 0 7 = some e.2 ∧ e.2.linked s = true ∧ e.2.finished = true ∧ e.2.dueCounts = 0 ∧ e.2.started = true ∧
        (e.2.missed = true ∨ (flushCmd s 0 0 e.2).cycle 0 ≤ e.2.promise) ∧ cmdOpc e.2.d ≠ 0x04)) = true ∧
    ([0, 1].all fun d =>
      let m := { serviced (2 ^ 11) true with d := [1 + 2 ^ 20 + 2 ^ 24 + 2 ^ 11, 0, 0x1000, 0, BitVec.ofNat 64 (0x1800 + d), 16, 0, 0] }
      let s := about 5 m
      decide (findCmd s 0 0 7 = some m ∧ m.linked s = true ∧ m.dueCounts ≠ 0 ∧ dw m.d 4 % 8 = d) &&
        okWith (engXlat (flushCmd s 0 0 m) 0 m (dw m.d 4) .atomic) fun r =>
          decide ((r.2.core 0).wp = [] ∧ dieStores r.2 (dieOf 0) = [] ∧ Memory.wf r.2.mem = true)) = true := by decide +kernel

theorem met_promises :
    ([(0, false, 0), (0, true, 0), (2 ^ 10, false, 16), (2 ^ 10, false, 3)].all fun e =>
      let m := { serviced e.1 false with missed := e.2.1, agent := e.2.2 }
      let s := about 101 m
      decide (findCmd s 0 0 7 = some m ∧ m.promise < s.cycle 0 ∧ cmdPmt m.d = (e.1 != 0))) = true ∧
    (let m := { serviced 0 false with banks := [{ ch := 1, bank := 3, at_ := 1 }] }
     decide (((((about 201 m).crew 0).ports.get 0).served = some m))) = true := by
  decide +kernel

theorem met_cancels :
    ([(0, 0, true), (9, 0, false), (9, 1, false)].all fun e =>
      let t : CancelTok := { port := 0, agent := 0, tag := e.1 }
      let m := { serviced (9 * 2 ^ 48) false with counted := e.2.1 }
      let s := (about 5 m).modCrew 0 fun w => { w with cancels := [t] }
      let cmds := ((s.crew 0).ports.get 0).cmds
      decide ((s.crew 0).cancels = [t] ∧ cancelTarget cmds t = (if e.2.2 then none else some m) ∧ cmdCpp m.d = false) &&
        cmds.all fun x => decide (x.id = m.id → x = m)) = true := by
  decide +kernel

/-! The events of a core. -/

/-- A kite that waits. -/
def waits (w : WaitOn) : Kite := { fly with st := .waiting, wait := w }

/-- The machine at a tick with an event about agent k of core 0. -/
def told (s : State) (t k : Nat) : State := { s with dies := [(0, { cycle := t })], ev := { unit := 0, sub := k } }

/-- A buffer that is being filled from the page of code, its first line read already or not. -/
def fills (got : Tab Nat) : Buf :=
  { blk with filling := true, pas := (List.range 6).map fun i => codePa + 0x4000 + 64 * i, got := got }

theorem met_wakes :
    ([{ waits (.fill 0) with buf0 := fills [] }, { fly with buf0 := fills [(0, 5)] }].all fun x =>
      let s := told (st x) 1 0
      let b := (s.kite 0 0).buf 0
      decide (b.filling = true ∧ (s.core 0).ic = [] ∧ b.pas.length = 6) && b.pas.all fun a => a % 64 == 0) = true ∧
    (let s := told (withQueue (st (waits (.qpop 7))) [1]) 1 0
     decide ((s.kite 0 0).st = .waiting ∧ waitClear s 0 0 (s.kite 0 0) = true)) = true ∧
    (let s := told (st (waits (.sleep 50))) 50 0
     decide ((s.kite 0 0).st = .waiting ∧ (s.kite 0 0).wait = .sleep 50 ∧ 50 ≤ s.cycle 0)) = true ∧
    (let s := told (rst { reel0 with wait := .sleep 50 } fly) 50 16
     decide ((s.reelOf 0).wait = .sleep 50 ∧ s.crewRuns 0 = true ∧ (s.crew 0).ending = false ∧ 50 ≤ s.cycle 0)) = true := by
  decide +kernel

theorem met_drains (b : Bool) : ∃ s : State,
    (s.kite s.ev.unit s.ev.sub).st = .draining ∧ (s.kite s.ev.unit s.ev.sub).vq = [] ∧
      (s.kite s.ev.unit s.ev.sub).pend = [] ∧ (s.crew s.ev.unit).queuedFor s.ev.sub none = false ∧
      rewindAsked s s.ev.unit s.ev.sub = false ∧
      (∀ a, (s.kite s.ev.unit s.ev.sub).wait ≠ .atomicOp a) ∧ (s.kite s.ev.unit s.ev.sub).killed = b :=
  ⟨told (st { fly with st := .draining, killed := b }) 1 0, rfl, rfl, rfl, rfl, rfl, fun a h =>
    (nomatch (h : WaitOn.none = .atomicOp a)), rfl⟩

/-- The channels that a stall is counted on. -/
def channels : List WaitOn :=
  [.qpush 7, .qpop 7, .trecv 0, .trecv 1, .tsend 0, .tsend 1, .epush 0, .epop 0, .pushRelease 0 1, .epush 2, .epop 2]

theorem met_waits_end :
    (let s0 := told (rst { regs [(9, 1), (10, 50)] with wait := .kites 3 50 } fly) 50 16
     let s := { s0 with mem := memWrite s0.mem (codePa + 0x4000) (toBytes 4 0x00A4A40B) }
     decide ((s.reelOf 0).wait = .kites 3 50 ∧ waitingInstr s 0 = some (.kiteWait 8 9 10) ∧ s.crewRuns 0 = true ∧
       (s.crew 0).ending = false ∧ 50 ≤ s.cycle 0 ∧ ((s.reelOf 0).xget 10).toNat = 50 ∧
       (0 < (s.crew 0).n ∧ ((s.reelOf 0).xget 9).getLsbD 0 = true) ∧ (s.kite 0 0).st = .flying)) = true ∧
    (channels.all fun w =>
      let s := told (st { waits w with since := 3 }) 4194307 0
      let r := told (rst { reel0 with wait := w, since := 3 } fly) 4194307 16
      decide ((s.kite 0 0).wait = w ∧ (s.kite 0 0).st = .waiting ∧ (s.kite 0 0).since + 4194304 ≤ s.cycle 0 ∧
        (r.reelOf 0).wait = w ∧ r.crewRuns 0 = true ∧ (r.crew 0).ending = false ∧ (r.reelOf 0).since + 4194304 ≤ r.cycle 0)) = true := by
  decide +kernel

theorem met_late_readers : (nestedReaders.all fun e =>
    let f : Fields := { fn := BitVec.ofNat 4 e.2.1, ty := 2, a := .v 1, b := .v 2, c := .h 3 }
    let h : HeldLoad := { space := 1 }
    let v : VqEntry := { op := e.1, f := f, load := some h }
    let s := told (st { fly with vq := [v], h := [(0, { lv := [[0, 0]] })], v := [(2, { link := some 0 })] }) 1 0
    let r := vecReadAll s 0 0 h.space h.rd h.reads
    let ds := decodeHeld (r.2.kite 0 0) v.ctx (vecReads v.op v.f) r.1
    decide ((s.kite 0 0).vq[s.ev.item]? = some v ∧ v.op = e.1 ∧ v.f.fn.toNat = e.2.1) &&
      okWith (e.2.2 v.f (r.2.modKite 0 0 fun y => y.take ds) 0 0 v.ctx) fun _ => true) = true := by decide +kernel

theorem met_core_queues :
    (let m : Marker := { unit := 1, count := 3 }
     let s := told (st { fly with vq := [{ marker := some m }, {}] }) 1 0
     let t := s.modFlight 0 fun f => { f with bars := [(1, { phase := 2, past := [(0, [(0, 1)])] })] }
     decide (m.phase = (barUnit s 0 1).phase ∧ m.phase ≠ (barUnit t 0 1).phase ∧ (t.kite 0 0).vq = (s.kite 0 0).vq ∧
       (s.kite 0 0).vq = [{ marker := some m }, {}] ∧ (s.kite 0 0).pend = [] ∧ (s.core 0).wp = [])) = true ∧
    (let e : WpStore := { bytes := [{ addr := codePa + 0x5000, value := 7 }] }
     let s := (told (st fly) 1 0).modCore 0 fun p => { p with wp := [e, e] }
     decide (s.ev.ok = false ∧ s.ev.item = 0 ∧ (s.core 0).wp = [e, e] ∧ canDrain s 0 0 = true ∧ (s.ctx e.ctx).resolve e.view = 0)) = true ∧
    ([(none, 0, TState.free), (some { space := 1 }, 0, .free), (some {}, 0, .free), (some {}, 5, .free), (some {}, 5, .fixing)].all
      fun (e : Option HeldLoad × Nat × TState) =>
        [0x50, 0x70, 0x71, 0x72, 0x73, 0x74, 0x75, 0x76, 0x88].all fun op =>
        let v : VqEntry := { op := op, flags := 3, load := e.1, ctx := { view := e.2.1 } }
        let s := (told (st { fly with vq := [v] }) 1 0).modCtx 0 fun x => { x with tints := [(5, { st := e.2.2 })] }
        decide ((s.kite 0 0).vq[s.ev.item]? = some v ∧ v.marker = none ∧ v.dispatched = true) &&
          ((s.ctx 0).orphaned v.ctx.view == decide (e.2.1 = 5 ∧ e.2.2 = .free)) &&
          (viewFixing s 0 v.ctx.view == decide (e.2.2 = .fixing))) = true := by decide +kernel

/-- A context with a live child 3 of the trunk, a version of it, and an operation on a tint. -/
def operating (o : TintOp) (st3 : TState) (w : WaitOn) (x : Kite) : State :=
  let s := (rst { reel0 with wait := w } x).modCtx 0 fun x =>
    { x with tints := [(3, { st := st3, depth := 1 })], tops := [o] }
  { s with vers := [{ ctx := 0, tint := 3, line := (codePa + 0x5000) / 128, mask := 6, data := 0x11223344 }], ev := { unit := 0, sub := 3 } }

theorem met_fixes :
    ([({ tint := 3, agent := 16 }, true), ({ tint := 5, agent := 16 }, false)].all fun (e : TintOp × Bool) =>
      let s := operating e.1 .live (.tint e.1.tint) fly
      decide ((s.ctx 0).tops = [e.1] ∧ e.1.bleach = false ∧ e.1.rewind = false ∧ piecing s 0 = false ∧ 1 ≤ e.1.tint ∧ e.1.tint < 1024 ∧ e.1.started = false ∧
        (s.ctx 0).isLive e.1.tint = e.2 ∧ (s.reelOf 0).wait = .tint e.1.tint)) = true ∧
    ([16, 0].all fun a =>
      let o : TintOp := { tint := 3, agent := a, started := true, count := 1 }
      let r : Region := { tint := 3, parent := 0, cur := 0, idx := 0 }
      let s := operating o .fixing (.tint 3) { waits (.tint 3) with region := some r }
      decide ((s.ctx 0).tops = [o] ∧ o.rewind = false ∧ ((s.ctx 0).tint 3).parent = 0 ∧
        (s.vers.filter fun u => u.ctx == 0 && u.tint == 3) = s.vers ∧ s.vers.length = 1 ∧ Memory.wf s.mem = true ∧
        (s.reelOf 0).wait = .tint 3 ∧ s.hasCrew 0 = true ∧ (s.kite 0 0).st = .waiting ∧ (s.kite 0 0).wait = .tint 3 ∧
        (s.kite 0 0).region = some r ∧ r.parent ≠ o.tint) && goesB s 0 0) = true := by decide +kernel

theorem met_bleaches :
    ([false, true].all fun b =>
      let o : TintOp := { bleach := true, tint := 3, agent := 16, started := b, count := 1 }
      let s := operating o (if b then .bleaching else .live) (.tint 3) fly
      decide ((s.ctx 0).tops = [o] ∧ o.rewind = false ∧ piecing s 0 = false ∧ (s.ctx 0).isLive 3 = !b ∧ ((s.ctx 0).tint 3).st = (if b then .bleaching else .live) ∧
        (s.reelOf 0).wait = .tint 3 ∧ s.hasCrew 0 = true)) = true ∧
    (let s := { operating {} .retired .none fly with vers := [] }
     decide (s.ev.sub ≠ 0 ∧ ((s.ctx 0).tint 3).st = .retired ∧ tintNamed s 0 3 = false)) = true := by decide +kernel

/-- A word of amo.add on 8 bytes: OP 0x24, TY 3. -/
def amoWord : CWord := 0x2403000012800E4800D00030#96

theorem met_outside_answers :
    ([[{ cause := 0x31, va := 9, agent := 16 }], [{ cause := 5, agent := 0, park := true }, { cause := 6, agent := 1 }]].all
      fun (es : List Event) =>
        let s := (told (rst { reel0 with uev := 4 } fly) 1 0).modCrew 0 fun w => { w with events := es }
        s.crewRuns 0 && (s.crew 0).eventTime && decide ((s.reelOf 0).uev ≠ 0 ∧ (s.crew 0).preempt = false) &&
          match (s.crew 0).nextEvent with | some e => decide (e.1 = es.headD {} ∧ (es.length = 2 → e.2.events = es.tail)) | none => false) =
      true ∧
    (∀ a ∈ [({ cause := 5, agent := 0, park := true } : Event), { cause := 6, agent := 1 }], a.agent ≠ 16) ∧
    ([true, false].all fun (b : Bool) =>
      let x : Kite := { waits (.atomicOp 0x1803) with buf0 := { blk with words := [amoWord] } }
      let s : State := { told (st x) 1 0 with ev := { unit := 0, sub := 0, ok := b, old := 9 } }
      decide (s.ev.ok = b ∧ (s.kite 0 0).wait = .atomicOp 0x1803 ∧ (s.kite 0 0).st = .waiting ∧ (s.kite 0 0).relNext = none ∧
        Memory.wf s.mem = true) &&
        match (s.kite 0 0).wordAt (0, 0) with
        | some (.amoAdd f) => decide (f.xf = 0 ∧ opdValue f.a ≠ 0)
        | _ => false) = true := by decide +kernel

/-! The host, the mapper and the module. -/

/-- An event with its arguments. -/
def evented (s : State) (e : EvArgs) : State := { s with ev := e }

/-- The machine with queue 3 of context 0, its ring at 0x1000, and slot 0 holding a queue. -/
def hosted (x : Queue) (held : Option Nat) : State :=
  { st fly with queues := [(3, x)], slots := [(0, { queue := held })] }

/-- A descriptor of 16 records. -/
def desc (wr rd : Nat) : Queue := { ring := 0x1000, log2n := 4, cls := 2, valid := true, wridx := wr, rdidx := rd, limit := wr }

theorem met_queue_writes :
    ([(17, true), (3, true), (18, false), (2, false)].all fun (e : Nat × Bool) =>
      let x := desc 3 1
      let d := (e.1 + 2 ^ 32 - x.rdidx) % 2 ^ 32
      decide ((d ≤ 2 ^ x.log2n ∧ (x.wridx + 2 ^ 32 - x.rdidx) % 2 ^ 32 ≤ d) ↔ e.2 = true)) = true ∧
    (let v := 1 + 2 * 2 ^ 8 + 4 * 2 ^ 16
     let s := evented (hosted { ring := 0x1000 } none) { unit := 3, value := v }
     decide ((s.queues.get 3).valid = false ∧ v % 2 = 1 ∧ (s.ctx (v / 2 ^ 32 % 64)).valid = true ∧ 4 ≤ v / 2 ^ 16 % 32 ∧
       v / 2 ^ 16 % 32 ≤ 16 ∧ (s.queues.get 3).ring % 2 ^ 12 = 0)) = true ∧
    (let s := evented (hosted (desc 3 1) none) { unit := 3, value := 0 }
     decide ((s.queues.get 3).valid = true ∧ (s.queues.get 3).recs = [] ∧ (0 : Nat) / 4 % 2 = 0 ∧ s.hasCrew 0 = true ∧
       (s.ascents.get (s.flight (s.crew 0).flight).ascent).queue = 0)) = true := by decide +kernel

/-- Queue 3 with two records in progress, the first started: crew 0 runs a flight of its ascent 0, of which some flights
have ended. -/
def aborting (ended : Nat) : State :=
  let x : Queue := { desc 5 4 with recs := [{ no := 2, w := 1, started := true }, { no := 3, w := 1 }] }
  { evented (hosted x none) { unit := 3 } with ascents := [(0, { queue := 3, rec_ := 2, placed := 2, finished := ended, nflt := 4 })] }

/-- Queue 3 with one record that has not started, whose DONEADDR is 0x1800. -/
def abortingOne : State :=
  let r : Rec := { no := 3, w := 1 + 0x1800 * 2 ^ 192 }
  { evented (hosted { desc 4 4 with recs := [r] } none) { unit := 3 } with crews := [], flights := [] }

theorem met_aborts :
    ([1, 2].all fun e =>
      let s := aborting e
      let x := s.queues.get 3
      decide (x.valid = true ∧ x.rdidx < 2 ^ 32 ∧ x.wridx < 2 ^ 32 ∧ s.hasCrew 0 = true ∧
        (s.ascents.get (s.flight (s.crew 0).flight).ascent).queue = 3 ∧ (s.ascents.map (·.1)).Pairwise (· < ·)) &&
        decide ((s.ascents.find 0).map (fun a => decide (a.finished = a.placed)) = some (decide (e = 2)))) = true ∧
    (let s := abortingOne
     let x := s.queues.get 3
     let r := x.recs.headD {}
     decide (x.valid = true ∧ x.recs = [r] ∧ r.started = false ∧ x.rdidx = x.wridx ∧ x.wridx < 2 ^ 32 ∧ s.ascents = [] ∧
       s.crews = [] ∧ lrDoneaddr r.w ≠ 0 ∧ lrDoneaddr r.w % 8 = 0 ∧ (mapXlat s x.ctx (lrDoneaddr r.w) .store).isSome = true ∧
       Memory.wf s.mem = true)) = true ∧
    (abortingOne.queues.get 5).valid = false := by decide +kernel

theorem met_host_registers :
    (∀ e ∈ (st fly).ctxs, e.1 ≠ 5 → e.2.valid = true → ¬ (e.2.asid = 0x11 / 2 ^ 4 % 2 ^ 16 ∧ e.2.gen = 0x11 / 2 ^ 20 % 2 ^ 8)) ∧
    (((st fly).ctx 5).valid = false ∧ ((st fly).ctx 5).root % 2 ^ 12 = 0 ∧ ((st fly).ctx 5).vstbase % 2 ^ 18 = 0) ∧
    (((st fly).ctx 0).valid = true ∧ ctxBusy { st fly with crews := [] } 0 = false) ∧
    ((∀ e ∈ State.reset.ctxs, e.2.valid = false) ∧ ∃ e ∈ (st fly).ctxs, e.2.valid = true) ∧
    ((st fly).module.prring.en = false ∧ ({ en := true } : Ring).en = true) := by decide +kernel

theorem met_invalidations :
    ([0, 1, 2, 3, 4].all fun k =>
      let x := k * 2 ^ 56 + 2 ^ 40
      let s := evented (st fly) { value := x }
      decide (s.module.tlbinv.busy = false ∧ x / 2 ^ 56 % 8 = k ∧ x / 2 ^ 40 % 2 ^ 16 ≠ 0)) = true ∧
    (let s := { st fly with crews := [], module := { (st fly).module with tlbinv := { busy := true } } }
     decide (s.module.tlbinv.busy = true ∧ invalDone s s.module.tlbinv = true)) = true ∧
    (let s := { st fly with module := { (st fly).module with tlbinv := { busy := true } } }
     let drain := s.modCore 0 fun k => { k with wp := [{ bytes := [{ addr := codePa }] }] }
     let pend := s.modKite 0 0 fun x => { x with pend := [{}] }
     s.module.tlbinv.covered s 0 && (drain.core 0).wp.length == 1 && (drain.module.tlbinv.covered drain 0) &&
       decide ((pend.crew 0).ctx = 0 ∧ (pend.kite 0 0).pend ≠ []) && pend.module.tlbinv.covered pend 0) = true ∧
    (let s := { st fly with ctxs := [(0, { valid := true, root := codePa, vstbase := lpddrBase })] }
     match readEntry s ((s.ctx 0).vstbase) with | .ok _ => true | .error _ => false) = true := by decide +kernel

/-- A kite parked on request 7. -/
def asking : Kite := { fly with st := .parked, cause := 0x05, req := some 7 }

/-- The machine with a page request of that kite, posted or not. -/
def requested (posted : Bool) : State :=
  { evented (st asking) { item := 7 } with
    module := { (st fly).module with prring := { en := true, log2n := 4 }, reqs := [{ id := 7, va := 0x5000, posted := posted }] } }

theorem met_page_requests :
    (let s := requested false
     let r := s.module.prring
     decide ((s.module.reqs.find? fun y => !y.posted) = some { id := 7, va := 0x5000 } ∧ r.en = true ∧
       (r.wr + 2 ^ 32 - r.rd) % 2 ^ 32 ≠ 2 ^ r.log2n ∧ Memory.wf s.mem = true ∧ 7 < 2 ^ 16 ∧ s.cycle 0 < 2 ^ 64)) = true ∧
    (let s := requested true
     decide ((s.module.reqs.find? fun q => q.id == s.ev.item) = some { id := 7, va := 0x5000, posted := true } ∧
       ((st fly).module.reqs.find? fun q => q.id == 7) = none ∧ s.hasCrew 0 = true ∧ (s.crew 0).ctx = 0 ∧
       (s.kite 0 0).st = .parked ∧ (s.kite 0 0).wait ≠ .rewind ∧ (s.kite 0 0).req = some 7 ∧
       ((s.kite 0 0).buf (s.kite 0 0).cur).filling = false)) = true ∧
    (let s := (requested true).modKite 0 0 fun x => { x with st := .waiting, wait := .rewind }
     decide (s.hasCrew 0 = true ∧ (s.crew 0).ctx = 0 ∧ (s.kite 0 0).st = .waiting ∧ (s.kite 0 0).wait = .rewind ∧
       (s.kite 0 0).req = some 7)) = true := by
  decide +kernel

/-- An image at 0x1800: one REEL section at 0x1000, and one variant of one crew of one kite. -/
def imageBytes : List Byte :=
  toBytes 64 (0x00585455 + 2 ^ 32 + 2 ^ 64 + 2 ^ 80 + 64 * 2 ^ 128 + 128 * 2 ^ 192) ++
    toBytes 32 (2 + 64 * 2 ^ 32 + 0x1000 * 2 ^ 128) ++ toBytes 32 0 ++ toBytes 32 (2 ^ 128 + 2 ^ 136 + 0x1000 * 2 ^ 192)

/-- A launch record of one flight of that image; AFTER is 1. -/
def launch : Nat := 1 + 2 ^ 8 + 2 ^ 16 + 0x1800 * 2 ^ 64

/-- Queue 3 whose first record is as given, with the image in memory. -/
def ringed (x : Queue) (r : Nat) : State :=
  let s := evented (hosted x (some 3)) { unit := 3 }
  { s with mem := memWrite (memWrite s.mem (codePa + 0x4800) imageBytes) (codePa + 0x4000) (toBytes 128 r) }

theorem met_mapper_slots :
    (let s := { hosted (desc 3 1) none with module := { (st fly).module with sched := true } }
     decide (s.module.sched = true ∧ waitsSlot s 3 = true ∧ 2 ≤ classOf s 3 ∧ (s.slots.get 0).queue = none ∧
       firstWaiting s ((waiting s).filter fun p => decide (2 ≤ classOf s p) || decide (highSlots s < 24)) = some 3)) = true ∧
    (let s := { hosted (desc 3 1) (some 3) with dies := [(0, { cycle := 250000 })] }
     decide ((s.slots.get 0).queue = some 3 ∧ 2 ≤ classOf s 3 ∧ (s.slots.get 0).leaving = false ∧
       (s.slots.get 0).quantum + 250000 ≤ now0 s ∧
       firstWaiting s ((waiting s).filter fun p => decide (2 ≤ classOf s p) && decide (classOf s p ≤ classOf s 3)) = none)) = true := by
  decide +kernel

theorem met_records :
    ([(launch, true), (0, false)].all fun e =>
      let s := ringed (desc 1 0) e.1
      let x := s.queues.get 3
      decide (served s 3 = true ∧ x.rdidx ≠ x.limit ∧ x.recs.length < 8 ∧ x.stuck = false ∧ bit s.module.repMask x.ctx = false ∧
        mapRead s x.ctx (x.ring + 128 * (x.rdidx % 2 ^ x.log2n)) 128 = some e.1 ∧ (e.2 = true → lrAfter e.1 = true)) &&
        (match recordRefusal s x.ctx e.1 with | .ok ns => e.2 && decide (ns = []) | .error n => !e.2 && decide (n = 0x11))) = true ∧
    (let r : Rec := { no := 0, w := launch }
     let s := ringed { desc 1 1 with recs := [r] } launch
     decide ((s.queues.get 3).recs = [r] ∧ r.started = false ∧ served s 3 = true ∧ lrKind r.w = 1 ∧ lrPcount r.w = 0)) = true ∧
    (let w := launch + 2 ^ 576
     let r : Rec := { no := 0, w := 2, nodes := [launch, w], started := true, nstart := [0], ndone := [0] }
     let s := evented (ringed { desc 1 1 with recs := [r] } launch) { unit := 3, sub := 1, item := 0 }
     decide (findRec s 3 s.ev.item = some r ∧ r.nodes[1]? = some w ∧ r.aborted = false ∧ 1 ∉ r.nstart ∧
       ((List.range 64).all fun i => !(bit (lrDeps w) i) || r.ndone.contains i) = true ∧ lrDeps w ≠ 0 ∧ served s 3 = true)) = true := by decide +kernel

theorem met_passed_slots :
    ([true, false].all fun b =>
      let s : State := { st fly with slots := [(0, { queue := some 3, next := some 5 })], queues := [(5, if b then desc 3 1 else {})] }
      decide ((s.slots.get 0).queue = some 3 ∧ (s.slots.get 0).next = some 5 ∧ (s.queues.get 5).pending = b)) = true := by decide +kernel

/-- The machine with an ascent of that image to place; its other crews are gone. -/
def placing : State :=
  let r : Rec := { no := 0, w := launch, started := true }
  { ringed { desc 1 1 with recs := [r] } launch with
    crews := [], flights := [], ascents := [(9, { queue := 3, image := 0x1800, nflt := 1 })]
    module := { (st fly).module with clus := 1 } }

theorem met_placements :
    decide (placing.module.stopped = false ∧ slotOrder placing = [0] ∧ (placing.slots.get 0).queue = some 3 ∧
      toPlace placing 3 = [9] ∧ (tryPlace placing 0 9).isSome = true) = true ∧
    ([0, 1, 15].Nodup ∧ (({ crew := 16 } : Variant).crew = 16)) := by decide +kernel

/-- The machine with a flight on core 0. -/
def flown (f : Flight) (w : Crew → Crew) : State :=
  let s := { st (Kite.launch 0 512) with flights := [(4, f)], ev := { unit := 4, sub := 0, item := 0, value := 3 } }
  s.modCrew 0 fun x => w { x with flight := 4 }

theorem met_switches :
    (let f : Flight := { cores := [0], relane := true }
     let s := flown f id
     decide (s.flights.find 4 = some f ∧ f.st = .placed ∧ mustLeave s f = true ∧ bit s.module.repMask (flightCtx s f) = false)) = true ∧
    (let f : Flight := { cores := [0], st := .stopping }
     let s := flown f id
     s.flights.find 4 = some f ∧ s.crewsOk ∧ (crewsStopped s (crewCores s 4)).2 = true) ∧
    ([(0, 7), (8, 7)].all fun e =>
      let f : Flight := { cores := [0], st := .saved, saved := [{ n := 2, mvlb := 512 }], savedAt := e.1 }
      let s : State := { flown f id with crews := [], slots := [(0, { queue := some 0 })], ev := { unit := 4, cores := [5] }
                                         dies := [(0, { cycle := e.2 })], module := { (st fly).module with clus := 1 } }
      decide (s.flights.find 4 = some f ∧ sharedFit s 0 1 = some 0 ∧ coresTake s f [5] = true ∧ (e.1 ≤ e.2 → mayResume s f 0 = true) ∧
        (f.savedAt ≤ (s.die (clusterOf (s.ev.cores.headD 0) / 6)).cycle ↔ e.1 = 0) ∧
        (s.ascents.get f.ascent).aborted = false)) = true ∧
    (let m := under (linWords 16) 0
     let f : Flight := { cores := [0], st := .stopping }
     let s : State := { flown f fun w => { w with ports := [(0, { cmds := [m] })] } with dies := [(0, { cycle := 30000 })] }
     decide (s.flights.find 4 = some f ∧ f.since + 30000 ≤ flightNow s f ∧ (s.crew 0).flight = 4 ∧ s.hasCrew 0 = true ∧
       (nextServed s 0 0)[s.ev.cores.headD 0]? = some m ∧ m.started = true ∧ m.units < cmdUnits m.d m.dst)) = true ∧
    ([true, false].all fun other =>
      let f : Flight := { cores := [0] }
      let s : State := { flown f fun w => { w with ending := true } with ev := { unit := 0 } }
      let s := if other then { s with crews := s.crews ++ [(5, { flight := 4 })] } else s
      let u := (crewDone s 0).1
      decide (s.flights.find (s.crew 0).flight = some f ∧ s.hasCrew 0 = true ∧ f.st = .placed ∧ (crewDone s 0).2 = true) &&
        (if other then decide (u.hasCrew 5 = true ∧ (u.crew 5).flight = 4)
          else u.crews.all fun e => e.1 == 0 || e.2.flight != (s.crew 0).flight)) = true := by
  unfold State.crewsOk; decide +kernel

theorem met_ascents_complete :
    ([(false, none), (true, none), (false, some 7)].all fun e =>
      let a : Ascent := { doneaddr := 0x1800, doneval := 5, irq := true, aborted := e.1, endCause := e.2 }
      let s := { tinted [(3, { st := .retired })] .none with ascents := [(9, a)] }
      decide (s.ascents.get 9 = a ∧ a.node = none ∧ a.doneaddr ≠ 0 ∧ a.doneaddr % 8 = 0 ∧
        (mapXlat s a.ctx a.doneaddr .store).isSome = true ∧ Memory.wf s.mem = true)) = true := by decide +kernel

theorem met_page_drain :
    ((slotted.ctx 0).drain.find? fun d => d.page == 0) = some { page := 0, slot := 2 } ∧ pageHeld slotted 0 { page := 0, slot := 2 } = false := by
  decide +kernel

/-- The machine with an error of a unit on core 0, met by kite 0. -/
def erring (unit lg : Nat) (x : Kite) : State := evented (st x) { err := { unit := unit, lg := lg, core := 0, agent := 0 } }

theorem met_errors :
    ([(0, 255), (128, 255), (128, 127)].all fun e =>
      let s := ((erring 1 7 fly).modCore 0 fun k => { k with laneBad := e.1 }).modCrew 0 fun w => { w with colGood := e.2 }
      decide (errKnown s.ev.err = true ∧ bit (s.core 0).laneBad 7 = decide (e.1 = 128) ∧ s.hasCrew 0 = true ∧
        usesGroup s 0 7 = decide (e.2 = 255) ∧ ((s.kite 0 0).st = .flying ∧ (s.kite 0 0).region = none ∧
          (s.kite 0 0).wait = .none ∧ (s.kite 0 0).mmRun = false) ∧
        (s.die 0).errq.length < 64 ∧ (s.die 0).cycle < 2 ^ 64)) = true ∧
    errKnown (erring 0 0 fly).ev.err = false := by decide +kernel

/-- The word of ld s7, [s4 + 16] of 8 bytes. -/
def ldF : Fields := { ty := 3, rd := 2, a := .s 7, b := .mem 4 16 }

theorem met_lost_data :
    (let s := erring 7 0 { fly with buf0 := { blk with words := [(encodeKite (.ld ldF)).getD 0] } }
     let r := report s s.ev.err 1
     let u := { r with cur := .kite 0 0, hold := false }
     let x := r.kite 0 0
     s.hasCrew 0 && decide ((s.kite 0 0).firstLoad = none) && r.crewRuns 0 && decide (x.st = .flying ∧ x.region = none ∧ x.resume ≠ .after) &&
       okWith x.fetch (fun i => decide (i = .ld ldF)) && legalInstr (.ld ldF) && x.guardBit ldF 0 &&
       match exec (.ld ldF) u with
       | .next t => decide ((t.kite 0 0).st ≠ .parked ∧ t.kite 0 0 ≠ x ∧ (t.kite 0 0).wait = .none)
       | _ => false) = true ∧
    ([(0x70, ({ elems := [{ i := 0, va := 0x1800 }] } : HeldLoad)), (0x50, { elems := [{ i := 0, va := 0x1800 }] }),
        (0x88, { elems := [{ i := 0, va := 0x1800 }], was := [1] })].all fun e =>
      let v : VqEntry := { op := e.1, load := some e.2 }
      let s := erring 7 0 { fly with vq := [v] }
      decide (s.ev.err.row ≠ 1 ∧ (s.kite 0 0).firstLoad = some (0, e.2) ∧ (s.kite 0 0).st = .flying ∧
        (s.kite 0 0).region = none ∧ (s.kite 0 0).wait = .none ∧ (s.kite 0 0).mmRun = false ∧ (s.kite 0 0).vq[0]? = some v ∧
        errElt s.ev.err = 0)) = true := by decide +kernel

theorem met_bringup :
    (st fly).module.fwWait = false ∧ ({ fwWait := true } : Module).fwWait = true ∧ (st fly).module.hbmBad = false ∧
    ({ hbmBad := true } : Module).hbmBad = true := by decide +kernel

theorem met_mailbox :
    (st fly).module.mbox.busy = false ∧ ({ busy := true, code := 1 } : Mailbox).busy = true ∧ Memory.wf (st fly).mem = true ∧
    ({ dmp := true } : Module).dmp = true ∧ ({ fwWait := true } : Module).fwWait = true := by decide +kernel

theorem met_outside_accesses :
    (let s := evented { st fly with module := { (st fly).module with winbase := codePa } } { unit := 0x5000, item := 8 }
     ((List.range 8).all fun i => barAddr s (s.ev.unit + i) == some (codePa + 0x5000 + i)) && Memory.wf s.mem && decide (s.ev.unit % 8 = 0) &&
       decide (s.ev.unit < 2 ^ s.module.barLog2)) = true ∧
    (let s := evented (st fly) { peer := { addr := codePa + 0x5000, n := 8 } }
     ((List.range 8).all fun i => peerAddr s (s.ev.peer.addr + i) == some (codePa + 0x5000 + i)) && decide ((codePa + 0x5000) % 8 = 0)) = true := by
  decide +kernel

/-! ## Results

One step, with what the manual's worked examples and its tables of results say of it. -/

/-- The state after a Carug word on kite 0; the state as it was where it is no instruction. -/
def after (w : CWord) (s : State) : State :=
  match decodeKite w with
  | some i => (match exec i s with | .next t => t | _ => s)
  | none => s

/-- The state after a RISC-V word on the reel. -/
def reelAfter (w : RWord) (s : State) : State :=
  match decodeReel w with
  | some i => (match exec i s with | .next t => t | _ => s)
  | none => s

/-- The state after an event. -/
def eventAfter (i : Instr) (s : State) : State := match exec i s with | .next t => t | _ => s

/-- A kite with s6 and s7. -/
def pairOf (b c : Word) : Kite := { fly with s := [(6, b), (7, c)] }

/-- s5 after a word that reads s6 and s7. -/
def s5 (w : CWord) (b c : Word) : Word := ((after w (st (pairOf b c))).kite 0 0).sget 5

/-- R79, R81: add wraps; mulh.s takes the high half of the signed product. -/
theorem test_add_wraps : s5 0x010000001280013000138000 0xFFFFFFFFFFFFFFFF 2 = 1 := by decide +kernel
theorem test_mulh_signed : s5 0x0A0000001280013000138000 0xFFFFFFFFFFFFFFFF 2 = 0xFFFFFFFFFFFFFFFF := by decide +kernel

/-- R81: division by zero gives all ones for div.s and the dividend for rem.n; sra divides with the floor. -/
theorem test_div_by_zero : s5 0x0B0000001280013000138000 7 0 = 0xFFFFFFFFFFFFFFFF := by decide +kernel
theorem test_rem_by_zero : s5 0x0B3000001280013000138000 7 0 = 7 := by decide +kernel
theorem test_sra_floors : s5 0x080000001280013000D00010 0xFFFFFFFFFFFFFFFD 0 = 0xFFFFFFFFFFFFFFFE := by decide +kernel

/-- R96, R97: 2^24 + 1 rounds to 2^24 in F32, and the old value is 2^24. -/
theorem test_famo_rounds :
    (let s := setSpMem (st { fly with s := [(6, 0x3F800000), (10, 0)] }) 0 1 (memWrite [] 0 (toBytes 4 0x4B800000))
     let t := after 0x260D000013000E5000D00100 s
     ((t.kite 0 0).sget 6, memRead (spMem t 0 1) 0 4)) = (0x4B800000, 0x4B800000) := by decide +kernel

/-- A kite whose active elements fill n bytes, with the given vectors. -/
def vecs (n : Nat) (l : List (Nat × Nat)) : Kite := { fly with vlen := n, v := l.map fun e => (e.1, { data := e.2 }) }

/-- R154: 1 + 1.5 × 2^−23 rounds to 0x3F80_0002 to nearest, and to 0x3F80_0001 toward zero. -/
theorem test_vadd_rne :
    (((after 0x500D00E02080021800220000 (st (vecs 4 [(3, 0x3F800000), (4, 0x34400000)]))).kite 0 0).vget 1).elem 13 0 =
      0x3F800002 := by decide +kernel
theorem test_vadd_rtz :
    (((after 0x500D00E02080021800220000 (st { vecs 4 [(3, 0x3F800000), (4, 0x34400000)] with rm := 1 })).kite 0 0).vget 1).elem 13 0 =
      0x3F800001 := by decide +kernel

/-- R137: unzip takes the even elements of 1, 2, 3 | 4, 5, 6 into v6 and the odd ones into v7; slide.up keeps the first. -/
theorem test_unzip :
    (let x := (after 0x491100002300024000248000 (st (vecs 6 [(8, 0x000300020001), (9, 0x000600050004)]))).kite 0 0
     ((x.vget 6).data, (x.vget 7).data)) = (0x000500030001, 0x000600040002) := by decide +kernel
theorem test_slide_up :
    (((after 0x470100002300024000D00010 (st (vecs 6 [(6, 0x000900090009), (8, 0x000300020001)]))).kite 0 0).vget 6).data =
      0x000200010009 := by decide +kernel

/-- R176: the sums of [[[1, 2], [3]], [[4]]] at depths 1 and 2. -/
def nestedKite : Kite :=
  { fly with vlen := 16, v := [(5, { data := 1 + 2 * 2 ^ 32 + 3 * 2 ^ 64 + 4 * 2 ^ 96, link := some 1 })]
             h := [(1, { lv := [[0, 2, 3], [0, 2, 3, 4]] })] }
theorem test_sums_at_depth_1 :
    ((List.range 2).map fun i => (((after 0x800201002200022800000000 (st nestedKite)).kite 0 0).vget 4).elem 2 i) = [6, 4] := by decide +kernel
theorem test_sums_at_depth_2 :
    ((List.range 3).map fun i => (((after 0x800202002200022800410000 (st nestedKite)).kite 0 0).vget 4).elem 2 i) = [3, 3, 4] := by decide +kernel

/-- R258: X of the example writes its pads under FILL, and leaves the neighbour's elements under SKIP. -/
def padding (pad : Nat) : State :=
  let m : Cmd := { under [2 + pad * 2 ^ 12, 0, 0, 0, 0, 0xFFFE, 4 * 2 ^ 16, 0xFFFFFFFF * 2 ^ 32] 0 with
    src := 0x100 + 6 * 2 ^ 64 + 2 * 2 ^ 224 + 2 ^ 232 + 2 ^ 236, dst := 4 * 2 ^ 64 + 2 * 2 ^ 224 + 2 ^ 232 + 2 * 2 ^ 236 }
  let s := setSpMem (ported (st fly) 0 [m] []) 0 1 (memWrite [] 0x100 ([1, 2, 3, 4, 5, 6].flatMap (toBytes 4)))
  setSpMem s 0 2 (memWrite [] 0 ([5, 6].flatMap (toBytes 4)))
theorem test_pad_fills :
    memRead (spMem (eventAfter .tens (padding 0)) 0 2) 0 16 = 0xFFFFFFFF + 0xFFFFFFFF * 2 ^ 32 + 2 ^ 64 + 2 * 2 ^ 96 := by
  decide +kernel
theorem test_pad_skips :
    memRead (spMem (eventAfter .tens (padding 1)) 0 2) 0 16 = 5 + 6 * 2 ^ 32 + 2 ^ 64 + 2 * 2 ^ 96 := by decide +kernel

/-- R261, R262: the promises of the example's commands A to D. -/
def pushAt (s : State) (t : Nat) (d : List Nat) : State × Nat :=
  let s := { s with dies := [(0, { cycle := t })] }
  match pushCommand s 0 0 0 0 (d.map (BitVec.ofNat 64)) id with
  | .done s p => (s, p.toNat)
  | _ => (s, 0)
def promises : List Nat :=
  let lin := fun (sp len dl : Nat) => [1 + sp * 2 ^ 20 + sp * 2 ^ 24 + (if dl = 0 then 0 else 2 ^ 9), 0x2000, 0x2800, dl, 0, len, 0, 0]
  let s0 := hbmState []
  let a := pushAt s0 10000 (lin 0 0x10000 0)
  let b := pushAt a.1 10100 (lin 1 0x4000 0)
  let c := pushAt b.1 10200 (lin 1 0x1000 10300)
  let d := pushAt c.1 10210 (lin 1 0x10000 10500)
  [a.2, b.2, c.2, d.2]

theorem test_promises : promises = [12675, 10743, 10273, 10903] := by decide +kernel

/-- R334: the leaf of the example, at index 0x142, maps VA 0x1234_5000 to PA 0x8000_5000. -/
def leafState : State :=
  let at_ := fun (a v : Nat) (m : List Host.Cell) => memWrite m (lpddrBase + a) (toBytes 8 v)
  let link := fun (a : Nat) => lpddrBase + a + 3
  { st fly with
    mem := at_ 0x10000 (link 0x11000) (at_ 0x11000 (link 0x12000) (at_ (0x12000 + 8 * 0x91) (link 0x13000)
      (at_ (0x13000 + 8 * 0x142) 0x080000008000206D [])))
    ctxs := [(0, { valid := true, root := lpddrBase + 0x10000 })]
    module := { lpddr := true, hbm := true } }
theorem test_run_block :
    okWith (translate leafState 0 0 0x12342000 .load .kite) (fun r =>
      let s := tlbBlock r.2 0 0 2 0x12344
      okWith (translate s 0 0 0x12345000 .load .kite) (fun q => q.1.a == 0x80005000) &&
        (tlbBlock r.2 0 0 3 0x12340 == r.2)) = true := by decide +kernel

/-- R2: mul and div of the reel are those of RV64M, where division by zero gives all ones. -/
theorem test_reel_mul : ((reelAfter 0x023100B3 (rst { reel0 with x := [(2, 6), (3, 7)] } fly)).reelOf 0).xget 1 = 42 := by decide +kernel
theorem test_reel_div_by_zero :
    ((reelAfter 0x023140B3 (rst { reel0 with x := [(2, 6)] } fly)).reelOf 0).xget 1 = 0xFFFFFFFFFFFFFFFF := by decide +kernel

/-- R330, log 33: software outside changes bytes of host memory, and none of the module's. -/
theorem test_outside_write :
    (memGet (outsideWrite State.reset hostBase 7).mem hostBase == 7 &&
      outsideWrite State.reset lpddrBase 7 == State.reset) = true := by decide +kernel

end Sys2Proof.Tests
end

section
/-!
PROOFS. The words of Carug (R24 to R31): an operand and its 20 bits, a row of the operation tables and the instruction
that it builds, a word and its fields; then that decoding and encoding agree.
-/
namespace Sys2Proof.Laws.Rebuild

/-- Every instruction of the Carug tables is what its OP, FN, fields and immediate build: the laws of the single
constructors, put together. -/
theorem statement_of_instr (i : Instr) : Statement i :=
  Instr.casesOn i
    add sub and or xor shl shr sra mul mulhS mulhN mulhSn divS divN remS remN min minn max maxn cmpEq cmpNe
    cmpLt cmpGe cmpLtn cmpGen li mov sel clz popc br jmpNear jmpFar jmpReg call ret qbr fetchb land yield nop
    trap sleepu csrr csrw ld st ldsp stsp amoAdd amoAnd amoOr amoXor amoMin amoMax amoMinn amoMaxn amoSwap cas
    famoAddF32 famoAddBf16 famoMinF32 famoMaxF32 fenceFull fenceRel fenceAcq fenceStrip barArrive barWait regb
    rege hview qpush qpop qpeek tsendLeft tsendRight trecv setvl getmvl rep plogicAnd plogicOr plogicXor
    plogicAndn plogicNot plogicSet plogicClear pcnt pfirst vperm vslideUp vslideDown vtrans8 vzipZip vzipUnzip
    vbcast viota vext vins vadd vsub vmul vfma vdiv vsqrt vmin vmax vabs vneg vand vor vxor vshl vshrLog vshrAri
    vcmpEq vcmpNe vcmpLt vcmpLe vcmpGt vcmpGe vcmpUo vcmpOrd vsel vmulh vmadd vsat vsfnExp2 vsfnLog2 vsfnRcp
    vsfnRsqrt vsfnTanh vsfnSigmoid vsfnErf vsfnSin vclass vcvtHalve vcvtDouble vcvtq vbsclRdscale vbsclWrscale
    vbsclRdvalid vbsclWrvalid vbsclRdspare vbsclWrspare vld vst vldx vstx vldff vldb vstb vbind vunbind mmvCopy
    mmvAdd mmvMul mmvFma mmvCvt mmvMax mmvMin nredAdd nredMin nredMax nredAnd nredOr nredXor nscanAdd nscanMin
    nscanMax nscanAnd nscanOr nscanXor npack ndist nlen nnest nflat nsort nshld nshst nkrd nkwr tshapeCore
    tshapeFlight mrec mma maccrd maccwr macczero mwait epush epop estat spsrch rcsnap rcfenceAll rcfenceAddr
    kiteBridle kiteFly kiteWait kiteKill kiteRole kiteStat kiteTint kiteMvl qPush qPop qPeek ePush ePop eStat
    reelSleepu cyc hypOpen hypFix hypBleach hypStat hypEnter fbarArrive fbarWait errPop slotAdmit slotRetire
    gpRd ascentDone uevRet riscVInstruction blockFillEnd waitConditionClear drainComplete sleepExpiry
    kiteWaitDeadline queueStall arrivalMarker writePathDrain fix bleach tintFree lin tens rows samp gath scat
    page cancel commandComplete arrivalCounterIncrement promiseMissed mcastTimeout bankReservationLimit
    userEventTake notifyWrite queueDescriptorWrite abort contextEntryWrite devnum tlbinvAll tlbinvAsid
    tlbinvAsidGen tlbinvPages tlbinvSpans invalidationComplete pageRequest resident denied noFrame loadFw attest
    cert replayCtl replayRead registerWrite hostBarAccess hostAtomicop queueBind quantumEnd recordTake
    recordStart graphNodeStart flightPlacement switchOut switchOutComplete abandonment resumption crewEnd
    slotPageDrain uncorrectableError correctedError portTrained portDown moduleReset bringupReady throttle
    thermalStop thermalRecovery peerAccess atomicopCompletion lostRead kBlock vectorInstructionComplete

end Sys2Proof.Laws.Rebuild

namespace Sys2Proof

open Machine

/-! ## Operands (R27) -/

theorem operandRead_operandBits (o : Operand) : operandRead (operandBits o) = o := by
  cases o with
  | none => rfl
  | _ =>
    simp (disch := decide) only [operandBits, operandRead, BitVec.extractLsb'_append_eq_of_le,
      BitVec.extractLsb'_append_eq_of_add_le]
    simp only [Nat.reduceSub, Nat.reduceAdd, BitVec.extractLsb'_eq_self, BitVec.toNat_ofNat, Nat.reducePow,
      Nat.reduceMod]

/-- A field reads as an operand exactly where it holds the operand's bits. -/
theorem operandOf_eq_some_iff {x : BitVec 20} {o : Operand} : operandOf x = some o ↔ x = operandBits o := by
  unfold operandOf
  constructor
  · intro h
    split at h
    next hx =>
      cases h
      exact hx.symm
    next => cases h
  · rintro rfl
    rw [operandRead_operandBits, if_pos rfl]

/-! ## Rows of the operation tables (R34, R35) -/

/-- The instruction stands in a row with the given OP whose FN admits that of its fields f. -/
def CarugRow (op : Nat) (f : Fields) (i : Instr) : Prop :=
  ∃ lo hi, carugParts i = some (op, lo, hi, f) ∧ lo ≤ f.fn.toNat ∧ f.fn.toNat ≤ hi

/-- The bits of B and C under an OP: the immediate of li (R29), under any other OP two operands. -/
def wordBC (op : Nat) (f : Fields) (imm : BitVec 40) : BitVec 40 :=
  if op = 0x0E then imm else operandBits f.b ++ operandBits f.c

section Rows

variable {op : Nat} {f : Fields} {imm : BitVec 40} {i : Instr}

/-- The rows of the six tables one by one: each builds an instruction of its own OP, FN and bits. -/
theorem row_of_carugBuild (h : carugBuild op f imm = some i) :
    op < 256 ∧ CarugRow op f i ∧ carugBC i f = wordBC op f imm := by
  unfold carugBuild carugBuildS carugBuildM carugBuildP carugBuildA carugBuildN carugBuildU at h
  unfold CarugRow
  generalize f.fn.toNat = fn at h ⊢
  repeat' split at h
  all_goals cases h
  all_goals exact ⟨by decide, ⟨_, _, rfl, by decide, by decide⟩, rfl⟩

theorem CarugRow.carugBuild_eq (h : CarugRow op f i) : carugBuild op f (carugBC i f) = some i := by
  obtain ⟨lo, hi, hp, hlo, hhi⟩ := h
  exact Laws.Rebuild.statement_of_instr i op lo hi f hp hlo hhi

theorem CarugRow.op_lt (h : CarugRow op f i) : op < 256 :=
  (row_of_carugBuild h.carugBuild_eq).1

theorem CarugRow.carugBC_eq (h : CarugRow op f i) : carugBC i f = wordBC op f (carugBC i f) :=
  (row_of_carugBuild h.carugBuild_eq).2.2

/-- Only li takes an immediate. -/
theorem carugBuild_imm (h : op ≠ 0x0E) (imm imm' : BitVec 40) : carugBuild op f imm = carugBuild op f imm' := by
  unfold carugBuild carugBuildS
  split
  · split <;> trivial
  · rfl

/-- An OP and fields build an instruction exactly where it stands in a row with them and has the given bits of B
and C. -/
theorem carugBuild_eq_some_iff :
    carugBuild op f imm = some i ↔ CarugRow op f i ∧ carugBC i f = wordBC op f imm := by
  constructor
  · exact fun h => (row_of_carugBuild h).2
  · rintro ⟨hrow, hbc⟩
    by_cases hli : op = 0x0E
    · rw [wordBC, if_pos hli] at hbc
      rw [← hbc, hrow.carugBuild_eq]
    · rw [carugBuild_imm hli imm (carugBC i f), hrow.carugBuild_eq]

theorem slNone_ok_iff {o : Operand} : Slot.ok ⟨0, 0, 0, 1⟩ o = true ↔ o = .none := by
  cases o <;> simp [Slot.ok, opdClass, opdValue]

/-- The entry of li has the class none in B and C. -/
theorem operands_of_legalFields_li (h : legalFields 0x0E f = true) : f.b = .none ∧ f.c = .none := by
  have he : entry 0x0E f.fn.toNat = if f.fn.toNat = 0 then some { a := [slS] } else none := rfl
  rw [legalFields, he] at h
  by_cases hfn : f.fn.toNat = 0
  · simp only [if_pos hfn, List.any_cons, List.any_nil, Bool.or_false, Bool.and_eq_true, slNone_ok_iff] at h
    obtain ⟨⟨⟨_, hb⟩, hc⟩, _⟩ := h
    exact ⟨hb, hc⟩
  · rw [if_neg hfn] at h
    cases h

end Rows

/-! ## The fields of a word (Table 2-1) -/

/-- The word of an OP, fields and the bits of B and C. -/
def kiteWord (op : BitVec 8) (f : Fields) (bc : BitVec 40) : CWord :=
  op ++ f.fn ++ f.ty ++ f.gp ++ BitVec.ofBool f.gn ++ BitVec.ofBool f.dt ++ f.dp ++ f.rm ++ BitVec.ofBool f.yld ++
    f.rd ++ BitVec.ofBool f.chn ++ BitVec.ofBool f.lst ++ operandBits f.a ++ bc ++ f.xf

section Words

variable (op : BitVec 8) (f : Fields) (bc : BitVec 40)

theorem op_kiteWord : (kiteWord op f bc).extractLsb' 88 8 = op := by
  simp (disch := decide) only [kiteWord, BitVec.extractLsb'_append_eq_of_le, Nat.reduceSub, BitVec.extractLsb'_eq_self]

theorem a_kiteWord : (kiteWord op f bc).extractLsb' 44 20 = operandBits f.a := by
  simp (disch := decide) only [kiteWord, BitVec.extractLsb'_append_eq_of_le, BitVec.extractLsb'_append_eq_of_add_le,
    Nat.reduceSub, BitVec.extractLsb'_eq_self]

theorem bc_kiteWord : (kiteWord op f bc).extractLsb' 4 40 = bc := by
  simp (disch := decide) only [kiteWord, BitVec.extractLsb'_append_eq_of_le, BitVec.extractLsb'_append_eq_of_add_le,
    Nat.reduceSub, BitVec.extractLsb'_eq_self]

theorem fieldsOf_kiteWord : fieldsOf (kiteWord op f bc) f.a f.b f.c = f := by
  simp (disch := decide) only [kiteWord, fieldsOf, BitVec.extractLsb'_append_eq_of_le,
    BitVec.extractLsb'_append_eq_of_add_le, BitVec.extractLsb'_eq_self, BitVec.getLsbD_append, BitVec.getLsbD_ofBool,
    Nat.reduceLT, Nat.reduceSub, reduceIte, decide_true, Bool.true_and]

theorem ofBool_getLsbD (w : CWord) (n : Nat) : BitVec.ofBool (w.getLsbD n) = w.extractLsb' n 1 := by
  apply BitVec.eq_of_getLsbD_eq
  intro j hj
  obtain rfl : j = 0 := by omega
  simp only [BitVec.getLsbD_ofBool, BitVec.getLsbD_extractLsb', Nat.lt_add_one, decide_true, Bool.true_and,
    Nat.add_zero]

/-- No bit of a word is outside the fields of Table 2-1. -/
theorem kiteWord_fieldsOf {w : CWord} {a : Operand} (b c : Operand) (h : w.extractLsb' 44 20 = operandBits a) :
    kiteWord (w.extractLsb' 88 8) (fieldsOf w a b c) (w.extractLsb' 4 40) = w := by
  simp only [kiteWord, fieldsOf, ← h, ofBool_getLsbD]
  simp (disch := decide) only [BitVec.extractLsb'_append_extractLsb'_eq_extractLsb']
  exact BitVec.extractLsb'_eq_self

/-- A word is that of an OP, fields and bits of B and C exactly where it holds each of them. -/
theorem kiteWord_eq_iff {w : CWord} : kiteWord op f bc = w ↔
    w.extractLsb' 88 8 = op ∧ fieldsOf w f.a f.b f.c = f ∧ w.extractLsb' 44 20 = operandBits f.a ∧
      w.extractLsb' 4 40 = bc := by
  constructor
  · rintro rfl
    exact ⟨op_kiteWord .., fieldsOf_kiteWord .., a_kiteWord .., bc_kiteWord ..⟩
  · rintro ⟨rfl, hf, ha, rfl⟩
    have hw := kiteWord_fieldsOf f.b f.c ha
    rwa [hf] at hw

/-- The fields B and C hold two operands exactly where their 40 bits are those of the two. -/
theorem bc_eq_operands_iff {w : CWord} {b c : Operand} :
    w.extractLsb' 4 40 = operandBits b ++ operandBits c ↔
      w.extractLsb' 24 20 = operandBits b ∧ w.extractLsb' 4 20 = operandBits c := by
  have hw : w.extractLsb' 4 40 = w.extractLsb' 24 20 ++ w.extractLsb' 4 20 :=
    (BitVec.extractLsb'_append_extractLsb'_eq_extractLsb' (len₁ := 20) (len₂ := 20) rfl).symm
  rw [hw]
  constructor
  · intro h
    have hb := congrArg (BitVec.extractLsb' 20 20) h
    have hc := congrArg (BitVec.extractLsb' 0 20) h
    simp only [BitVec.extractLsb'_append_eq_left, BitVec.extractLsb'_append_eq_right] at hb hc
    exact ⟨hb, hc⟩
  · rintro ⟨hb, hc⟩
    rw [hb, hc]

end Words

/-! ## Decoding and encoding -/

/-- What a word must hold to decode to an instruction: legal fields, its operands and, under OP 0x0E, an immediate. -/
theorem decodeKite_eq_some_iff {w : CWord} {i : Instr} : decodeKite w = some i ↔
    ∃ f, fieldsOf w f.a f.b f.c = f ∧ w.extractLsb' 44 20 = operandBits f.a ∧
      w.extractLsb' 4 40 = wordBC (w.extractLsb' 88 8).toNat f (w.extractLsb' 4 40) ∧
      legalFields (w.extractLsb' 88 8).toNat f = true ∧
      carugBuild (w.extractLsb' 88 8).toNat f (w.extractLsb' 4 40) = some i := by
  unfold decodeKite
  by_cases hop : (w.extractLsb' 88 8).toNat = 0x0E
  · simp only [hop, wordBC, if_true, true_and]
    constructor
    · intro h
      split at h
      next a ha =>
        split at h
        next hl => exact ⟨fieldsOf w a .none .none, rfl, operandOf_eq_some_iff.mp ha, hl, h⟩
        next => cases h
      next => cases h
    · rintro ⟨f, hf, ha, hl, hbuild⟩
      obtain ⟨hb, hc⟩ := operands_of_legalFields_li hl
      rw [hb, hc] at hf
      simp only [operandOf_eq_some_iff.mpr ha, hf, hl, hbuild, if_true]
  · simp only [hop, wordBC, if_false, bc_eq_operands_iff, carugBuild_imm hop (w.extractLsb' 4 40) 0]
    constructor
    · intro h
      split at h
      next a b c ha hb hc =>
        split at h
        next hl => exact ⟨fieldsOf w a b c, rfl, operandOf_eq_some_iff.mp ha,
          ⟨operandOf_eq_some_iff.mp hb, operandOf_eq_some_iff.mp hc⟩, hl, h⟩
        next => cases h
      next => cases h
    · rintro ⟨f, hf, ha, ⟨hb, hc⟩, hl, hbuild⟩
      simp only [operandOf_eq_some_iff.mpr ha, operandOf_eq_some_iff.mpr hb, operandOf_eq_some_iff.mpr hc, hf, hl,
        hbuild, if_true]

/-- An instruction is well formed and encodes to a word exactly where its row's OP, its legal fields and its bits of B
and C make up the word. -/
theorem wellFormed_and_encodeKite_iff {w : CWord} {i : Instr} : i.WellFormed ∧ encodeKite i = some w ↔
    ∃ op f, CarugRow op f i ∧ legalFields op f = true ∧ kiteWord (BitVec.ofNat 8 op) f (carugBC i f) = w := by
  unfold Instr.WellFormed legalInstr encodeKite CarugRow
  cases hp : carugParts i with
  | none => simp only [reduceCtorEq, and_false, false_and, exists_const]
  | some p =>
    obtain ⟨op, lo, hi, f⟩ := p
    constructor
    · rintro ⟨hl, he⟩
      simp only [Bool.and_eq_true, decide_eq_true_eq] at hl
      obtain ⟨⟨hlo, hhi⟩, hf⟩ := hl
      exact ⟨op, f, ⟨lo, hi, rfl, hlo, hhi⟩, hf, Option.some.inj he⟩
    · rintro ⟨_, _, ⟨_, _, ⟨⟩, hlo, hhi⟩, hf, rfl⟩
      exact ⟨by simp only [hlo, hhi, hf, decide_true, Bool.and_self], rfl⟩

/-- Settles O42: a word decodes exactly where its OP, fields and bits of B and C are those of a row of the tables, and
that row's instruction encodes to just these. -/
theorem carugDecodeEncode : Obligations.CarugDecodeEncode := by
  intro w i
  simp only [decodeKite_eq_some_iff, wellFormed_and_encodeKite_iff, carugBuild_eq_some_iff, kiteWord_eq_iff]
  constructor
  · rintro ⟨f, hf, ha, hbc, hl, hrow, hi⟩
    exact ⟨_, f, hrow, hl, by rw [BitVec.ofNat_toNat, BitVec.setWidth_eq], hf, ha, hbc.trans hi.symm⟩
  · rintro ⟨op, f, hrow, hl, hop, hf, ha, hbc⟩
    have hop' : (w.extractLsb' 88 8).toNat = op := by
      rw [hop, BitVec.toNat_ofNat, Nat.mod_eq_of_lt hrow.op_lt]
    rw [hop', hbc]
    exact ⟨f, hf, ha, hrow.carugBC_eq, hl, hrow, hrow.carugBC_eq⟩

/-- Settles O41: the decoder evaluates to each of the listed instructions, or to none. -/
theorem decodedWords : Obligations.DecodedWords := by
  unfold Obligations.DecodedWords
  exact ⟨rfl, rfl, rfl, rfl, rfl, rfl, rfl, rfl, rfl, rfl, rfl, rfl, rfl, rfl, rfl⟩

end Sys2Proof
end

section
/-!
PROOFS. The queue and tether instructions (R101, R104 to R107), the barrier instructions and the phases of a barrier
unit (R108 to R112): one equation for each way that an instruction ends, then the statements put together from them.
-/
namespace Sys2Proof.Machine

/-- An instruction that runs in the frame, and whose guard lets it run, ends as its body does. -/
theorem exec_of_issues {i : Instr} {s : State} {c k op a b : Nat} {f : Fields}
    {body : State → Nat → Nat → Kite → Res} (h : Issues i s c k)
    (he : exec i s = .next (issue i s body)) (hp : carugParts i = some (op, a, b, f)) :
    exec i s = .next ((body s c k (s.kite c k)).ends s c k f.yld) := by
  rw [he, issue_of_issues h hp]

section Instructions

variable {s : State} {c k : Nat} {f : Fields}

/-! ## Queues (R101, R107) -/

theorem exec_qpush_of_room (h : Issues (.qpush f) s c k) (hl : (s.queueOf c (opdValue f.a)).length < 16) :
    exec (.qpush f) s = .next (retire (s.setQueueOf c (opdValue f.a)
      (s.queueOf c (opdValue f.a) ++ [(s.kite c k).opd f.b])) c k f.yld) := by
  rw [exec_of_issues h rfl rfl]
  simp only [if_neg (Nat.not_le.mpr hl), Res.ends_done]

theorem exec_qpush_of_full (h : Issues (.qpush f) s c k) (hl : 16 ≤ (s.queueOf c (opdValue f.a)).length) :
    exec (.qpush f) s = .next (waitKite s c k (.qpush (opdValue f.a))) := by
  rw [exec_of_issues h rfl rfl]
  simp only [if_pos hl, Res.ends_wait]

theorem exec_qpop_of_cons {w : Word} {ws : List Word} (h : Issues (.qpop f) s c k)
    (hq : s.queueOf c (opdValue f.b) = w :: ws) :
    exec (.qpop f) s = .next (retire ((popped s c k (opdValue f.b)).modKite c k fun x =>
      x.sset (opdValue f.a) w) c k f.yld) := by
  rw [exec_of_issues h rfl rfl]
  simp only [hq, Res.ends_done, popped, List.tail_cons, State.modKite_modKite]

theorem exec_qpop_of_nil (h : Issues (.qpop f) s c k) (hq : s.queueOf c (opdValue f.b) = []) :
    exec (.qpop f) s = .next (waitKite s c k (.qpop (opdValue f.b))) := by
  rw [exec_of_issues h rfl rfl]
  simp only [hq, Res.ends_wait]

theorem exec_qpeek_of_none (h : Issues (.qpeek f) s c k) (hc : f.c = .none) :
    exec (.qpeek f) s = .next (retire (s.modKite c k fun x =>
      x.sset (opdValue f.a) ((s.queueOf c (opdValue f.b)).headD 0)) c k f.yld) := by
  rw [exec_of_issues h rfl rfl]
  simp only [hc, Res.ends_done]

theorem exec_qpeek_of_pred {i : BitVec 4} (h : Issues (.qpeek f) s c k) (hc : f.c = .p i) :
    exec (.qpeek f) s = .next (retire (s.modKite c k fun x =>
      (x.sset (opdValue f.a) ((s.queueOf c (opdValue f.b)).headD 0)).pfill i.toNat
        (decide (s.queueOf c (opdValue f.b) ≠ []))) c k f.yld) := by
  rw [exec_of_issues h rfl rfl]
  have hd : (!(s.queueOf c (opdValue f.b)).isEmpty) = decide (s.queueOf c (opdValue f.b) ≠ []) := by
    cases s.queueOf c (opdValue f.b) <;> rfl
  simp only [hc, hd, Res.ends_done]

/-! ## Tethers (R104, R105, R107) -/

theorem tetherTarget_left (n k : Nat) : tetherTarget n k 0 = ((k + n - 1) % n, 1) := rfl

theorem tetherTarget_right (n k : Nat) : tetherTarget n k 1 = ((k + 1) % n, 0) := rfl

section Tsend

variable {i : Instr} {op lo hi d j t : Nat} (h : Issues i s c k) (hp : carugParts i = some (op, lo, hi, f))
  (ht : tetherTarget (s.crew c).n k d = (j, t))
include h hp ht

/-- A tsend reaches the port of its direction where that holds fewer than 4 entries. -/
theorem runTsend_of_room (hl : ((s.kite c j).port t).length < 4) :
    runTsend i f d s = .next (retire (s.modKite c j fun y =>
      y.setPort t ((s.kite c j).port t ++ [(s.kite c k).opd f.b])) c k f.yld) := by
  simp only [runTsend, issue_of_issues h hp, ht, if_neg (Nat.not_le.mpr hl), Res.ends_done]

theorem runTsend_of_full (hl : 4 ≤ ((s.kite c j).port t).length) :
    runTsend i f d s = .next (waitKite s c k (.tsend d)) := by
  simp only [runTsend, issue_of_issues h hp, ht, if_pos hl, Res.ends_wait]

end Tsend

theorem exec_trecv_of_cons {w : Word} {l : List Word} (h : Issues (.trecv f) s c k)
    (hl : (s.kite c k).port (opdValue f.b) = w :: l) :
    exec (.trecv f) s = .next (retire (s.modKite c k fun x =>
      (x.readAnew.setPort (opdValue f.b) l).sset (opdValue f.a) w) c k f.yld) := by
  rw [exec_of_issues h rfl rfl]
  simp only [hl, Res.ends_done]

theorem exec_trecv_of_nil (h : Issues (.trecv f) s c k) (hl : (s.kite c k).port (opdValue f.b) = []) :
    exec (.trecv f) s = .next (waitKite s c k (.trecv (opdValue f.b))) := by
  rw [exec_of_issues h rfl rfl]
  simp only [hl, Res.ends_wait]

/-! ## bar.arrive (R110, R111) -/

theorem exec_barArrive_of_range (h : Issues (.barArrive f) s c k)
    (hu : 2 * flightSize s c ≤ (s.kite c k).barUnitNo f) :
    exec (.barArrive f) s = .next (trapKite s c k (trapAt 0x04 ((s.kite c k).barUnitNo f) 0) .here none) := by
  rw [exec_of_issues h rfl rfl]
  simp only [if_pos hu, Res.ends_raise, barTrap]

theorem exec_barArrive_of_outstanding (h : Issues (.barArrive f) s c k)
    (hu : (s.kite c k).barUnitNo f < 2 * flightSize s c)
    (ho : outstanding (closeStrip s c k) c ((s.kite c k).barUnitNo f) ((closeStrip s c k).kite c k).arr = true) :
    exec (.barArrive f) s = .next (waitKite (closeStrip s c k) c k (.barArrive ((s.kite c k).barUnitNo f))) := by
  rw [exec_of_issues h rfl rfl]
  simp only [if_neg (Nat.not_le.mpr hu), if_pos ho, Res.ends_wait]

/-- The marker of a bar.arrive at a unit: of its current phase, for all kites of the flight where C gives no count. -/
def barMarker (t : State) (c u : Nat) (f : Fields) : Marker :=
  { unit := u, phase := (barUnit t c u).phase, scope := opdValue f.b
    count := match f.c with | .uimm n => n.toNat | _ => flightSize t c * (t.crew c).n }

/-- The kite with a marker in its vector queue, and the arrival noted. -/
def Kite.placeMarker (x : Kite) (m : Marker) : Kite :=
  { x with vq := x.vq ++ [{ dispatched := false, marker := some m }], arr := x.arr.set m.unit m.phase }

theorem exec_barArrive_of_room (h : Issues (.barArrive f) s c k)
    (hu : (s.kite c k).barUnitNo f < 2 * flightSize s c)
    (ho : outstanding (closeStrip s c k) c ((s.kite c k).barUnitNo f) ((closeStrip s c k).kite c k).arr = false)
    (hv : ((closeStrip s c k).kite c k).vq.length < 8) :
    exec (.barArrive f) s = .next (retire ((closeStrip s c k).modKite c k fun x =>
      x.placeMarker (barMarker (closeStrip s c k) c ((s.kite c k).barUnitNo f) f)) c k f.yld) := by
  rw [exec_of_issues h rfl rfl]
  simp only [if_neg (Nat.not_le.mpr hu), if_neg (Nat.not_le.mpr hv), ho, Bool.false_eq_true, if_false, Res.ends_done]
  rfl

/-! ## bar.wait (R111, R112) -/

theorem exec_barWait_of_range (h : Issues (.barWait f) s c k)
    (hu : 2 * flightSize s c ≤ (s.kite c k).barUnitNo f) :
    exec (.barWait f) s = .next (trapKite s c k (trapAt 0x04 ((s.kite c k).barUnitNo f) 0) .here none) := by
  rw [exec_of_issues h rfl rfl]
  simp only [if_pos hu, Res.ends_raise, barTrap]

theorem exec_barWait_of_outstanding (h : Issues (.barWait f) s c k)
    (hu : (s.kite c k).barUnitNo f < 2 * flightSize s c)
    (ho : outstanding s c ((s.kite c k).barUnitNo f) (s.kite c k).arr = true) :
    exec (.barWait f) s = .next (waitKite s c k (.barWait ((s.kite c k).barUnitNo f))) := by
  rw [exec_of_issues h rfl rfl]
  simp only [if_neg (Nat.not_le.mpr hu), if_pos ho, Res.ends_wait]

/-- Whether an arrival of the phase of the kite's latest arrival at a unit fails the test of its scope (R112). -/
def arrivalUnmet (s : State) (c u scope : Nat) (arr : Tab Nat) : Bool :=
  (arr.find u).any fun p => !phaseMatches s c scope p (barUnit s c u)

/-- The kite behind a bar.wait: it reads anew, the arrival is used up (log 12), SCX records a failed scope. -/
def Kite.passBarrier (x : Kite) (u : Nat) (bad : Bool) : Kite :=
  { x.readAnew with arr := x.arr.del u, scx := x.scx || bad }

theorem arrivalUnmet_iff {u scope : Nat} {arr : Tab Nat} : arrivalUnmet s c u scope arr = true ↔
    ∃ p, arr.find u = some p ∧ ∃ e ∈ (barUnit s c u).past.get p,
      ¬ (includes c s.module.devnum scope e.1 s.module.devnum = true ∧
        includes e.1 s.module.devnum e.2 c s.module.devnum = true) := by
  simp only [arrivalUnmet, phaseMatches, Option.any_eq_true, Bool.not_eq_true', List.all_eq_false, Bool.and_eq_true]

/-- The state behind a bar.wait whose scope is not yet acquired. -/
def barrierPassed (s : State) (c k u scope : Nat) : State :=
  s.modKite c k fun x => x.passBarrier u (arrivalUnmet s c u scope (s.kite c k).arr)

theorem exec_barWait_of_complete (h : Issues (.barWait f) s c k)
    (hu : (s.kite c k).barUnitNo f < 2 * flightSize s c)
    (ho : outstanding s c ((s.kite c k).barUnitNo f) (s.kite c k).arr = false) :
    exec (.barWait f) s = .next (retire
      (if opdValue f.b = 1 then kiteAcquire (barrierPassed s c k ((s.kite c k).barUnitNo f) (opdValue f.b)) c k 1
        else barrierPassed s c k ((s.kite c k).barUnitNo f) (opdValue f.b)) c k f.yld) := by
  rw [exec_of_issues h rfl rfl]
  simp only [if_neg (Nat.not_le.mpr hu), ho, Bool.false_eq_true, if_false, Res.ends_done, barrierPassed, arrivalUnmet,
    Kite.passBarrier]
  cases (s.kite c k).arr.find ((s.kite c k).barUnitNo f) <;> rfl

end Instructions

/-! ## The phases of a barrier unit (R110) -/

section Phases

variable (b : BarUnit) (core count scope : Nat)

/-- How many arrivals the current phase takes: the first of a phase sets it. -/
def BarUnit.takes (b : BarUnit) (count : Nat) : Nat := if b.arr = [] then count else b.n

theorem BarUnit.arrive_eq : b.arrive core count scope =
    if b.takes count ≤ b.arr.length + 1 then
      { phase := b.phase + 1, n := 0, arr := [], past := b.past.set b.phase (b.arr ++ [(core, scope)]) }
    else { b with n := b.takes count, arr := b.arr ++ [(core, scope)] } := by
  by_cases hb : b.arr = [] <;>
    simp only [BarUnit.arrive, BarUnit.takes, hb, List.isEmpty_iff, List.length_append, List.length_singleton, if_true,
      if_false]

variable {b count}

theorem BarUnit.arrive_of_lt (h : b.arr.length + 1 < b.takes count) :
    b.arrive core count scope = { b with n := b.takes count, arr := b.arr ++ [(core, scope)] } := by
  rw [b.arrive_eq, if_neg (Nat.not_le.mpr h)]

theorem BarUnit.arrive_of_le (h : b.takes count ≤ b.arr.length + 1) : b.arrive core count scope =
    { phase := b.phase + 1, n := 0, arr := [], past := b.past.set b.phase (b.arr ++ [(core, scope)]) } := by
  rw [b.arrive_eq, if_pos h]

end Phases

/-! ## The statements -/

theorem kiteQueues : KiteQueues :=
  ⟨fun _ _ _ _ h => ⟨exec_qpush_of_room h, exec_qpush_of_full h⟩,
    fun _ _ _ _ h => ⟨fun _ hw =>
      have ⟨_, hq⟩ := List.head?_eq_some_iff.mp hw
      exec_qpop_of_cons h hq, exec_qpop_of_nil h⟩,
    fun _ _ _ _ h hc => exec_qpeek_of_none h hc,
    fun _ _ _ _ _ h hc => exec_qpeek_of_pred h hc⟩

theorem tethers : Tethers :=
  ⟨fun _ _ _ _ h =>
      ⟨runTsend_of_room h rfl (tetherTarget_left ..), runTsend_of_full h rfl (tetherTarget_left ..)⟩,
    fun _ _ _ _ h =>
      ⟨runTsend_of_room h rfl (tetherTarget_right ..), runTsend_of_full h rfl (tetherTarget_right ..)⟩,
    fun _ _ _ _ h => ⟨fun _ _ hl => exec_trecv_of_cons h hl, exec_trecv_of_nil h⟩⟩

/-- Settles O12: each instruction has one equation for a full, an empty and any other queue or port. -/
theorem queuesAndTethers : Obligations.QueuesAndTethers :=
  ⟨kiteQueues, tethers⟩

theorem kiteBarriers : KiteBarriers :=
  ⟨fun _ _ _ _ h => ⟨exec_barArrive_of_range h, exec_barArrive_of_outstanding h, exec_barArrive_of_room h⟩,
    fun _ _ _ _ h => ⟨exec_barWait_of_range h, exec_barWait_of_outstanding h⟩⟩

theorem barrierWaits : BarrierWaits := by
  intro s c k f h u d scope hu ho
  have hk : (s.modKite c k fun _ => (s.kite c k).passBarrier u (arrivalUnmet s c u scope (s.kite c k).arr)) =
      barrierPassed s c k u scope := s.modKite_congr rfl
  refine ⟨(s.kite c k).passBarrier u (arrivalUnmet s c u scope (s.kite c k).arr),
    ⟨_, arrivalUnmet_iff, rfl⟩, fun hs => ?_, fun hs => ?_⟩
  · rw [hk, exec_barWait_of_complete h hu ho, if_neg hs]
  · rw [hk, exec_barWait_of_complete h hu ho, if_pos hs]

theorem barrierPhases : BarrierPhases := by
  intro b core count scope n
  constructor
  · intro hn
    rw [BarUnit.arrive_of_lt core scope hn]
    exact ⟨rfl, rfl, rfl⟩
  · intro hn
    rw [BarUnit.arrive_of_le core scope hn]
    exact ⟨rfl, rfl, Tab.get_set_self ..⟩

/-- Settles O13: a bar.arrive or bar.wait has one equation for each way that it ends, and an arrival at a unit one for
the last of a phase and one for any other. -/
theorem barriers : Obligations.Barriers :=
  ⟨kiteBarriers, barrierWaits, barrierPhases⟩

end Sys2Proof.Machine
end
